-- ==== Sys2Proof/Word.lean ====
section
/-! DEFINITION. The word types of the ZW48 (R7, R84, R106) and their plainest arithmetic. -/

namespace Sys2Proof

/-- One byte of memory or of the scratchpad. -/
abbrev Byte := BitVec 8

/-- A 32-bit general register (R84). -/
abbrev Word := BitVec 32

/-- A register pair, a PC, a virtual address (R62, R73, R175). -/
abbrev Dword := BitVec 64

/-- A 36-bit PAIR sub-operation (R78). -/
abbrev Sub36 := BitVec 36

/-- One 96-bit instruction slot (R60). -/
abbrev Slot := BitVec 96

/-- The low word of a pair (the even register, R73). -/
def Dword.lo (x : Dword) : Word := x.extractLsb' 0 32

/-- The high word of a pair (the odd register, R73). -/
def Dword.hi (x : Dword) : Word := x.extractLsb' 32 32

/-- A pair from its high and its low word (R73, R106). -/
def Dword.mk (hi lo : Word) : Dword := hi ++ lo

end Sys2Proof
end

