-- ==== Sys2Proof/Syntax.lean ====
section
/-! DEFINITION. The syntax of Wiore version 1 (R68 to R102) and of the device's other indivisible
steps: one constructor of `Instr` per row of the table of operations and events. -/

namespace Sys2Proof

/-- An operand specifier (R72). `z` is 0xFF: reads zero, a write to it is discarded. -/
inductive Opd where
  | g (n : BitVec 7)
  | s (n : BitVec 6)
  | p (n : BitVec 4)
  | q (n : BitVec 3)
  | j (n : BitVec 3)
  | a (n : BitVec 3)
  | tc (n : BitVec 3)
  | z
  deriving DecidableEq, Repr

/-- The common header beyond OP and FMT (R68): guard, guard negation and the two hints. -/
structure Hdr where
  gp : BitVec 4
  gn : Bool
  gap : BitVec 3
  gw : Bool
  deriving DecidableEq, Repr

/-- Rounding modes (R80). -/
inductive Rm where
  | rn | rz | ru | rd | rs
  deriving DecidableEq, Repr

/-- Memory scopes (R77, R197). -/
inductive Scope where
  | block | field | wafer | system
  deriving DecidableEq, Repr

/-- Memory orders (R77). -/
inductive Order where
  | relaxed | acquire | release | acqRel
  deriving DecidableEq, Repr

/-- Replacement hints (R77, R191). -/
inductive Hint where
  | normal | evictFirst | evictLast | noAllocate
  deriving DecidableEq, Repr

/-- Integer compare codes (R144). -/
inductive ICmp where
  | eq | ne | lt | le | gt | ge | ltu | leu | gtu | geu
  deriving DecidableEq, Repr

/-- Floating compare codes (R158). -/
inductive FCmp where
  | eq | ne | lt | le | gt | ge | equ | neu | ltu | leu | gtu | geu | num | nan
  deriving DecidableEq, Repr

/-- The formats FCLASS reads (R159). -/
inductive ClassFmt where
  | f32 | f16 | bf16 | f64
  deriving DecidableEq, Repr

/-- Element formats by their R163 codes 0 to 14. -/
inductive Elem where
  | f32 | f16 | bf16 | f64 | s32 | u32 | s64 | u64 | e4m3 | e5m2 | e2m1 | s8 | s4 | s3 | u8
  deriving DecidableEq, Repr

/-- SHFL modes (R147). -/
inductive ShflMode where
  | idx | up | down | xor
  deriving DecidableEq, Repr

/-- VOTE modes (R148). -/
inductive VoteMode where
  | any | all | uni | elect
  deriving DecidableEq, Repr

/-- REDUX and SCAN operations (R149). -/
inductive Rop where
  | add | min | max | minu | maxu | and | or | xor
  deriving DecidableEq, Repr

/-- Atomic operations (R221). -/
inductive Aop where
  | add | and | or | xor | min | max | minu | maxu | exch | inc | dec | fadd | fmin | fmax
  | hadd2 | badd2
  deriving DecidableEq, Repr

/-- TALLOC modes (R245). -/
inductive AllocMode where
  | plain | rdy | rx
  deriving DecidableEq, Repr

/-- TLOAD modes (R247). -/
inductive LoadMode where
  | plain | gather | conv
  deriving DecidableEq, Repr

/-- The special registers (R86). -/
inductive SReg where
  | wid | lane | skein | block | field | core | cmpt | launch | clock | time | status | hvec
  | epc | upend | seed | icount | ycount | lasty | umask | gregs | levels | gtsel | gtdata
  deriving DecidableEq, Repr

/-- The 64 pairable sub-operations (R100). -/
inductive Sop where
  | iadd | isub | imul | imulh | imulhu | imad | imin | imax | iminu | imaxu | iabs | ineg
  | and | or | xor | not
  | andn | shl | shr | sar | rotl | popc | clz | ctz | brev | bfe | bysel | mov | fadd | fsub
  | fmul | ffma
  | fmin | fmax | fabs | fneg | fcopys | fdiv | hadd2 | hmul2 | hfma2 | badd2 | bmul2 | bfma2
  | cvt | rndi | q8add | q8mul
  | q8min | q8max | idp4 | fdp2 | scalex | rcp | rsq | sqrt | exp2 | log2 | exp | log | sinpi
  | cospi | tanh | sigm
  deriving DecidableEq, Repr

/-- One half of a PAIR (R78): every operand is a g register, `b` absent when the sub-operation
uses none. -/
structure SubOp where
  sop : Sop
  d : BitVec 7
  a : BitVec 7
  b : Option (BitVec 7)
  smod : BitVec 6
  deriving DecidableEq, Repr

/-- FMT 0 operands (R76). `e` holds the empty-action bits of A (bit 0), B and C; `ib` selects the
immediate in place of B (R122, R153). -/
structure F0 where
  d : Opd
  a : Opd
  b : Opd
  c : Opd
  e : BitVec 3
  ib : Bool
  imm : BitVec 16
  deriving DecidableEq, Repr

/-- The rounding fields of FMT 0 (R80, R97). -/
structure Rnd where
  rm : Rm
  sat : Bool
  ftz : Bool
  deriving DecidableEq, Repr

/-- FMT 1 operands (R76). -/
structure F1 where
  d : Opd
  a : Opd
  e : Bool
  imm : BitVec 32
  deriving DecidableEq, Repr

/-- FMT 2 fields other than D (R77). `ty` is TYPE, or FK for FENCE (R224). -/
structure F2 where
  a : Opd
  b : Opd
  ea : Bool
  ed : Bool
  ty : BitVec 2
  scope : Scope
  order : Order
  size : BitVec 3
  resp : BitVec 4
  hint : Hint
  off : BitVec 24
  deriving DecidableEq, Repr

/-- FMT 3 fields (R76). -/
structure F3 where
  j : BitVec 3
  enr : Bool
  uni : Bool
  a : Opd
  disp : BitVec 32
  deriving DecidableEq, Repr

/-- The fields of the atomics (R98) other than AOP. -/
structure FA where
  d : Opd
  a : Opd
  b : Opd
  c : Opd
  e : BitVec 3
  scope : Scope
  order : Order
  size : BitVec 3
  resp : BitVec 4
  hint : Hint
  imm : BitVec 16
  deriving DecidableEq, Repr

/-- A unit kind of a fault record (R412). -/
inductive UnitKind where
  | none | core | cluster | sector | slice | link | channel | port | line
  deriving DecidableEq, Repr

/-- A unit of the wafer: its field, kind and number within the field; `k` is the core within the
cluster for a core (R12, R412). -/
structure UnitId where
  field : Nat
  kind : UnitKind
  num : Nat
  k : Nat
  deriving DecidableEq, Repr

/-- Where an uncorrectable error is found (R451). -/
inductive EccSite where
  | regfile | scratch | l0 | cluster | l2 | fieldCache | dram | shadow | pageTable
  deriving DecidableEq, Repr

/-- An inbound RoCEv2 request (R347, R348), with the number of its packet and its ECN field: 0 not capable, 3
marked, else capable. -/
structure InReq where
  vf : Nat
  win : Nat
  qpn : Nat
  key : Word
  off : Nat
  len : Nat
  data : List Byte
  imm : Word
  add : Dword
  cmp : Dword
  psn : Nat := 0
  ecn : BitVec 2 := 0
  deriving DecidableEq, Repr

/-- What is fused into a field at manufacture (R17, R356): its fuse map and the digest of that map, and the key
digest and minimum security version that its boot ROM checks an image against. -/
structure Fuse where
  cores : BitVec 192
  clusters : BitVec 48
  digest : BitVec 512
  key : List Byte
  minVersion : Nat
  deriving DecidableEq, Repr

/-- An image slot of the flash (R356): its bytes, header included, the public key and the security version in the
header, and the digest that its signature gives under that key. -/
structure Image where
  bytes : List Byte
  key : List Byte
  version : Nat
  signed : List Byte
  deriving DecidableEq, Repr

/-- What one field finds of itself at a start (R18, R355, R358): whether self-test passes, the cores, clusters,
channels, sectors, L2 slices and banks that do, the links that come up, and the lanes of its Ethernet ports that
train. -/
structure FieldReport where
  selfTest : Bool
  cores : BitVec 192
  clusters : BitVec 48
  channels : BitVec 8
  sect : BitVec 3
  slices : BitVec 24
  banks : BitVec 192
  linkUp : BitVec 4
  ethLanes : List (BitVec 8)
  deriving DecidableEq, Repr

/-- A partition's units in one field, as its record publishes them (R279, R281). -/
structure PartField where
  clus : BitVec 64
  clusm : BitVec 64
  clush : BitVec 64
  bank : BitVec 192
  bankm : BitVec 192
  bankh : BitVec 192
  chsh : BitVec 64
  fcsh : Nat
  fstore : Nat
  shadow : Nat
  ethsh : BitVec 24
  deriving DecidableEq, Repr

/-- What a power-on or a warm reset meets (R355, R358, R473): the rails and clock, the boot record's MAGIC, whether
Tolquel stops in step 4, the step in which the start stands without coming to an end, the lead fields that fail
during step 4, the fields' reports, the fuses of a module not started before, the units that Tolquel fixes for
partition 0 (R278), and the package number where the operator has the BMC write one (R357). -/
structure StartReport where
  powerOk : Bool
  magicOk : Bool
  serviceOk : Bool
  stall : Option Nat
  deadLeads : BitVec 48
  bmcTime : Dword
  fields : List FieldReport
  fuses : List Fuse
  service : List (Nat × PartField)
  pkgid : Option Nat := none
  deriving DecidableEq, Repr

/-- One step of the device: an instruction of Wiore with its decoded fields (R92), or an event of
the device's units, of Tolquel, of the operator or of a peer, with what identifies it. -/
inductive Instr where
  /-- NOP (R138). -/
  | nop (h : Hdr)
  /-- PAIR (R78). -/
  | pair (h : Hdr) (s0 s1 : SubOp)
  /-- BRA (R124). -/
  | bra (h : Hdr) (f : F3)
  /-- BRX (R124). -/
  | brx (h : Hdr) (rel : Bool) (f : F3)
  /-- CALL (R125). -/
  | call (h : Hdr) (f : F3)
  /-- CALLX (R125). -/
  | callx (h : Hdr) (link : Opd) (f : F3)
  /-- RET (R125). -/
  | ret (h : Hdr) (a : Opd)
  /-- ENROL (R38). -/
  | enrol (h : Hdr) (j : BitVec 3)
  /-- JOIN (R39). -/
  | join (h : Hdr) (j : BitVec 3)
  /-- YIELD (R127). -/
  | yield (h : Hdr) (e : BitVec 3) (n : BitVec 12)
  /-- EXIT (R128). -/
  | exit (h : Hdr) (e : BitVec 3)
  /-- BAR (R129). -/
  | bar (h : Hdr) (e : BitVec 3)
  /-- BARG (R129). -/
  | barg (h : Hdr) (e : BitVec 3)
  /-- BARW (R129). -/
  | barw (h : Hdr) (e : BitVec 3)
  /-- WAITTL (R132). -/
  | waittl (h : Hdr) (tc : BitVec 3) (a : Opd) (e : Bool) (scope : Scope) (imm : BitVec 32)
  /-- NAP (R133). -/
  | nap (h : Hdr) (a : Opd) (e : Bool) (imm : BitVec 16)
  /-- RETU (R134). -/
  | retu (h : Hdr) (e : BitVec 3)
  /-- UMASK (R135). -/
  | umask (h : Hdr) (e : Bool) (v : Bool)
  /-- SREAD (R136). -/
  | sread (h : Hdr) (d : Opd) (e : Bool) (r : SReg)
  /-- SWRITE (R136). -/
  | swrite (h : Hdr) (a : Opd) (e : Bool) (r : SReg)
  /-- TRAP (R137). -/
  | trap (h : Hdr) (e : Bool) (code : BitVec 32)
  /-- BKPT (R137). -/
  | bkpt (h : Hdr) (e : Bool) (code : BitVec 32)
  /-- IADD (R139). -/
  | iadd (h : Hdr) (f : F0)
  /-- ISUB (R139). -/
  | isub (h : Hdr) (f : F0)
  /-- IADDC (R140). -/
  | iaddc (h : Hdr) (co : BitVec 4) (f : F0)
  /-- ISUBB (R140). -/
  | isubb (h : Hdr) (co : BitVec 4) (f : F0)
  /-- IMUL (R139). -/
  | imul (h : Hdr) (f : F0)
  /-- IMULH (R139). -/
  | imulh (h : Hdr) (f : F0)
  /-- IMULHU (R139). -/
  | imulhu (h : Hdr) (f : F0)
  /-- IMAD (R139). -/
  | imad (h : Hdr) (f : F0)
  /-- IADD64 (R139). -/
  | iadd64 (h : Hdr) (f : F0)
  /-- ISUB64 (R139). -/
  | isub64 (h : Hdr) (f : F0)
  /-- IMUL64 (R139). -/
  | imul64 (h : Hdr) (f : F0)
  /-- IDIVU (R141). -/
  | idivu (h : Hdr) (f : F0)
  /-- IDIVS (R141). -/
  | idivs (h : Hdr) (f : F0)
  /-- IREMU (R141). -/
  | iremu (h : Hdr) (f : F0)
  /-- IREMS (R141). -/
  | irems (h : Hdr) (f : F0)
  /-- IMIN (R139). -/
  | imin (h : Hdr) (f : F0)
  /-- IMAX (R139). -/
  | imax (h : Hdr) (f : F0)
  /-- IMINU (R139). -/
  | iminu (h : Hdr) (f : F0)
  /-- IMAXU (R139). -/
  | imaxu (h : Hdr) (f : F0)
  /-- IABS (R139). -/
  | iabs (h : Hdr) (f : F0)
  /-- INEG (R139). -/
  | ineg (h : Hdr) (f : F0)
  /-- AND (R139). -/
  | and (h : Hdr) (f : F0)
  /-- OR (R139). -/
  | or (h : Hdr) (f : F0)
  /-- XOR (R139). -/
  | xor (h : Hdr) (f : F0)
  /-- NOT (R139). -/
  | not (h : Hdr) (f : F0)
  /-- ANDN (R139). -/
  | andn (h : Hdr) (f : F0)
  /-- SHL (R142). -/
  | shl (h : Hdr) (wrap : Bool) (f : F0)
  /-- SHR (R142). -/
  | shr (h : Hdr) (wrap : Bool) (f : F0)
  /-- SAR (R142). -/
  | sar (h : Hdr) (wrap : Bool) (f : F0)
  /-- SHL64 (R142). -/
  | shl64 (h : Hdr) (wrap : Bool) (f : F0)
  /-- SHR64 (R142). -/
  | shr64 (h : Hdr) (wrap : Bool) (f : F0)
  /-- SAR64 (R142). -/
  | sar64 (h : Hdr) (wrap : Bool) (f : F0)
  /-- ROTL (R139). -/
  | rotl (h : Hdr) (f : F0)
  /-- FUNNEL (R143). -/
  | funnel (h : Hdr) (left : Bool) (f : F0)
  /-- POPC (R139). -/
  | popc (h : Hdr) (f : F0)
  /-- CLZ (R139). -/
  | clz (h : Hdr) (f : F0)
  /-- CTZ (R139). -/
  | ctz (h : Hdr) (f : F0)
  /-- BREV (R139). -/
  | brev (h : Hdr) (f : F0)
  /-- BFE (R143). -/
  | bfe (h : Hdr) (sgn : Bool) (f : F0)
  /-- BFI (R143). -/
  | bfi (h : Hdr) (f : F0)
  /-- BYSEL (R143). -/
  | bysel (h : Hdr) (f : F0)
  /-- ISET (R144). -/
  | iset (h : Hdr) (cmp : ICmp) (f : F0)
  /-- ISET64 (R144). -/
  | iset64 (h : Hdr) (cmp : ICmp) (f : F0)
  /-- ISEL (R144). -/
  | isel (h : Hdr) (f : F0)
  /-- MOV (R145). -/
  | mov (h : Hdr) (w64 : Bool) (f : F0)
  /-- MOVI (R145). -/
  | movi (h : Hdr) (w64 : Bool) (d : Opd) (imm : BitVec 32)
  /-- MOVS (R145). -/
  | movs (h : Hdr) (w64 : Bool) (f : F0)
  /-- LEA (R145). -/
  | lea (h : Hdr) (scale : BitVec 3) (iu : Bool) (f : F0)
  /-- FADD (R155). -/
  | fadd (h : Hdr) (r : Rnd) (f : F0)
  /-- FSUB (R155). -/
  | fsub (h : Hdr) (r : Rnd) (f : F0)
  /-- FMUL (R155). -/
  | fmul (h : Hdr) (r : Rnd) (f : F0)
  /-- FFMA (R155). -/
  | ffma (h : Hdr) (r : Rnd) (f : F0)
  /-- FMIN (R156). -/
  | fmin (h : Hdr) (ftz : Bool) (f : F0)
  /-- FMAX (R156). -/
  | fmax (h : Hdr) (ftz : Bool) (f : F0)
  /-- FABS (R157). -/
  | fabs (h : Hdr) (ftz : Bool) (f : F0)
  /-- FNEG (R157). -/
  | fneg (h : Hdr) (ftz : Bool) (f : F0)
  /-- FCOPYS (R157). -/
  | fcopys (h : Hdr) (ftz : Bool) (f : F0)
  /-- FSET (R158). -/
  | fset (h : Hdr) (cmp : FCmp) (ftz : Bool) (f : F0)
  /-- FCLASS (R159). -/
  | fclass (h : Hdr) (cf : ClassFmt) (f : F0)
  /-- FDIV (R160). -/
  | fdiv (h : Hdr) (r : Rnd) (f : F0)
  /-- HADD2 (R161). -/
  | hadd2 (h : Hdr) (r : Rnd) (f : F0)
  /-- HMUL2 (R161). -/
  | hmul2 (h : Hdr) (r : Rnd) (f : F0)
  /-- HFMA2 (R161). -/
  | hfma2 (h : Hdr) (r : Rnd) (f : F0)
  /-- BADD2 (R161). -/
  | badd2 (h : Hdr) (r : Rnd) (f : F0)
  /-- BMUL2 (R161). -/
  | bmul2 (h : Hdr) (r : Rnd) (f : F0)
  /-- BFMA2 (R161). -/
  | bfma2 (h : Hdr) (r : Rnd) (f : F0)
  /-- DADD (R162). -/
  | dadd (h : Hdr) (r : Rnd) (f : F0)
  /-- DMUL (R162). -/
  | dmul (h : Hdr) (r : Rnd) (f : F0)
  /-- DFMA (R162). -/
  | dfma (h : Hdr) (r : Rnd) (f : F0)
  /-- DSET (R158). -/
  | dset (h : Hdr) (cmp : FCmp) (f : F0)
  /-- CVT (R164). -/
  | cvt (h : Hdr) (r : Rnd) (df sf : Elem) (f : F0)
  /-- CVTPK (R165). -/
  | cvtpk (h : Hdr) (r : Rnd) (df src : Elem) (k : BitVec 3) (f : F0)
  /-- CVTUPK (R166). -/
  | cvtupk (h : Hdr) (df sf : Elem) (i : BitVec 4) (f : F0)
  /-- RNDI (R167). -/
  | rndi (h : Hdr) (r : Rnd) (f : F0)
  /-- Q8ADD (R168). -/
  | q8add (h : Hdr) (r : Rnd) (e5m2 : Bool) (f : F0)
  /-- Q8MUL (R168). -/
  | q8mul (h : Hdr) (r : Rnd) (e5m2 : Bool) (f : F0)
  /-- Q8MIN (R168). -/
  | q8min (h : Hdr) (r : Rnd) (e5m2 : Bool) (f : F0)
  /-- Q8MAX (R168). -/
  | q8max (h : Hdr) (r : Rnd) (e5m2 : Bool) (f : F0)
  /-- IDP4 (R169). -/
  | idp4 (h : Hdr) (ua ub : Bool) (f : F0)
  /-- FDP4 (R170). -/
  | fdp4 (h : Hdr) (r : Rnd) (a5 b5 : Bool) (f : F0)
  /-- FDP2 (R170). -/
  | fdp2 (h : Hdr) (r : Rnd) (f16 : Bool) (f : F0)
  /-- SCALEX (R171). -/
  | scalex (h : Hdr) (r : Rnd) (e8m2 : Bool) (i : BitVec 2) (f : F0)
  /-- RCP (R172). -/
  | rcp (h : Hdr) (f : F0)
  /-- RSQ (R172). -/
  | rsq (h : Hdr) (f : F0)
  /-- SQRT (R172). -/
  | sqrt (h : Hdr) (f : F0)
  /-- EXP2 (R172). -/
  | exp2 (h : Hdr) (f : F0)
  /-- LOG2 (R172). -/
  | log2 (h : Hdr) (f : F0)
  /-- EXP (R172). -/
  | exp (h : Hdr) (f : F0)
  /-- LOG (R172). -/
  | log (h : Hdr) (f : F0)
  /-- SINPI (R172). -/
  | sinpi (h : Hdr) (f : F0)
  /-- COSPI (R172). -/
  | cospi (h : Hdr) (f : F0)
  /-- TANH (R172). -/
  | tanh (h : Hdr) (f : F0)
  /-- SIGM (R172). -/
  | sigm (h : Hdr) (f : F0)
  /-- SHFL (R147). -/
  | shfl (h : Hdr) (mode : ShflMode) (wid : BitVec 3) (pv : BitVec 4) (f : F0)
  /-- VOTE (R148). -/
  | vote (h : Hdr) (mode : VoteMode) (f : F0)
  /-- BALLOT (R148). -/
  | ballot (h : Hdr) (f : F0)
  /-- MATCH (R148). -/
  | matchL (h : Hdr) (w64 : Bool) (f : F0)
  /-- REDUX (R149). -/
  | redux (h : Hdr) (rop : Rop) (f : F0)
  /-- SCAN (R149). -/
  | scan (h : Hdr) (rop : Rop) (excl : Bool) (f : F0)
  /-- PAND (R150). -/
  | pand (h : Hdr) (na nb : Bool) (f : F0)
  /-- POR (R150). -/
  | por (h : Hdr) (na nb : Bool) (f : F0)
  /-- PXOR (R150). -/
  | pxor (h : Hdr) (na nb : Bool) (f : F0)
  /-- PNOT (R150). -/
  | pnot (h : Hdr) (f : F0)
  /-- PMOV (R150). -/
  | pmov (h : Hdr) (dir : Bool) (f : F0)
  /-- LD (R215). -/
  | ld (h : Hdr) (d : Opd) (f : F2)
  /-- ST (R215). -/
  | st (h : Hdr) (d : Opd) (f : F2)
  /-- LDS (R216). -/
  | lds (h : Hdr) (d : Opd) (f : F2)
  /-- STS (R216). -/
  | sts (h : Hdr) (d : Opd) (f : F2)
  /-- LDQ (R218). -/
  | ldq (h : Hdr) (qn : BitVec 3) (f : F2)
  /-- PREF (R217). -/
  | pref (h : Hdr) (d : Opd) (f : F2)
  /-- RESIDE (R217). -/
  | reside (h : Hdr) (d : Opd) (f : F2)
  /-- FETCHPG (R219). -/
  | fetchpg (h : Hdr) (d : Opd) (f : F2)
  /-- ATOM (R222). -/
  | atom (h : Hdr) (aop : Aop) (f : FA)
  /-- ATOMS (R220). -/
  | atoms (h : Hdr) (aop : Aop) (f : FA)
  /-- CAS (R222). -/
  | cas (h : Hdr) (f : FA)
  /-- CAS128 (R222). -/
  | cas128 (h : Hdr) (f : FA)
  /-- RED (R222). -/
  | red (h : Hdr) (aop : Aop) (f : FA)
  /-- FENCE (R224). -/
  | fence (h : Hdr) (d : Opd) (f : F2)
  /-- QFENCE (R225). -/
  | qfence (h : Hdr) (d : Opd) (f : F2)
  /-- CINV (R226). -/
  | cinv (h : Hdr) (d : Opd) (f : F2)
  /-- CWB (R226). -/
  | cwb (h : Hdr) (d : Opd) (f : F2)
  /-- SNAP (R228). -/
  | snap (h : Hdr) (scope : Scope) (add : Bool) (d a b : Opd)
  /-- ACCEPT (R229). -/
  | accept (h : Hdr) (d a : Opd) (imm : BitVec 32)
  /-- REJECT (R229). -/
  | reject (h : Hdr) (d a : Opd) (imm : BitVec 32)
  /-- SNAPQ (R230). -/
  | snapq (h : Hdr) (d : Opd) (sel : BitVec 3)
  /-- PUT (R233). -/
  | put (h : Hdr) (sig ord : Bool) (d a b c : Opd) (w : BitVec 10)
  /-- GET (R233). -/
  | get (h : Hdr) (ord : Bool) (d a b c : Opd) (w : BitVec 10)
  /-- WAITW (R234). -/
  | waitw (h : Hdr) (sent : Bool) (d a b : Opd) (w : BitVec 10)
  /-- WREAD (R235). -/
  | wread (h : Hdr) (sent acq : Bool) (d : Opd) (w : BitVec 10)
  /-- LAUNCH (R316). -/
  | launch (h : Hdr) (d a : Opd) (w : BitVec 10)
  /-- LAUNCHW (R316). -/
  | launchw (h : Hdr) (d : Opd) (w : BitVec 10)
  /-- POSTC (R236). -/
  | postc (h : Hdr) (d a : Opd) (w : BitVec 10)
  /-- XDEF (R241). -/
  | xdef (h : Hdr) (d a : Opd) (x : BitVec 8)
  /-- XREAD (R241). -/
  | xread (h : Hdr) (a : Opd) (x : BitVec 8)
  /-- TALLOC (R245). -/
  | talloc (h : Hdr) (mode : AllocMode) (a b : Opd) (t : BitVec 6)
  /-- TFREE (R243). -/
  | tfree (h : Hdr) (t : BitVec 6)
  /-- TSTAT (R245). -/
  | tstat (h : Hdr) (d : Opd) (sel : BitVec 2) (obj : BitVec 8)
  /-- TLOAD (R248). -/
  | tload (h : Hdr) (nt : Bool) (mode : LoadMode) (d a c : Opd) (t : BitVec 6) (x : BitVec 8) (idx : BitVec 6) (ctx : BitVec 2)
  /-- TSTORE (R250). -/
  | tstore (h : Hdr) (nt keep : Bool) (d a : Opd) (t : BitVec 6) (x : BitVec 8) (ctx : BitVec 2)
  /-- TLOADB (R251). -/
  | tloadb (h : Hdr) (nt : Bool) (d a c : Opd) (buf : BitVec 3) (x : BitVec 8) (ctx : BitVec 2)
  /-- TMCAST (R252). -/
  | tmcast (h : Hdr) (nt : Bool) (d a b c : Opd) (t : BitVec 6) (x : BitVec 8) (ctx : BitVec 2)
  /-- TBINIT (R256). -/
  | tbinit (h : Hdr) (a b : Opd) (n : BitVec 16)
  /-- ARRIVE (R256). -/
  | arrive (h : Hdr) (d a : Opd) (n : BitVec 16)
  /-- EXPECT (R256). -/
  | expect (h : Hdr) (arv : Bool) (d a b : Opd) (n : BitVec 32)
  /-- WAITPH (R256). -/
  | waitph (h : Hdr) (a b : Opd) (ph : BitVec 4)
  /-- RSUM (R343). -/
  | rsum (h : Hdr) (d a b : Opd) (src res : BitVec 6)
  /-- MMA (R266). -/
  | mma (h : Hdr) (a : Opd) (imm : BitVec 32)
  /-- MZERO (R271). -/
  | mzero (h : Hdr) (d : Opd) (acc : BitVec 3) (ctx : Bool)
  /-- MPROM (R271). -/
  | mprom (h : Hdr) (d : Opd) (acc : BitVec 3) (ctx : Bool)
  /-- MLDA (R268). -/
  | mlda (h : Hdr) (d : Opd) (sc : Bool) (t st : BitVec 6) (buf : BitVec 2) (ctx : Bool)
  /-- MLDB (R268). -/
  | mldb (h : Hdr) (d : Opd) (sc : Bool) (t st : BitVec 6) (buf : BitVec 2) (ctx : Bool)
  /-- MSTA (R272). -/
  | msta (h : Hdr) (d : Opd) (acc : BitVec 3) (b : Opd) (rm : Rm) (sat sc : Bool) (swz : BitVec 2) (t st : BitVec 6) (ofmt : Elem) (ctx : Bool)
  /-- MREAD (R274). -/
  | mread (h : Hdr) (d : Opd) (acc : BitVec 3) (b : Opd) (i : BitVec 12)
  /-- MWRITE (R274). -/
  | mwrite (h : Hdr) (acc : BitVec 3) (b c : Opd) (i : BitVec 12)
  /-- GATE (R297). -/
  | gate (h : Hdr) (n : BitVec 8) (args res : BitVec 5)
  /-- RETG (R299). -/
  | retg (h : Hdr) (e : BitVec 3)
  /-- CPSET (R303). -/
  | cpset (h : Hdr) (d a b : Opd) (slot word : BitVec 2)
  /-- CPGET (R303). -/
  | cpget (h : Hdr) (d b : Opd) (slot word : BitVec 2)
  /-- TLBINV (R305). -/
  | tlbinv (h : Hdr) (all : Bool) (d a b c : Opd)
  /-- ASIDBIND (R304). -/
  | asidbind (h : Hdr) (ro unb : Bool) (d a b : Opd) (slot : BitVec 2)
  /-- CKPT (R306). -/
  | ckpt (h : Hdr) (d : Opd)
  /-- CROLL (R307). -/
  | croll (h : Hdr) (stay : Bool) (d a b : Opd)
  /-- HALT (R308). -/
  | halt (h : Hdr) (d a b : Opd)
  /-- RESUME (R308). -/
  | resume (h : Hdr) (d a b : Opd)
  /-- YIELD_OVERRUN (R40). -/
  | yieldOverrun (blk thr : Nat)
  /-- CHECKPOINT_PERIOD (R54). -/
  | checkpointPeriod (blk : Nat)
  /-- BLOCK_PARK (R41). -/
  | blockPark (blk : Nat)
  /-- CHECKPOINT_COMMIT (R202). -/
  | checkpointCommit (blk : Nat)
  /-- QUANTUM_END (R326). -/
  | quantumEnd (core : Nat)
  /-- USER_INTERRUPT_DELIVERY (R49). -/
  | userInterruptDelivery (blk skein : Nat)
  /-- VECTORING (R49). -/
  | vectoring (blk thr : Nat)
  /-- ACTIVATION_ENTRY (R297). -/
  | activationEntry (act : Nat)
  /-- DISPATCH (R321). -/
  | dispatch (launch : Nat)
  /-- FENCE_MET (R313). -/
  | fenceMet (launch : Nat)
  /-- BLOCK_END (R46). -/
  | blockEnd (blk : Nat)
  /-- COMPLETION_RECORD (R318). -/
  | completionRecord (launch : Nat)
  /-- LANDING (R204). -/
  | landing (blk tc num : Nat)
  /-- MCAST_LANDING (R252). -/
  | mcastLanding (blk tc num dst : Nat)
  /-- SHUTTLE_COMMAND_COMPLETE (R246). -/
  | shuttleCommandComplete (blk tc num : Nat)
  /-- MMA_START (R265). -/
  | mmaStart (blk tc num : Nat)
  /-- MATRIX_COMMAND_COMPLETE (R275). -/
  | matrixCommandComplete (blk tc num : Nat)
  /-- FETCHPG_COMPLETE (R219). -/
  | fetchpgComplete (blk num : Nat)
  /-- FETCH_NOFRAME (R219). -/
  | fetchNoframe (blk num : Nat)
  /-- WINDOW_COMMAND_COMPLETE (R233). -/
  | windowCommandComplete (blk num : Nat)
  /-- RSUM_PACKET (R343). -/
  | rsumPacket (pass stop : Nat)
  /-- BARRIER_ARRIVAL (R340). -/
  | barrierArrival (launch field : Nat)
  /-- BARRIER_RELEASE (R340). -/
  | barrierRelease (launch field : Nat)
  /-- DATA_RESPONSE (R329). -/
  | dataResponse (blk thr reg : Nat)
  /-- MIGRATION (R338). -/
  | migration (asid granule field : Nat)
  /-- HANG (R462). -/
  | hang (blk : Nat)
  /-- FAULT_HOLD_POLL (R411). -/
  | faultHoldPoll (vf : Nat)
  /-- WAITW_TIMEOUT (R234). -/
  | waitwTimeout (blk thr : Nat)
  /-- NAP_EXPIRY (R133). -/
  | napExpiry (blk thr : Nat)
  /-- WAITING_INSTRUCTION_COMPLETE (R302). -/
  | waitingInstructionComplete (blk thr : Nat)
  /-- REVOCATION (R283). -/
  | revocation (field : Nat) (bank : Bool) (num owner : Nat)
  /-- CTX_NEW (R288). -/
  | ctxNew (vf maxsc mode period root : Nat)
  /-- CTX_FREE (R289). -/
  | ctxFree (vf ctx : Nat)
  /-- ASID_NEW (R288). -/
  | asidNew (vf owner root : Nat) (shared : Nat)
  /-- ASID_FREE (R288). -/
  | asidFree (vf asid : Nat)
  /-- VF_SET (R460). -/
  | vfSet (vf weight quantum period : Nat)
  /-- GATE_RSV (R296). -/
  | gateRsv (vf entry : Nat) (fields : BitVec 48)
  /-- SHADOW_SET (R449). -/
  | shadowSet (vf field frames : Nat)
  /-- FSTORE_SET (R196). -/
  | fstoreSet (vf field mib : Nat)
  /-- PLACE (R339). -/
  | place (vf asid addr field : Nat)
  /-- QP_NEW (R353). -/
  | qpNew (vf port prio : Nat) (ip : BitVec 128) (peerQpn sendPsn recvPsn : Nat)
  /-- QP_FREE (R353). -/
  | qpFree (vf qpn : Nat)
  /-- WIN_SET (R353). -/
  | winSet (vf win : Nat) (w0 w1 w2 w3 w4 w5 : Dword)
  /-- WIN_FREE (R353). -/
  | winFree (vf win : Nat)
  /-- ATTEST (R360). -/
  | attest (vf addr : Nat) (nonce : BitVec 256)
  /-- TRACE_SET (R364). -/
  | traceSet (vf base n enables k : Nat)
  /-- CTR_SET (R371). -/
  | ctrSet (vf ctr : Nat) (cfg : Dword) (operator : Bool)
  /-- DBG_SET (R373). -/
  | dbgSet (vf ctx entry : Nat) (w0 w1 : Dword)
  /-- LOG_SET (R376). -/
  | logSet (vf ctx mode base len : Nat)
  /-- FAULT_SET (R411). -/
  | faultSet (vf base n : Nat)
  /-- ABORT (R409). -/
  | abort (vf ctx lnum : Nat)
  /-- SNAP_CLOSE (R449). -/
  | snapClose (vf ctx level op : Nat)
  /-- HANG_SET (R461). -/
  | hangSet (vf ctx h : Nat)
  /-- WIN_QP (R472). -/
  | winQp (vf win qpn : Nat)
  /-- ACK (R347). -/
  | ack (qpn psn : Nat)
  /-- CONGESTION_NOTIFICATION (R347). -/
  | congestionNotification (qpn : Nat)
  /-- RDMA_READ_RESPONSE (R347). -/
  | rdmaReadResponse (qpn psn : Nat) (data : List Byte)
  /-- RATE_RECOVERY (R347). -/
  | rateRecovery (qpn : Nat)
  /-- PTP_MESSAGE (R354). -/
  | ptpMessage (time : Dword)
  /-- POWER_ON (R355). -/
  | powerOn (r : StartReport)
  /-- LEAD_REACH_TIMEOUT (R358). -/
  | leadReachTimeout (field : Nat)
  /-- START_TIMEOUT (R473). -/
  | startTimeout
  /-- WARM_RESET (R470). -/
  | warmReset (r : StartReport)
  /-- PARTITION_CREATE (R278). -/
  | partitionCreate (part : Nat) (fields : List (Nat × PartField)) (lendTo borrow : Nat)
  /-- PARTITION_RESIZE (R278). -/
  | partitionResize (part : Nat) (fields : List (Nat × PartField))
  /-- PARTITION_DESTROY (R278). -/
  | partitionDestroy (part : Nat)
  /-- OPERATOR_CLEAR_ATTEMPTS (R359). -/
  | operatorClearAttempts
  /-- IMAGE_WRITE (R474). -/
  | imageWrite (slot : Bool) (image : Image) (imgsel : Option Bool)
  /-- FIELD_SELF_TEST (R474). -/
  | fieldSelfTest (field : Nat) (r : FieldReport)
  /-- OPERATOR_ATTEST (R360). -/
  | operatorAttest (nonce : BitVec 256)
  /-- OPERATOR_RESUME (R408). -/
  | operatorResume (ctx : Nat)
  /-- OPERATOR_ABORT (R408). -/
  | operatorAbort (ctx : Nat)
  /-- POWER_LOSS (R28). -/
  | powerLoss
  /-- RETURN_WITHIN_LIMIT (R29). -/
  | returnWithinLimit (field : Nat)
  /-- MEMORY_CHANNEL_RETRAINING (R465). -/
  | memoryChannelRetraining (field ch : Nat) (failures : Nat)
  /-- CROSSBAR_PORT_PARITY_ERROR (R465). -/
  | crossbarPortParityError (field sector : Nat) (cleared : Bool)
  /-- RNR_NAK (R347). -/
  | rnrNak (qpn : Nat)
  /-- PAUSE_FRAME (R346). -/
  | pauseFrame (port : Nat) (prios : BitVec 8) (pause : Bool)
  /-- CLEAN_EVICTION_NOTICE (R333). -/
  | cleanEvictionNotice (cluster asid line : Nat)
  /-- CLEAN_RELEASE_NOTICE (R333). -/
  | cleanReleaseNotice (field asid line : Nat)
  /-- SHARER_NOTICE (R335). -/
  | sharerNotice (cluster supplier asid line : Nat)
  /-- READ_REQUEST (R333). -/
  | readRequest (cluster asid line : Nat)
  /-- LINE_FETCH (R422). -/
  | lineFetch (core asid line : Nat) (first second : Option (BitVec 512))
  /-- OWNERSHIP_REQUEST (R333). -/
  | ownershipRequest (cluster asid line : Nat)
  /-- WRITE_REQUEST (R333). -/
  | writeRequest (cluster asid line : Nat) (mask : BitVec 32) (sector : Nat) (data : List Byte)
  /-- UNCACHED_READ (R333). -/
  | uncachedRead (cluster asid line : Nat)
  /-- UNCACHED_WRITE (R333). -/
  | uncachedWrite (cluster asid line : Nat) (mask : BitVec 32) (sector : Nat) (data : List Byte)
  /-- FAR_ATOMIC (R333). -/
  | farAtomic (cluster asid addr : Nat) (aop : Option Aop) (size : BitVec 3) (v : BitVec 128 × BitVec 128)
  /-- EVICTION (R333). -/
  | eviction (cluster asid line : Nat)
  /-- RECALL (R333). -/
  | recall (cluster asid line : Nat) (keep : Bool)
  /-- INVALIDATION (R333). -/
  | invalidation (cluster asid line : Nat)
  /-- PEER_PROBE (R335). -/
  | peerProbe (cluster asid line : Nat)
  /-- PLACEMENT_EPOCH (R337). -/
  | placementEpoch (field : Nat)
  /-- MARGIN_LEND (R282). -/
  | marginLend (field : Nat) (bank : Bool) (num owner : Nat)
  /-- REVOCATION_OVERRUN (R459). -/
  | revocationOverrun (field : Nat) (bank : Bool) (num owner : Nat)
  /-- PC_SAMPLE (R367). -/
  | pcSample (core vf : Nat)
  /-- HEARTBEAT_TIMEOUT (R465). -/
  | heartbeatTimeout (unit : UnitId)
  /-- LINK_RETRAIN (R483). -/
  | linkRetrain (field dir : Nat) (outcome : Nat)
  /-- LANE_TRAINING (R346). -/
  | laneTraining (port : Nat) (lanes : BitVec 8) (ok : Bool)
  /-- MEMORY_UNCORRECTABLE (R451). -/
  | memoryUncorrectable (site : EccSite) (field : Nat) (pa : Nat) (blk : Nat)
  /-- THERMAL_LIMIT (R29). -/
  | thermalLimit (field : Nat)
  /-- RDMA_WRITE (R348). -/
  | rdmaWrite (r : InReq)
  /-- RDMA_WRITE_WITH_IMMEDIATE (R349). -/
  | rdmaWriteWithImmediate (r : InReq)
  /-- RDMA_READ (R348). -/
  | rdmaRead (r : InReq)
  /-- FETCH_ADD (R205). -/
  | fetchAdd (r : InReq)
  /-- CMP_SWAP (R205). -/
  | cmpSwap (r : InReq)
  /-- ACK_TIMEOUT (R347). -/
  | ackTimeout (qpn : Nat)
  deriving DecidableEq, Repr

end Sys2Proof
end

