-- ==== Sys2Proof/WellFormed.lean ====
section
/-! DEFINITION. Which terms of the syntax are encodings (R72, R73, R78, R80, R102 and the operand
rules of each instruction), and what the access slice may hold (R50, R95, R121). -/

namespace Sys2Proof

/-! ### Codes of the named field values -/

def Opd.code : Opd → Nat
  | .g n => n.toNat
  | .s n => 0x80 + n.toNat
  | .p n => 0xC0 + n.toNat
  | .q n => 0xD0 + n.toNat
  | .j n => 0xD8 + n.toNat
  | .a n => 0xE0 + n.toNat
  | .tc n => 0xE8 + n.toNat
  | .z => 0xFF

def Rm.code : Rm → Nat
  | .rn => 0 | .rz => 1 | .ru => 2 | .rd => 3 | .rs => 4

def Scope.code : Scope → Nat
  | .block => 0 | .field => 1 | .wafer => 2 | .system => 3

def Order.code : Order → Nat
  | .relaxed => 0 | .acquire => 1 | .release => 2 | .acqRel => 3

def Hint.code : Hint → Nat
  | .normal => 0 | .evictFirst => 1 | .evictLast => 2 | .noAllocate => 3

def ICmp.code : ICmp → Nat
  | .eq => 0 | .ne => 1 | .lt => 2 | .le => 3 | .gt => 4 | .ge => 5 | .ltu => 6 | .leu => 7
  | .gtu => 8 | .geu => 9

def FCmp.code : FCmp → Nat
  | .eq => 0 | .ne => 1 | .lt => 2 | .le => 3 | .gt => 4 | .ge => 5 | .equ => 6 | .neu => 7
  | .ltu => 8 | .leu => 9 | .gtu => 10 | .geu => 11 | .num => 12 | .nan => 13

def ClassFmt.code : ClassFmt → Nat
  | .f32 => 0 | .f16 => 1 | .bf16 => 2 | .f64 => 3

def Elem.code : Elem → Nat
  | .f32 => 0 | .f16 => 1 | .bf16 => 2 | .f64 => 3 | .s32 => 4 | .u32 => 5 | .s64 => 6 | .u64 => 7
  | .e4m3 => 8 | .e5m2 => 9 | .e2m1 => 10 | .s8 => 11 | .s4 => 12 | .s3 => 13 | .u8 => 14

def ShflMode.code : ShflMode → Nat
  | .idx => 0 | .up => 1 | .down => 2 | .xor => 3

def VoteMode.code : VoteMode → Nat
  | .any => 0 | .all => 1 | .uni => 2 | .elect => 3

def Rop.code : Rop → Nat
  | .add => 0 | .min => 1 | .max => 2 | .minu => 3 | .maxu => 4 | .and => 5 | .or => 6 | .xor => 7

def Aop.code : Aop → Nat
  | .add => 0 | .and => 1 | .or => 2 | .xor => 3 | .min => 4 | .max => 5 | .minu => 6 | .maxu => 7
  | .exch => 8 | .inc => 9 | .dec => 10 | .fadd => 11 | .fmin => 12 | .fmax => 13 | .hadd2 => 14
  | .badd2 => 15

def AllocMode.code : AllocMode → Nat
  | .plain => 0 | .rdy => 1 | .rx => 2

def LoadMode.code : LoadMode → Nat
  | .plain => 0 | .gather => 1 | .conv => 2

def SReg.code : SReg → Nat
  | .wid => 0x000 | .lane => 0x001 | .skein => 0x002 | .block => 0x003 | .field => 0x004
  | .core => 0x005 | .cmpt => 0x006 | .launch => 0x007 | .clock => 0x008 | .time => 0x009
  | .status => 0x00A | .hvec => 0x00B | .epc => 0x00C | .upend => 0x00D | .seed => 0x00E
  | .icount => 0x00F | .ycount => 0x010 | .lasty => 0x011 | .umask => 0x012 | .gregs => 0x013
  | .levels => 0x014 | .gtsel => 0x020 | .gtdata => 0x021

/-- R86: the 64-bit special registers. -/
def SReg.wide : SReg → Bool
  | .wid | .block | .clock | .time | .hvec | .epc | .seed | .icount | .lasty | .levels | .gtdata => true
  | .lane | .skein | .field | .core | .cmpt | .launch | .status | .upend | .ycount | .umask | .gregs
  | .gtsel => false

/-- R50: SR.WID and the identity registers of R34, which the access slice may read. -/
def SReg.accessMay : SReg → Bool
  | .wid | .lane | .skein | .block | .field | .core => true
  | .cmpt | .launch | .clock | .time | .status | .hvec | .epc | .upend | .seed | .icount | .ycount
  | .lasty | .umask | .gregs | .levels | .gtsel | .gtdata => false

def Sop.code : Sop → Nat
  | .iadd => 0x00 | .isub => 0x01 | .imul => 0x02 | .imulh => 0x03 | .imulhu => 0x04 | .imad => 0x05
  | .imin => 0x06 | .imax => 0x07 | .iminu => 0x08 | .imaxu => 0x09 | .iabs => 0x0A | .ineg => 0x0B
  | .and => 0x0C | .or => 0x0D | .xor => 0x0E | .not => 0x0F | .andn => 0x10 | .shl => 0x11
  | .shr => 0x12 | .sar => 0x13 | .rotl => 0x14 | .popc => 0x15 | .clz => 0x16 | .ctz => 0x17
  | .brev => 0x18 | .bfe => 0x19 | .bysel => 0x1A | .mov => 0x1B | .fadd => 0x1C | .fsub => 0x1D
  | .fmul => 0x1E | .ffma => 0x1F | .fmin => 0x20 | .fmax => 0x21 | .fabs => 0x22 | .fneg => 0x23
  | .fcopys => 0x24 | .fdiv => 0x25 | .hadd2 => 0x26 | .hmul2 => 0x27 | .hfma2 => 0x28
  | .badd2 => 0x29 | .bmul2 => 0x2A | .bfma2 => 0x2B | .cvt => 0x2C | .rndi => 0x2D | .q8add => 0x2E
  | .q8mul => 0x2F | .q8min => 0x30 | .q8max => 0x31 | .idp4 => 0x32 | .fdp2 => 0x33
  | .scalex => 0x34 | .rcp => 0x35 | .rsq => 0x36 | .sqrt => 0x37 | .exp2 => 0x38 | .log2 => 0x39
  | .exp => 0x3A | .log => 0x3B | .sinpi => 0x3C | .cospi => 0x3D | .tanh => 0x3E | .sigm => 0x3F

/-! ### Formats of elements -/

/-- Bits of one element (R103, R106). -/
def Elem.bits : Elem → Nat
  | .f32 | .s32 | .u32 => 32
  | .f64 | .s64 | .u64 => 64
  | .f16 | .bf16 => 16
  | .e4m3 | .e5m2 | .s8 | .u8 => 8
  | .e2m1 | .s4 => 4
  | .s3 => 3

/-- R164: held in a register pair. -/
def Elem.wide (e : Elem) : Bool := e.bits == 64

/-- R106: elements per 32-bit word. -/
def Elem.perWord (e : Elem) : Nat := 32 / e.bits

/-- R165, R166: the formats that CVTPK packs and CVTUPK extracts. -/
def Elem.packed (e : Elem) : Bool := e == .f16 || e == .bf16 || 8 ≤ e.code

/-- R272: the formats MSTA converts to. -/
def Elem.mstaOk (e : Elem) : Bool :=
  e == .f32 || e == .f16 || e == .bf16 || e == .e4m3 || e == .e5m2 || e == .e2m1

/-! ### Operand kinds (R72, R73, R121, R152, R210) -/

def isZ : Opd → Bool
  | .z => true
  | .g _ | .s _ | .p _ | .q _ | .j _ | .a _ | .tc _ => false

def isG : Opd → Bool
  | .g _ => true
  | .z | .s _ | .p _ | .q _ | .j _ | .a _ | .tc _ => false

def isS : Opd → Bool
  | .s _ => true
  | .z | .g _ | .p _ | .q _ | .j _ | .a _ | .tc _ => false

def isP : Opd → Bool
  | .p _ => true
  | .z | .g _ | .s _ | .q _ | .j _ | .a _ | .tc _ => false

def isQ : Opd → Bool
  | .q _ => true
  | .z | .g _ | .s _ | .p _ | .j _ | .a _ | .tc _ => false

def isTc : Opd → Bool
  | .tc _ => true
  | .z | .g _ | .s _ | .p _ | .q _ | .j _ | .a _ => false

/-- An even g register, naming a pair. -/
def evenG : Opd → Bool
  | .g n => !n.getLsbD 0
  | .z | .s _ | .p _ | .q _ | .j _ | .a _ | .tc _ => false

/-- An even s register, naming a pair. -/
def evenS : Opd → Bool
  | .s n => !n.getLsbD 0
  | .z | .g _ | .p _ | .q _ | .j _ | .a _ | .tc _ => false

def gs (o : Opd) : Bool := isG o || isS o
def gz (o : Opd) : Bool := isG o || isZ o
def sz (o : Opd) : Bool := isS o || isZ o
def gsz (o : Opd) : Bool := isG o || isS o || isZ o
def evenGz (o : Opd) : Bool := evenG o || isZ o
def evenGS (o : Opd) : Bool := evenG o || evenS o
def evenGSz (o : Opd) : Bool := evenG o || evenS o || isZ o
/-- A 32-bit source of R121 and R152: q reads a queue (R51). -/
def src32 (o : Opd) : Bool := gsz o || isQ o
def dst32 (o : Opd) : Bool := gsz o
def src64 (o : Opd) : Bool := evenGSz o
def dst64 (o : Opd) : Bool := evenGSz o
/-- R145: the source of MOV with W64 may also be a timeline counter. -/
def src64OrTc (o : Opd) : Bool := src64 o || isTc o
/-- R140: the carry-in. -/
def predOrZ (o : Opd) : Bool := isP o || isZ o
/-- R144, R158, R159: p, g or s. -/
def flagDst (o : Opd) : Bool := isP o || gs o
/-- R145: an operand of MOVS. -/
def movsOpd (w64 : Bool) (o : Opd) : Bool := if w64 then evenGS o else gs o

/-- R211: a group of n registers starts at a multiple of n. -/
def group (n : Nat) : Opd → Bool
  | .g i => i.toNat % n == 0
  | .s i => i.toNat % n == 0
  | .z | .p _ | .q _ | .j _ | .a _ | .tc _ => true

/-- R121: what the access slice accepts in a g, q, j, a or tc operand's place. -/
def accessOpd (o : Opd) : Bool := isS o || isP o || isZ o

def F0.accessOk (f : F0) : Bool := accessOpd f.d && accessOpd f.a && accessOpd f.b && accessOpd f.c

/-- The kinds of the operands of a FMT 0 instruction, with R122 and R153 for the immediate: `i`
says whether the instruction takes one in place of B. -/
def F0.ok (f : F0) (d a b c : Opd → Bool) (i : Bool) : Bool :=
  d f.d && a f.a && c f.c && if f.ib then i && isZ f.b else b f.b && f.imm == 0

/-- R76, R428: J is zero unless ENR names a rejoin register. -/
def F3.enrOk (f : F3) : Bool := f.enr || f.j == 0

/-- R77: SIZE 6 and 7 are not encodings. -/
def F2.sizeOk (f : F2) : Bool := f.size.toNat < 6
/-- R211: registers of the data group. -/
def F2.regs (f : F2) : Nat := if f.size.toNat < 3 then 1 else 2 ^ (f.size.toNat - 2)
def F2.loadOrder (f : F2) : Bool := f.order == .relaxed || f.order == .acquire
def F2.storeOrder (f : F2) : Bool := f.order == .relaxed || f.order == .release
/-- R214: TYPE, SIZE, RESP and HINT all zero. -/
def F2.plain (f : F2) : Bool := f.ty == 0 && f.size == 0 && f.resp == 0 && f.hint == .normal
/-- R211: registers of an atomic's operand. -/
def FA.words (f : FA) : Nat := if f.size == 3 then 2 else 1

/-- R221: the sizes of each atomic operation. -/
def Aop.sizeOk (a : Aop) (size : BitVec 3) : Bool :=
  match a with
  | .inc | .dec | .hadd2 | .badd2 => size == 2
  | .add | .and | .or | .xor | .min | .max | .minu | .maxu | .exch | .fadd | .fmin | .fmax =>
    size == 2 || size == 3

/-! ### Pairs (R78, R100, R101) -/

/-- Sub-operations with one source: B holds 0xFF. -/
def Sop.single : Sop → Bool
  | .iabs | .ineg | .not | .popc | .clz | .ctz | .brev | .mov | .fabs | .fneg | .cvt | .rndi
  | .rcp | .rsq | .sqrt | .exp2 | .log2 | .exp | .log | .sinpi | .cospi | .tanh | .sigm => true
  | .iadd | .isub | .imul | .imulh | .imulhu | .imad | .imin | .imax | .iminu | .imaxu | .and | .or
  | .xor | .andn | .shl | .shr | .sar | .rotl | .bfe | .bysel | .fadd | .fsub | .fmul | .ffma | .fmin
  | .fmax | .fcopys | .fdiv | .hadd2 | .hmul2 | .hfma2 | .badd2 | .bmul2 | .bfma2 | .q8add | .q8mul
  | .q8min | .q8max | .idp4 | .fdp2 | .scalex => false

/-- The accumulate forms, which read D as their C source. -/
def Sop.accum (s : Sop) : Bool :=
  s == .imad || s == .ffma || s == .hfma2 || s == .bfma2 || s == .idp4 || s == .fdp2

/-- The special-function class. -/
def Sop.sfu (s : Sop) : Bool := 0x35 ≤ s.code

/-- R101: converting sub-operations, which carry RM and SAT. -/
def Sop.rounds (s : Sop) : Bool :=
  (0x1C ≤ s.code && s.code ≤ 0x1F) || (0x25 ≤ s.code && s.code ≤ 0x31) || s == .fdp2 || s == .scalex

/-- R101: sub-operations whose SMOD bit 34 is FTZ. -/
def Sop.flushes (s : Sop) : Bool :=
  (0x1C ≤ s.code && s.code ≤ 0x25) || s == .rndi

/-- R101: the SMOD bits a sub-operation may set, and the codes of RM. -/
def SubOp.smodOk (s : SubOp) : Bool :=
  (if s.sop.rounds then (s.smod.extractLsb' 0 3).toNat < 5 else s.smod.extractLsb' 0 4 == 0) &&
  (s.sop == .cvt || s.sop == .idp4 || (!s.smod.getLsbD 5 && (s.sop.flushes || !s.smod.getLsbD 4)))

/-- R78, R100: a sub-operation on its own. -/
def SubOp.ok (s : SubOp) : Bool := (s.b.isNone == s.sop.single) && s.smodOk

/-- The source registers of a sub-operation, D among them for an accumulate form. -/
def SubOp.sources (s : SubOp) : List Nat :=
  s.a.toNat :: (match s.b with | some b => [b.toNat] | none => []) ++
    (if s.sop.accum then [s.d.toNat] else [])

/-- The distinct source registers of both sub-operations. -/
def pairSources (s0 s1 : SubOp) : List Nat := (s0.sources ++ s1.sources).eraseDups

/-- R78: the conditions of a PAIR. -/
def pairOk (s0 s1 : SubOp) : Bool :=
  s0.ok && s1.ok && s0.d.toNat % 4 != s1.d.toNat % 4 &&
  (pairSources s0 s1).length ≤ 3 &&
  [0, 1, 2, 3].all (fun k => ((pairSources s0 s1).filter (fun r => r % 4 == k)).length ≤ 2) &&
  !(s0.sop.sfu && s1.sop.sfu)

/-! ### Instructions -/

/-- R102 and the operand rules of each instruction: the term is an encoding. An event of the device
has no encoding and nothing to check. -/
def Instr.wf : Instr → Bool
  | .nop _ => true
  | .pair _ s0 s1 => pairOk s0 s1
  | .bra _ f => f.a == .z && f.enrOk
  | .brx _ rel f =>
    f.enrOk && if rel then src32 f.a else src64 f.a && f.disp == 0
  | .call _ f => f.enrOk && dst64 f.a
  | .callx _ link f => f.enrOk && dst64 link && src64 f.a && f.disp == 0
  | .ret _ a => src64 a
  | .enrol _ _ => true
  | .join _ _ => true
  | .yield _ _ n => n != 0
  | .exit _ _ => true
  | .bar _ _ => true
  | .barg _ _ => true
  | .barw _ _ => true
  | .waittl _ _ a _ _ _ => src64 a
  | .nap _ a _ _ => src32 a
  | .retu _ _ => true
  | .umask _ _ _ => true
  | .sread _ d _ r => if r.wide then dst64 d else dst32 d
  | .swrite _ a _ r => if r.wide then src64 a else src32 a
  | .trap _ _ _ => true
  | .bkpt _ _ _ => true
  | .iadd _ f => f.ok dst32 src32 src32 isZ true
  | .isub _ f => f.ok dst32 src32 src32 isZ true
  | .iaddc _ _ f => f.ok dst32 src32 src32 predOrZ true
  | .isubb _ _ f => f.ok dst32 src32 src32 predOrZ true
  | .imul _ f => f.ok dst32 src32 src32 isZ true
  | .imulh _ f => f.ok dst32 src32 src32 isZ true
  | .imulhu _ f => f.ok dst32 src32 src32 isZ true
  | .imad _ f => f.ok dst32 src32 src32 src32 true
  | .iadd64 _ f => f.ok dst64 src64 src64 isZ true
  | .isub64 _ f => f.ok dst64 src64 src64 isZ true
  | .imul64 _ f => f.ok dst64 src64 src64 isZ false
  | .idivu _ f => f.ok dst32 src32 src32 isZ true
  | .idivs _ f => f.ok dst32 src32 src32 isZ true
  | .iremu _ f => f.ok dst32 src32 src32 isZ true
  | .irems _ f => f.ok dst32 src32 src32 isZ true
  | .imin _ f => f.ok dst32 src32 src32 isZ true
  | .imax _ f => f.ok dst32 src32 src32 isZ true
  | .iminu _ f => f.ok dst32 src32 src32 isZ true
  | .imaxu _ f => f.ok dst32 src32 src32 isZ true
  | .iabs _ f => f.ok dst32 src32 isZ isZ false
  | .ineg _ f => f.ok dst32 src32 isZ isZ false
  | .and _ f => f.ok dst32 src32 src32 isZ true
  | .or _ f => f.ok dst32 src32 src32 isZ true
  | .xor _ f => f.ok dst32 src32 src32 isZ true
  | .not _ f => f.ok dst32 src32 isZ isZ false
  | .andn _ f => f.ok dst32 src32 src32 isZ true
  | .shl _ _ f => f.ok dst32 src32 src32 isZ true
  | .shr _ _ f => f.ok dst32 src32 src32 isZ true
  | .sar _ _ f => f.ok dst32 src32 src32 isZ true
  | .shl64 _ _ f => f.ok dst64 src64 src32 isZ true
  | .shr64 _ _ f => f.ok dst64 src64 src32 isZ true
  | .sar64 _ _ f => f.ok dst64 src64 src32 isZ true
  | .rotl _ f => f.ok dst32 src32 src32 isZ true
  | .funnel _ _ f => f.ok dst32 src32 src32 src32 false
  | .popc _ f => f.ok dst32 src32 isZ isZ false
  | .clz _ f => f.ok dst32 src32 isZ isZ false
  | .ctz _ f => f.ok dst32 src32 isZ isZ false
  | .brev _ f => f.ok dst32 src32 isZ isZ false
  | .bfe _ _ f => f.ok dst32 src32 src32 isZ true
  | .bfi _ f => f.ok dst32 src32 src32 src32 true
  | .bysel _ f => f.ok dst32 src32 src32 src32 true
  | .iset _ _ f => f.ok flagDst src32 src32 isZ true
  | .iset64 _ _ f => f.ok flagDst src64 src64 isZ true
  | .isel _ f => f.ok dst32 src32 src32 isP true
  | .mov _ w64 f =>
    if w64 then f.ok dst64 src64OrTc isZ isZ false else f.ok dst32 src32 isZ isZ false
  | .movi _ w64 d _ => if w64 then dst64 d else dst32 d
  | .movs _ w64 f =>
    f.ok (movsOpd w64) (movsOpd w64) isZ isZ false && isS f.d != isS f.a
  | .lea _ _ _ f => !f.ib && dst64 f.d && src64 f.a && src32 f.b && isZ f.c
  | .fadd _ _ f => f.ok dst32 src32 src32 isZ true
  | .fsub _ _ f => f.ok dst32 src32 src32 isZ true
  | .fmul _ _ f => f.ok dst32 src32 src32 isZ true
  | .ffma _ _ f => f.ok dst32 src32 src32 src32 true
  | .fmin _ _ f => f.ok dst32 src32 src32 isZ true
  | .fmax _ _ f => f.ok dst32 src32 src32 isZ true
  | .fabs _ _ f => f.ok dst32 src32 isZ isZ false
  | .fneg _ _ f => f.ok dst32 src32 isZ isZ false
  | .fcopys _ _ f => f.ok dst32 src32 src32 isZ true
  | .fset _ _ _ f => f.ok flagDst src32 src32 isZ true
  | .fclass _ cf f =>
    !f.ib && flagDst f.d && (if cf == .f64 then src64 f.a else src32 f.a) && isZ f.b && isZ f.c &&
    f.imm.toNat < 1024 && (isP f.d == (f.imm != 0))
  | .fdiv _ _ f => f.ok dst32 src32 src32 isZ true
  | .hadd2 _ r f => !r.ftz && f.ok dst32 src32 src32 isZ true
  | .hmul2 _ r f => !r.ftz && f.ok dst32 src32 src32 isZ true
  | .hfma2 _ r f => !r.ftz && f.ok dst32 src32 src32 src32 true
  | .badd2 _ r f => !r.ftz && f.ok dst32 src32 src32 isZ true
  | .bmul2 _ r f => !r.ftz && f.ok dst32 src32 src32 isZ true
  | .bfma2 _ r f => !r.ftz && f.ok dst32 src32 src32 src32 true
  | .dadd _ r f => !r.ftz && f.ok dst64 src64 src64 isZ false
  | .dmul _ r f => !r.ftz && f.ok dst64 src64 src64 isZ false
  | .dfma _ r f => !r.ftz && f.ok dst64 src64 src64 src64 false
  | .dset _ _ f => f.ok flagDst src64 src64 isZ false
  | .cvt _ r df sf f =>
    !r.ftz && df.code < 8 && sf.code < 8 && df != sf && !(4 ≤ df.code && 4 ≤ sf.code) &&
    f.ok (if df.wide then dst64 else dst32) (if sf.wide then src64 else src32) isZ isZ false
  | .cvtpk _ r df src k f =>
    !r.ftz && (src == .f32 || src == .s32) && df.packed && k.toNat < df.perWord / 2 &&
    f.ok dst32 src32 src32 src32 false
  | .cvtupk _ df sf i f =>
    sf.packed && (df == .f32 || (df == .s32 && 11 ≤ sf.code)) && i.toNat < sf.perWord &&
    f.ok dst32 src32 isZ isZ false
  | .rndi _ _ f => f.ok dst32 src32 isZ isZ false
  | .q8add _ r _ f => !r.ftz && f.ok dst32 src32 src32 isZ false
  | .q8mul _ r _ f => !r.ftz && f.ok dst32 src32 src32 isZ false
  | .q8min _ r _ f => !r.ftz && f.ok dst32 src32 src32 isZ false
  | .q8max _ r _ f => !r.ftz && f.ok dst32 src32 src32 isZ false
  | .idp4 _ _ _ f => f.ok dst32 src32 src32 src32 false
  | .fdp4 _ r _ _ f => !r.ftz && f.ok dst32 src32 src32 src32 false
  | .fdp2 _ r _ f => !r.ftz && f.ok dst32 src32 src32 src32 false
  | .scalex _ r e8m2 i f =>
    !r.ftz && (if e8m2 then i != 3 else i == 0) && f.ok dst32 src32 src32 isZ false
  | .rcp _ f => f.ok dst32 src32 isZ isZ false
  | .rsq _ f => f.ok dst32 src32 isZ isZ false
  | .sqrt _ f => f.ok dst32 src32 isZ isZ false
  | .exp2 _ f => f.ok dst32 src32 isZ isZ false
  | .log2 _ f => f.ok dst32 src32 isZ isZ false
  | .exp _ f => f.ok dst32 src32 isZ isZ false
  | .log _ f => f.ok dst32 src32 isZ isZ false
  | .sinpi _ f => f.ok dst32 src32 isZ isZ false
  | .cospi _ f => f.ok dst32 src32 isZ isZ false
  | .tanh _ f => f.ok dst32 src32 isZ isZ false
  | .sigm _ f => f.ok dst32 src32 isZ isZ false
  | .shfl _ _ wid _ f => wid != 7 && f.ok isG gs gs isZ true
  | .vote _ mode f => f.ok isP (if mode == .elect then isZ else isP) isZ isZ false
  | .ballot _ f => f.ok dst64 isP isZ isZ false
  | .matchL _ w64 f => f.ok dst64 (if w64 then src64 else isG) isZ isZ false
  | .redux _ _ f => f.ok gs isG isZ isZ false
  | .scan _ _ _ f => f.ok isG isG isZ isZ false
  | .pand _ _ _ f => f.ok isP isP isP isZ false
  | .por _ _ _ f => f.ok isP isP isP isZ false
  | .pxor _ _ _ f => f.ok isP isP isP isZ false
  | .pnot _ f => f.ok isP isP isZ isZ false
  | .pmov _ dir f =>
    !f.ib && isZ f.b && isZ f.c && if dir then isZ f.d && gsz f.a && !f.imm.getLsbD 0
    else gs f.d && isZ f.a && f.imm == 0
  | .ld _ d f =>
    f.sizeOk && gz d && group f.regs d && evenGS f.a && gsz f.b && f.loadOrder
  | .st _ d f =>
    f.sizeOk && gsz d && group f.regs d && evenGS f.a && gsz f.b && f.storeOrder
  | .lds _ d f =>
    f.sizeOk && gz d && group f.regs d && gs f.a && gsz f.b && f.loadOrder && f.ty == 0 && f.scope == .block && f.resp == 0 && f.hint == .normal
  | .sts _ d f =>
    f.sizeOk && gsz d && group f.regs d && gs f.a && gsz f.b && f.storeOrder && f.ty == 0 && f.scope == .block && f.resp == 0 && f.hint == .normal
  | .ldq _ _ f => f.size.toNat < 3 && evenS f.a && sz f.b && f.loadOrder
  | .pref _ d f =>
    isZ d && f.sizeOk && evenGS f.a && isZ f.b && f.scope == .block && f.order == .relaxed && f.resp == 0
  | .reside _ d f =>
    isZ d && f.sizeOk && evenGS f.a && isZ f.b && f.scope == .block && f.order == .relaxed && f.resp == 0 && f.ty == 0
  | .fetchpg _ d f =>
    evenGz d && evenGS f.a && isZ f.b && f.plain && f.order == .relaxed && f.scope == .block
  | .atom _ aop f =>
    aop.sizeOk f.size && gz f.d && group f.words f.d && evenGS f.a && gsz f.b && group f.words f.b && isZ f.c
  | .atoms _ aop f =>
    aop.sizeOk f.size && gz f.d && group f.words f.d && gs f.a && gsz f.b && group f.words f.b && isZ f.c &&
    f.scope == .block && f.resp == 0 && f.hint == .normal
  | .cas _ f =>
    (f.size == 2 || f.size == 3) && gz f.d && group f.words f.d && evenGS f.a && gsz f.b && group f.words f.b &&
    gsz f.c && group f.words f.c
  | .cas128 _ f =>
    f.size == 4 && gz f.d && group 4 f.d && evenGS f.a && gz f.b && group 4 f.b && gz f.c && group 4 f.c
  | .red _ aop f =>
    aop.sizeOk f.size && isZ f.d && evenGS f.a && gsz f.b && group f.words f.b && isZ f.c &&
    (f.order == .relaxed || f.order == .release)
  | .fence _ d f =>
    isZ d && isZ f.a && isZ f.b && f.size == 0 && f.resp == 0 && f.hint == .normal && f.off == 0 &&
    f.order != .relaxed && (f.ty == 0 || (f.ty == 1 && f.order == .acqRel))
  | .qfence _ d f =>
    isZ d && isZ f.a && isZ f.b && f.plain && f.off == 0 && f.order == .relaxed && f.scope == .block
  | .cinv _ d f =>
    isZ d && f.sizeOk && evenGS f.a && isZ f.b && f.scope == .block && f.order == .relaxed && f.resp == 0 && f.ty == 0 && f.hint == .normal
  | .cwb _ d f =>
    isZ d && f.sizeOk && evenGS f.a && isZ f.b && f.scope == .block && f.order == .relaxed && f.resp == 0 && f.ty == 0 && f.hint == .normal
  | .snap _ _ _ d a b => isG d && evenGS a && evenGS b
  | .accept _ d a _ => gz d && gsz a
  | .reject _ d a _ => gz d && gsz a
  | .snapq _ d sel => evenG d && sel != 7
  | .put _ _ _ d a b c _ => evenGz d && evenGS a && evenGS b && gsz c
  | .get _ _ d a b c _ => evenGz d && evenGS a && evenGS b && gsz c
  | .waitw _ _ d a b _ => gz d && evenGSz a && gsz b
  | .wread _ sent acq d _ => evenG d && !(sent && acq)
  | .launch _ d a _ => evenGz d && evenGS a
  | .launchw _ d _ => evenGz d
  | .postc _ d a _ => evenGz d && evenGS a
  | .xdef _ d a _ => gz d && gs a
  | .xread _ a _ => gs a
  | .talloc _ _ a b _ => gs a && gs b
  | .tfree _ _ => true
  | .tstat _ d sel obj =>
    evenG d && (if sel == 2 then obj.toNat < 8 else if sel == 3 then true else obj.toNat < 64)
  | .tload _ _ mode d a c _ _ idx _ =>
    evenGz d && gs a && group 8 a && gsz c && (mode == .gather || idx == 0)
  | .tstore _ _ _ d a _ _ _ => evenGz d && gs a && group 8 a
  | .tloadb _ _ d a c _ _ _ => evenGz d && gs a && group 8 a && gsz c
  | .tmcast _ _ d a b c _ _ _ => evenGz d && gs a && group 8 a && evenGS b && gsz c
  | .tbinit _ a b _ => gs a && gsz b
  | .arrive _ d a n => gz d && gs a && n != 0
  | .expect _ _ d a b _ => gz d && gs a && gsz b
  | .waitph _ a b _ => gs a && gsz b
  | .rsum _ d a b _ _ => evenGz d && evenGS a && gsz b
  | .mma _ a _ => gs a
  | .mzero _ d _ _ => evenGz d
  | .mprom _ d _ _ => evenGz d
  | .mlda _ d sc _ sct _ _ => evenGz d && (sc || sct == 0)
  | .mldb _ d sc _ sct _ _ => evenGz d && (sc || sct == 0)
  | .msta _ d _ b _ _ sc _ _ sct ofmt _ =>
    evenGz d && gsz b && ofmt.mstaOk && (if sc then 8 ≤ ofmt.code else sct == 0)
  | .mread _ d _ b _ => isG d && gsz b
  | .mwrite _ _ b c _ => gsz b && gsz c
  | .gate _ _ _ _ => true
  | .retg _ _ => true
  | .cpset _ d a b _ _ => gz d && evenG a && gs b
  | .cpget _ d b _ _ => evenG d && gs b
  | .tlbinv _ all d a b c =>
    gz d && gs c && if all then isZ a && isZ b else evenGS a && evenGSz b
  | .asidbind _ ro unb d a b slot =>
    gz d && gs a && slot != 0 && !(ro && unb) && if unb then isZ b else gs b
  | .ckpt _ d => gz d
  | .croll _ _ d a b => gz d && gs a && gsz b
  | .halt _ d a b => gz d && gsz a && evenGSz b
  | .resume _ d a b => gz d && gsz a && evenGSz b
  | .yieldOverrun _ _ => true
  | .lineFetch _ _ _ _ _ => true
  | .checkpointPeriod _ => true
  | .blockPark _ => true
  | .checkpointCommit _ => true
  | .quantumEnd _ => true
  | .userInterruptDelivery _ _ => true
  | .vectoring _ _ => true
  | .activationEntry _ => true
  | .dispatch _ => true
  | .fenceMet _ => true
  | .blockEnd _ => true
  | .completionRecord _ => true
  | .landing _ _ _ => true
  | .mcastLanding _ _ _ _ => true
  | .shuttleCommandComplete _ _ _ => true
  | .mmaStart _ _ _ => true
  | .matrixCommandComplete _ _ _ => true
  | .fetchpgComplete _ _ => true
  | .fetchNoframe _ _ => true
  | .windowCommandComplete _ _ => true
  | .rsumPacket _ _ => true
  | .barrierArrival _ _ => true
  | .barrierRelease _ _ => true
  | .readRequest _ _ _ => true
  | .ownershipRequest _ _ _ => true
  | .writeRequest _ _ _ _ _ _ => true
  | .uncachedRead _ _ _ => true
  | .uncachedWrite _ _ _ _ _ _ => true
  | .farAtomic _ _ _ _ _ _ => true
  | .eviction _ _ _ => true
  | .cleanEvictionNotice _ _ _ => true
  | .cleanReleaseNotice _ _ _ => true
  | .recall _ _ _ _ => true
  | .invalidation _ _ _ => true
  | .peerProbe _ _ _ => true
  | .sharerNotice _ _ _ _ => true
  | .dataResponse _ _ _ => true
  | .placementEpoch _ => true
  | .migration _ _ _ => true
  | .marginLend _ _ _ _ => true
  | .revocation _ _ _ _ => true
  | .revocationOverrun _ _ _ _ => true
  | .hang _ => true
  | .pcSample _ _ => true
  | .faultHoldPoll _ => true
  | .heartbeatTimeout _ => true
  | .linkRetrain _ _ _ => true
  | .laneTraining _ _ _ => true
  | .memoryUncorrectable _ _ _ _ => true
  | .thermalLimit _ => true
  | .rdmaWrite _ => true
  | .rdmaWriteWithImmediate _ => true
  | .rdmaRead _ => true
  | .fetchAdd _ => true
  | .cmpSwap _ => true
  | .ack _ _ => true
  | .ackTimeout _ => true
  | .congestionNotification _ => true
  | .rateRecovery _ => true
  | .ptpMessage _ => true
  | .waitwTimeout _ _ => true
  | .napExpiry _ _ => true
  | .powerOn _ => true
  | .leadReachTimeout _ => true
  | .startTimeout => true
  | .warmReset _ => true
  | .partitionCreate _ _ _ _ => true
  | .partitionResize _ _ => true
  | .partitionDestroy _ => true
  | .operatorClearAttempts => true
  | .imageWrite _ _ _ => true
  | .fieldSelfTest _ _ => true
  | .operatorAttest _ => true
  | .operatorResume _ => true
  | .operatorAbort _ => true
  | .ctxNew _ _ _ _ _ => true
  | .ctxFree _ _ => true
  | .asidNew _ _ _ _ => true
  | .asidFree _ _ => true
  | .vfSet _ _ _ _ => true
  | .gateRsv _ _ _ => true
  | .shadowSet _ _ _ => true
  | .fstoreSet _ _ _ => true
  | .place _ _ _ _ => true
  | .qpNew _ _ _ _ _ _ _ => true
  | .qpFree _ _ => true
  | .winSet _ _ _ _ _ _ _ _ => true
  | .winFree _ _ => true
  | .attest _ _ _ => true
  | .traceSet _ _ _ _ _ => true
  | .ctrSet _ _ _ _ => true
  | .dbgSet _ _ _ _ _ => true
  | .logSet _ _ _ _ _ => true
  | .faultSet _ _ _ => true
  | .abort _ _ _ => true
  | .snapClose _ _ _ _ => true
  | .hangSet _ _ _ => true
  | .winQp _ _ _ => true
  | .waitingInstructionComplete _ _ => true
  | .powerLoss => true
  | .returnWithinLimit _ => true
  | .memoryChannelRetraining _ _ _ => true
  | .crossbarPortParityError _ _ _ => true
  | .rdmaReadResponse _ _ _ => true
  | .rnrNak _ => true
  | .pauseFrame _ _ _ => true

/-- R95, R50: the instructions the access slice may issue (SREAD's registers are checked apart). -/
def Instr.accessMay : Instr → Bool
  | .nop _ => true
  | .pair _ _ _ => false
  | .bra _ _ => true
  | .brx _ _ _ => false
  | .call _ _ => false
  | .callx _ _ _ => false
  | .ret _ _ => false
  | .enrol _ _ => false
  | .join _ _ => false
  | .yield _ _ _ => true
  | .exit _ _ => true
  | .bar _ _ => false
  | .barg _ _ => false
  | .barw _ _ => false
  | .waittl _ _ _ _ _ _ => false
  | .nap _ _ _ _ => false
  | .retu _ _ => false
  | .umask _ _ _ => false
  | .sread _ _ _ r => r.accessMay
  | .swrite _ _ _ _ => false
  | .trap _ _ _ => false
  | .bkpt _ _ _ => false
  | .iadd _ _ => true
  | .isub _ _ => true
  | .iaddc _ _ _ => true
  | .isubb _ _ _ => true
  | .imul _ _ => true
  | .imulh _ _ => true
  | .imulhu _ _ => true
  | .imad _ _ => true
  | .iadd64 _ _ => true
  | .isub64 _ _ => true
  | .imul64 _ _ => true
  | .idivu _ _ => true
  | .idivs _ _ => true
  | .iremu _ _ => true
  | .irems _ _ => true
  | .imin _ _ => true
  | .imax _ _ => true
  | .iminu _ _ => true
  | .imaxu _ _ => true
  | .iabs _ _ => true
  | .ineg _ _ => true
  | .and _ _ => true
  | .or _ _ => true
  | .xor _ _ => true
  | .not _ _ => true
  | .andn _ _ => true
  | .shl _ _ _ => true
  | .shr _ _ _ => true
  | .sar _ _ _ => true
  | .shl64 _ _ _ => true
  | .shr64 _ _ _ => true
  | .sar64 _ _ _ => true
  | .rotl _ _ => true
  | .funnel _ _ _ => true
  | .popc _ _ => true
  | .clz _ _ => true
  | .ctz _ _ => true
  | .brev _ _ => true
  | .bfe _ _ _ => true
  | .bfi _ _ => true
  | .bysel _ _ => true
  | .iset _ _ _ => true
  | .iset64 _ _ _ => true
  | .isel _ _ => true
  | .mov _ _ _ => true
  | .movi _ _ _ _ => true
  | .movs _ _ _ => true
  | .lea _ _ _ _ => true
  | .fadd _ _ _ => false
  | .fsub _ _ _ => false
  | .fmul _ _ _ => false
  | .ffma _ _ _ => false
  | .fmin _ _ _ => false
  | .fmax _ _ _ => false
  | .fabs _ _ _ => false
  | .fneg _ _ _ => false
  | .fcopys _ _ _ => false
  | .fset _ _ _ _ => false
  | .fclass _ _ _ => false
  | .fdiv _ _ _ => false
  | .hadd2 _ _ _ => false
  | .hmul2 _ _ _ => false
  | .hfma2 _ _ _ => false
  | .badd2 _ _ _ => false
  | .bmul2 _ _ _ => false
  | .bfma2 _ _ _ => false
  | .dadd _ _ _ => false
  | .dmul _ _ _ => false
  | .dfma _ _ _ => false
  | .dset _ _ _ => false
  | .cvt _ _ _ _ _ => false
  | .cvtpk _ _ _ _ _ _ => false
  | .cvtupk _ _ _ _ _ => false
  | .rndi _ _ _ => false
  | .q8add _ _ _ _ => false
  | .q8mul _ _ _ _ => false
  | .q8min _ _ _ _ => false
  | .q8max _ _ _ _ => false
  | .idp4 _ _ _ _ => false
  | .fdp4 _ _ _ _ _ => false
  | .fdp2 _ _ _ _ => false
  | .scalex _ _ _ _ _ => false
  | .rcp _ _ => false
  | .rsq _ _ => false
  | .sqrt _ _ => false
  | .exp2 _ _ => false
  | .log2 _ _ => false
  | .exp _ _ => false
  | .log _ _ => false
  | .sinpi _ _ => false
  | .cospi _ _ => false
  | .tanh _ _ => false
  | .sigm _ _ => false
  | .shfl _ _ _ _ _ => false
  | .vote _ _ _ => false
  | .ballot _ _ => false
  | .matchL _ _ _ => false
  | .redux _ _ _ => false
  | .scan _ _ _ _ => false
  | .pand _ _ _ _ => false
  | .por _ _ _ _ => false
  | .pxor _ _ _ _ => false
  | .pnot _ _ => false
  | .pmov _ _ _ => false
  | .ld _ _ _ => false
  | .st _ _ _ => false
  | .lds _ _ _ => false
  | .sts _ _ _ => false
  | .ldq _ _ _ => true
  | .pref _ _ _ => false
  | .reside _ _ _ => false
  | .fetchpg _ _ _ => false
  | .atom _ _ _ => false
  | .atoms _ _ _ => false
  | .cas _ _ => false
  | .cas128 _ _ => false
  | .red _ _ _ => false
  | .fence _ _ _ => false
  | .qfence _ _ _ => true
  | .cinv _ _ _ => false
  | .cwb _ _ _ => false
  | .snap _ _ _ _ _ _ => false
  | .accept _ _ _ _ => false
  | .reject _ _ _ _ => false
  | .snapq _ _ _ => false
  | .put _ _ _ _ _ _ _ _ => false
  | .get _ _ _ _ _ _ _ => false
  | .waitw _ _ _ _ _ _ => false
  | .wread _ _ _ _ _ => false
  | .launch _ _ _ _ => false
  | .launchw _ _ _ => false
  | .postc _ _ _ _ => false
  | .xdef _ _ _ _ => false
  | .xread _ _ _ => false
  | .talloc _ _ _ _ _ => false
  | .tfree _ _ => false
  | .tstat _ _ _ _ => false
  | .tload _ _ _ _ _ _ _ _ _ _ => false
  | .tstore _ _ _ _ _ _ _ _ => false
  | .tloadb _ _ _ _ _ _ _ _ => false
  | .tmcast _ _ _ _ _ _ _ _ _ => false
  | .tbinit _ _ _ _ => false
  | .arrive _ _ _ _ => false
  | .expect _ _ _ _ _ _ => false
  | .waitph _ _ _ _ => false
  | .rsum _ _ _ _ _ _ => false
  | .mma _ _ _ => false
  | .mzero _ _ _ _ => false
  | .mprom _ _ _ _ => false
  | .mlda _ _ _ _ _ _ _ => false
  | .mldb _ _ _ _ _ _ _ => false
  | .msta _ _ _ _ _ _ _ _ _ _ _ _ => false
  | .mread _ _ _ _ _ => false
  | .mwrite _ _ _ _ _ => false
  | .gate _ _ _ _ => false
  | .retg _ _ => false
  | .cpset _ _ _ _ _ _ => false
  | .cpget _ _ _ _ _ => false
  | .tlbinv _ _ _ _ _ _ => false
  | .asidbind _ _ _ _ _ _ _ => false
  | .ckpt _ _ => false
  | .croll _ _ _ _ _ => false
  | .halt _ _ _ _ => false
  | .resume _ _ _ _ => false
  | .yieldOverrun _ _ => false
  | .lineFetch _ _ _ _ _ => false
  | .checkpointPeriod _ => false
  | .blockPark _ => false
  | .checkpointCommit _ => false
  | .quantumEnd _ => false
  | .userInterruptDelivery _ _ => false
  | .vectoring _ _ => false
  | .activationEntry _ => false
  | .dispatch _ => false
  | .fenceMet _ => false
  | .blockEnd _ => false
  | .completionRecord _ => false
  | .landing _ _ _ => false
  | .mcastLanding _ _ _ _ => false
  | .shuttleCommandComplete _ _ _ => false
  | .mmaStart _ _ _ => false
  | .matrixCommandComplete _ _ _ => false
  | .fetchpgComplete _ _ => false
  | .fetchNoframe _ _ => false
  | .windowCommandComplete _ _ => false
  | .rsumPacket _ _ => false
  | .barrierArrival _ _ => false
  | .barrierRelease _ _ => false
  | .readRequest _ _ _ => false
  | .ownershipRequest _ _ _ => false
  | .writeRequest _ _ _ _ _ _ => false
  | .uncachedRead _ _ _ => false
  | .uncachedWrite _ _ _ _ _ _ => false
  | .farAtomic _ _ _ _ _ _ => false
  | .eviction _ _ _ => false
  | .cleanEvictionNotice _ _ _ => false
  | .cleanReleaseNotice _ _ _ => false
  | .recall _ _ _ _ => false
  | .invalidation _ _ _ => false
  | .peerProbe _ _ _ => false
  | .sharerNotice _ _ _ _ => false
  | .dataResponse _ _ _ => false
  | .placementEpoch _ => false
  | .migration _ _ _ => false
  | .marginLend _ _ _ _ => false
  | .revocation _ _ _ _ => false
  | .revocationOverrun _ _ _ _ => false
  | .hang _ => false
  | .pcSample _ _ => false
  | .faultHoldPoll _ => false
  | .heartbeatTimeout _ => false
  | .linkRetrain _ _ _ => false
  | .laneTraining _ _ _ => false
  | .memoryUncorrectable _ _ _ _ => false
  | .thermalLimit _ => false
  | .rdmaWrite _ => false
  | .rdmaWriteWithImmediate _ => false
  | .rdmaRead _ => false
  | .fetchAdd _ => false
  | .cmpSwap _ => false
  | .ack _ _ => false
  | .ackTimeout _ => false
  | .congestionNotification _ => false
  | .rateRecovery _ => false
  | .ptpMessage _ => false
  | .waitwTimeout _ _ => false
  | .napExpiry _ _ => false
  | .powerOn _ => false
  | .leadReachTimeout _ => false
  | .startTimeout => false
  | .warmReset _ => false
  | .partitionCreate _ _ _ _ => false
  | .partitionResize _ _ => false
  | .partitionDestroy _ => false
  | .operatorClearAttempts => false
  | .imageWrite _ _ _ => false
  | .fieldSelfTest _ _ => false
  | .operatorAttest _ => false
  | .operatorResume _ => false
  | .operatorAbort _ => false
  | .ctxNew _ _ _ _ _ => false
  | .ctxFree _ _ => false
  | .asidNew _ _ _ _ => false
  | .asidFree _ _ => false
  | .vfSet _ _ _ _ => false
  | .gateRsv _ _ _ => false
  | .shadowSet _ _ _ => false
  | .fstoreSet _ _ _ => false
  | .place _ _ _ _ => false
  | .qpNew _ _ _ _ _ _ _ => false
  | .qpFree _ _ => false
  | .winSet _ _ _ _ _ _ _ _ => false
  | .winFree _ _ => false
  | .attest _ _ _ => false
  | .traceSet _ _ _ _ _ => false
  | .ctrSet _ _ _ _ => false
  | .dbgSet _ _ _ _ _ => false
  | .logSet _ _ _ _ _ => false
  | .faultSet _ _ _ => false
  | .abort _ _ _ => false
  | .snapClose _ _ _ _ => false
  | .hangSet _ _ _ => false
  | .winQp _ _ _ => false
  | .waitingInstructionComplete _ _ => false
  | .powerLoss => false
  | .returnWithinLimit _ => false
  | .memoryChannelRetraining _ _ _ => false
  | .crossbarPortParityError _ _ _ => false
  | .rdmaReadResponse _ _ _ => false
  | .rnrNak _ => false
  | .pauseFrame _ _ _ => false

/-- R121, R418: in the access slice an operand is an s register, a predicate or z. -/
def Instr.accessOpds : Instr → Bool
  | .nop _ => true
  | .pair _ _ _ => true
  | .bra _ _ => true
  | .brx _ _ _ => true
  | .call _ _ => true
  | .callx _ _ _ => true
  | .ret _ _ => true
  | .enrol _ _ => true
  | .join _ _ => true
  | .yield _ _ _ => true
  | .exit _ _ => true
  | .bar _ _ => true
  | .barg _ _ => true
  | .barw _ _ => true
  | .waittl _ _ _ _ _ _ => true
  | .nap _ _ _ _ => true
  | .retu _ _ => true
  | .umask _ _ _ => true
  | .sread _ d _ _ => accessOpd d
  | .swrite _ _ _ _ => true
  | .trap _ _ _ => true
  | .bkpt _ _ _ => true
  | .iadd _ f => f.accessOk
  | .isub _ f => f.accessOk
  | .iaddc _ _ f => f.accessOk
  | .isubb _ _ f => f.accessOk
  | .imul _ f => f.accessOk
  | .imulh _ f => f.accessOk
  | .imulhu _ f => f.accessOk
  | .imad _ f => f.accessOk
  | .iadd64 _ f => f.accessOk
  | .isub64 _ f => f.accessOk
  | .imul64 _ f => f.accessOk
  | .idivu _ f => f.accessOk
  | .idivs _ f => f.accessOk
  | .iremu _ f => f.accessOk
  | .irems _ f => f.accessOk
  | .imin _ f => f.accessOk
  | .imax _ f => f.accessOk
  | .iminu _ f => f.accessOk
  | .imaxu _ f => f.accessOk
  | .iabs _ f => f.accessOk
  | .ineg _ f => f.accessOk
  | .and _ f => f.accessOk
  | .or _ f => f.accessOk
  | .xor _ f => f.accessOk
  | .not _ f => f.accessOk
  | .andn _ f => f.accessOk
  | .shl _ _ f => f.accessOk
  | .shr _ _ f => f.accessOk
  | .sar _ _ f => f.accessOk
  | .shl64 _ _ f => f.accessOk
  | .shr64 _ _ f => f.accessOk
  | .sar64 _ _ f => f.accessOk
  | .rotl _ f => f.accessOk
  | .funnel _ _ f => f.accessOk
  | .popc _ f => f.accessOk
  | .clz _ f => f.accessOk
  | .ctz _ f => f.accessOk
  | .brev _ f => f.accessOk
  | .bfe _ _ f => f.accessOk
  | .bfi _ f => f.accessOk
  | .bysel _ f => f.accessOk
  | .iset _ _ f => f.accessOk
  | .iset64 _ _ f => f.accessOk
  | .isel _ f => f.accessOk
  | .mov _ _ f => f.accessOk
  | .movi _ _ d _ => accessOpd d
  | .movs _ _ f => f.accessOk
  | .lea _ _ _ f => f.accessOk
  | .fadd _ _ _ => true
  | .fsub _ _ _ => true
  | .fmul _ _ _ => true
  | .ffma _ _ _ => true
  | .fmin _ _ _ => true
  | .fmax _ _ _ => true
  | .fabs _ _ _ => true
  | .fneg _ _ _ => true
  | .fcopys _ _ _ => true
  | .fset _ _ _ _ => true
  | .fclass _ _ _ => true
  | .fdiv _ _ _ => true
  | .hadd2 _ _ _ => true
  | .hmul2 _ _ _ => true
  | .hfma2 _ _ _ => true
  | .badd2 _ _ _ => true
  | .bmul2 _ _ _ => true
  | .bfma2 _ _ _ => true
  | .dadd _ _ _ => true
  | .dmul _ _ _ => true
  | .dfma _ _ _ => true
  | .dset _ _ _ => true
  | .cvt _ _ _ _ _ => true
  | .cvtpk _ _ _ _ _ _ => true
  | .cvtupk _ _ _ _ _ => true
  | .rndi _ _ _ => true
  | .q8add _ _ _ _ => true
  | .q8mul _ _ _ _ => true
  | .q8min _ _ _ _ => true
  | .q8max _ _ _ _ => true
  | .idp4 _ _ _ _ => true
  | .fdp4 _ _ _ _ _ => true
  | .fdp2 _ _ _ _ => true
  | .scalex _ _ _ _ _ => true
  | .rcp _ _ => true
  | .rsq _ _ => true
  | .sqrt _ _ => true
  | .exp2 _ _ => true
  | .log2 _ _ => true
  | .exp _ _ => true
  | .log _ _ => true
  | .sinpi _ _ => true
  | .cospi _ _ => true
  | .tanh _ _ => true
  | .sigm _ _ => true
  | .shfl _ _ _ _ _ => true
  | .vote _ _ _ => true
  | .ballot _ _ => true
  | .matchL _ _ _ => true
  | .redux _ _ _ => true
  | .scan _ _ _ _ => true
  | .pand _ _ _ _ => true
  | .por _ _ _ _ => true
  | .pxor _ _ _ _ => true
  | .pnot _ _ => true
  | .pmov _ _ _ => true
  | .ld _ _ _ => true
  | .st _ _ _ => true
  | .lds _ _ _ => true
  | .sts _ _ _ => true
  | .ldq _ _ _ => true
  | .pref _ _ _ => true
  | .reside _ _ _ => true
  | .fetchpg _ _ _ => true
  | .atom _ _ _ => true
  | .atoms _ _ _ => true
  | .cas _ _ => true
  | .cas128 _ _ => true
  | .red _ _ _ => true
  | .fence _ _ _ => true
  | .qfence _ _ _ => true
  | .cinv _ _ _ => true
  | .cwb _ _ _ => true
  | .snap _ _ _ _ _ _ => true
  | .accept _ _ _ _ => true
  | .reject _ _ _ _ => true
  | .snapq _ _ _ => true
  | .put _ _ _ _ _ _ _ _ => true
  | .get _ _ _ _ _ _ _ => true
  | .waitw _ _ _ _ _ _ => true
  | .wread _ _ _ _ _ => true
  | .launch _ _ _ _ => true
  | .launchw _ _ _ => true
  | .postc _ _ _ _ => true
  | .xdef _ _ _ _ => true
  | .xread _ _ _ => true
  | .talloc _ _ _ _ _ => true
  | .tfree _ _ => true
  | .tstat _ _ _ _ => true
  | .tload _ _ _ _ _ _ _ _ _ _ => true
  | .tstore _ _ _ _ _ _ _ _ => true
  | .tloadb _ _ _ _ _ _ _ _ => true
  | .tmcast _ _ _ _ _ _ _ _ _ => true
  | .tbinit _ _ _ _ => true
  | .arrive _ _ _ _ => true
  | .expect _ _ _ _ _ _ => true
  | .waitph _ _ _ _ => true
  | .rsum _ _ _ _ _ _ => true
  | .mma _ _ _ => true
  | .mzero _ _ _ _ => true
  | .mprom _ _ _ _ => true
  | .mlda _ _ _ _ _ _ _ => true
  | .mldb _ _ _ _ _ _ _ => true
  | .msta _ _ _ _ _ _ _ _ _ _ _ _ => true
  | .mread _ _ _ _ _ => true
  | .mwrite _ _ _ _ _ => true
  | .gate _ _ _ _ => true
  | .retg _ _ => true
  | .cpset _ _ _ _ _ _ => true
  | .cpget _ _ _ _ _ => true
  | .tlbinv _ _ _ _ _ _ => true
  | .asidbind _ _ _ _ _ _ _ => true
  | .ckpt _ _ => true
  | .croll _ _ _ _ _ => true
  | .halt _ _ _ _ => true
  | .resume _ _ _ _ => true
  | .yieldOverrun _ _ => true
  | .lineFetch _ _ _ _ _ => true
  | .checkpointPeriod _ => true
  | .blockPark _ => true
  | .checkpointCommit _ => true
  | .quantumEnd _ => true
  | .userInterruptDelivery _ _ => true
  | .vectoring _ _ => true
  | .activationEntry _ => true
  | .dispatch _ => true
  | .fenceMet _ => true
  | .blockEnd _ => true
  | .completionRecord _ => true
  | .landing _ _ _ => true
  | .mcastLanding _ _ _ _ => true
  | .shuttleCommandComplete _ _ _ => true
  | .mmaStart _ _ _ => true
  | .matrixCommandComplete _ _ _ => true
  | .fetchpgComplete _ _ => true
  | .fetchNoframe _ _ => true
  | .windowCommandComplete _ _ => true
  | .rsumPacket _ _ => true
  | .barrierArrival _ _ => true
  | .barrierRelease _ _ => true
  | .readRequest _ _ _ => true
  | .ownershipRequest _ _ _ => true
  | .writeRequest _ _ _ _ _ _ => true
  | .uncachedRead _ _ _ => true
  | .uncachedWrite _ _ _ _ _ _ => true
  | .farAtomic _ _ _ _ _ _ => true
  | .eviction _ _ _ => true
  | .cleanEvictionNotice _ _ _ => true
  | .cleanReleaseNotice _ _ _ => true
  | .recall _ _ _ _ => true
  | .invalidation _ _ _ => true
  | .peerProbe _ _ _ => true
  | .sharerNotice _ _ _ _ => true
  | .dataResponse _ _ _ => true
  | .placementEpoch _ => true
  | .migration _ _ _ => true
  | .marginLend _ _ _ _ => true
  | .revocation _ _ _ _ => true
  | .revocationOverrun _ _ _ _ => true
  | .hang _ => true
  | .pcSample _ _ => true
  | .faultHoldPoll _ => true
  | .heartbeatTimeout _ => true
  | .linkRetrain _ _ _ => true
  | .laneTraining _ _ _ => true
  | .memoryUncorrectable _ _ _ _ => true
  | .thermalLimit _ => true
  | .rdmaWrite _ => true
  | .rdmaWriteWithImmediate _ => true
  | .rdmaRead _ => true
  | .fetchAdd _ => true
  | .cmpSwap _ => true
  | .ack _ _ => true
  | .ackTimeout _ => true
  | .congestionNotification _ => true
  | .rateRecovery _ => true
  | .ptpMessage _ => true
  | .waitwTimeout _ _ => true
  | .napExpiry _ _ => true
  | .powerOn _ => true
  | .leadReachTimeout _ => true
  | .startTimeout => true
  | .warmReset _ => true
  | .partitionCreate _ _ _ _ => true
  | .partitionResize _ _ => true
  | .partitionDestroy _ => true
  | .operatorClearAttempts => true
  | .imageWrite _ _ _ => true
  | .fieldSelfTest _ _ => true
  | .operatorAttest _ => true
  | .operatorResume _ => true
  | .operatorAbort _ => true
  | .ctxNew _ _ _ _ _ => true
  | .ctxFree _ _ => true
  | .asidNew _ _ _ _ => true
  | .asidFree _ _ => true
  | .vfSet _ _ _ _ => true
  | .gateRsv _ _ _ => true
  | .shadowSet _ _ _ => true
  | .fstoreSet _ _ _ => true
  | .place _ _ _ _ => true
  | .qpNew _ _ _ _ _ _ _ => true
  | .qpFree _ _ => true
  | .winSet _ _ _ _ _ _ _ _ => true
  | .winFree _ _ => true
  | .attest _ _ _ => true
  | .traceSet _ _ _ _ _ => true
  | .ctrSet _ _ _ _ => true
  | .dbgSet _ _ _ _ _ => true
  | .logSet _ _ _ _ _ => true
  | .faultSet _ _ _ => true
  | .abort _ _ _ => true
  | .snapClose _ _ _ _ => true
  | .hangSet _ _ _ => true
  | .winQp _ _ _ => true
  | .waitingInstructionComplete _ _ => true
  | .powerLoss => true
  | .returnWithinLimit _ => true
  | .memoryChannelRetraining _ _ _ => true
  | .crossbarPortParityError _ _ _ => true
  | .rdmaReadResponse _ _ _ => true
  | .rnrNak _ => true
  | .pauseFrame _ _ _ => true

end Sys2Proof
end

