-- ==== Sys2Proof/Decode.lean ====
section
/-! DEFINITION. The decoder from 96-bit slots (R60, R68 to R102), total, refusing what is no
encoding, and the encoder of a well-formed instruction. Both read one table of field widths; a slot
is an instruction exactly when the fields read from it encode back to it. -/

namespace Sys2Proof

/-! ### Fields of a word, lowest first -/

/-- The values of consecutive fields of the given widths, from bit 0 up. -/
def splitFields : List Nat → Nat → List Nat
  | [], _ => []
  | w :: ws, x => x % 2 ^ w :: splitFields ws (x / 2 ^ w)

/-- The word whose consecutive fields from bit 0 up have the given widths and values. -/
def joinFields : List Nat → List Nat → Nat
  | w :: ws, v :: vs => v % 2 ^ w + 2 ^ w * joinFields ws vs
  | [], _ => 0
  | _ :: _, [] => 0

/-! ### Named field values from their codes. A code that stands for nothing reads as some value
whose own code differs. -/

def Opd.ofCode (n : Nat) : Opd :=
  if n < 0x80 then .g (.ofNat 7 n)
  else if n < 0xC0 then .s (.ofNat 6 n)
  else if n < 0xD0 then .p (.ofNat 4 n)
  else if n < 0xD8 then .q (.ofNat 3 n)
  else if n < 0xE0 then .j (.ofNat 3 n)
  else if n < 0xE8 then .a (.ofNat 3 n)
  else if n < 0xF0 then .tc (.ofNat 3 n)
  else .z

def Rm.ofCode : Nat → Rm
  | 1 => .rz | 2 => .ru | 3 => .rd | 4 => .rs | _ => .rn

def Scope.ofCode : Nat → Scope
  | 1 => .field | 2 => .wafer | 3 => .system | _ => .block

def Order.ofCode : Nat → Order
  | 1 => .acquire | 2 => .release | 3 => .acqRel | _ => .relaxed

def Hint.ofCode : Nat → Hint
  | 1 => .evictFirst | 2 => .evictLast | 3 => .noAllocate | _ => .normal

def ICmp.ofCode : Nat → ICmp
  | 1 => .ne | 2 => .lt | 3 => .le | 4 => .gt | 5 => .ge | 6 => .ltu | 7 => .leu | 8 => .gtu
  | 9 => .geu | _ => .eq

def FCmp.ofCode : Nat → FCmp
  | 1 => .ne | 2 => .lt | 3 => .le | 4 => .gt | 5 => .ge | 6 => .equ | 7 => .neu | 8 => .ltu
  | 9 => .leu | 10 => .gtu | 11 => .geu | 12 => .num | 13 => .nan | _ => .eq

def ClassFmt.ofCode : Nat → ClassFmt
  | 1 => .f16 | 2 => .bf16 | 3 => .f64 | _ => .f32

def Elem.ofCode : Nat → Elem
  | 1 => .f16 | 2 => .bf16 | 3 => .f64 | 4 => .s32 | 5 => .u32 | 6 => .s64 | 7 => .u64 | 8 => .e4m3
  | 9 => .e5m2 | 10 => .e2m1 | 11 => .s8 | 12 => .s4 | 13 => .s3 | 14 => .u8 | _ => .f32

def ShflMode.ofCode : Nat → ShflMode
  | 1 => .up | 2 => .down | 3 => .xor | _ => .idx

def VoteMode.ofCode : Nat → VoteMode
  | 1 => .all | 2 => .uni | 3 => .elect | _ => .any

def Rop.ofCode : Nat → Rop
  | 1 => .min | 2 => .max | 3 => .minu | 4 => .maxu | 5 => .and | 6 => .or | 7 => .xor | _ => .add

def Aop.ofCode : Nat → Aop
  | 1 => .and | 2 => .or | 3 => .xor | 4 => .min | 5 => .max | 6 => .minu | 7 => .maxu | 8 => .exch
  | 9 => .inc | 10 => .dec | 11 => .fadd | 12 => .fmin | 13 => .fmax | 14 => .hadd2 | 15 => .badd2
  | _ => .add

def AllocMode.ofCode : Nat → AllocMode
  | 1 => .rdy | 2 => .rx | _ => .plain

def LoadMode.ofCode : Nat → LoadMode
  | 1 => .gather | 2 => .conv | _ => .plain

def SReg.ofCode : Nat → SReg
  | 0x001 => .lane | 0x002 => .skein | 0x003 => .block | 0x004 => .field | 0x005 => .core
  | 0x006 => .cmpt | 0x007 => .launch | 0x008 => .clock | 0x009 => .time | 0x00A => .status
  | 0x00B => .hvec | 0x00C => .epc | 0x00D => .upend | 0x00E => .seed | 0x00F => .icount
  | 0x010 => .ycount | 0x011 => .lasty | 0x012 => .umask | 0x013 => .gregs | 0x014 => .levels
  | 0x020 => .gtsel | 0x021 => .gtdata | _ => .wid

/-- R100: every one of the 64 values is assigned. -/
def Sop.ofCode : Nat → Sop
  | 0x01 => .isub | 0x02 => .imul | 0x03 => .imulh | 0x04 => .imulhu | 0x05 => .imad | 0x06 => .imin
  | 0x07 => .imax | 0x08 => .iminu | 0x09 => .imaxu | 0x0A => .iabs | 0x0B => .ineg | 0x0C => .and
  | 0x0D => .or | 0x0E => .xor | 0x0F => .not | 0x10 => .andn | 0x11 => .shl | 0x12 => .shr
  | 0x13 => .sar | 0x14 => .rotl | 0x15 => .popc | 0x16 => .clz | 0x17 => .ctz | 0x18 => .brev
  | 0x19 => .bfe | 0x1A => .bysel | 0x1B => .mov | 0x1C => .fadd | 0x1D => .fsub | 0x1E => .fmul
  | 0x1F => .ffma | 0x20 => .fmin | 0x21 => .fmax | 0x22 => .fabs | 0x23 => .fneg | 0x24 => .fcopys
  | 0x25 => .fdiv | 0x26 => .hadd2 | 0x27 => .hmul2 | 0x28 => .hfma2 | 0x29 => .badd2
  | 0x2A => .bmul2 | 0x2B => .bfma2 | 0x2C => .cvt | 0x2D => .rndi | 0x2E => .q8add | 0x2F => .q8mul
  | 0x30 => .q8min | 0x31 => .q8max | 0x32 => .idp4 | 0x33 => .fdp2 | 0x34 => .scalex | 0x35 => .rcp
  | 0x36 => .rsq | 0x37 => .sqrt | 0x38 => .exp2 | 0x39 => .log2 | 0x3A => .exp | 0x3B => .log
  | 0x3C => .sinpi | 0x3D => .cospi | 0x3E => .tanh | 0x3F => .sigm | _ => .iadd

/-! ### Records of fields -/

/-- The B field of a sub-operation. -/
def SubOp.bCode (s : SubOp) : Nat := match s.b with | some b => b.toNat | none => 0xFF

/-- The sub-operation whose five fields start at field `k`. -/
def subOf (v : Nat → Nat) (k : Nat) : SubOp :=
  { sop := .ofCode (v k), d := .ofNat 7 (v (k + 1)), a := .ofNat 7 (v (k + 2)),
    b := if v (k + 3) = 0xFF then none else some (.ofNat 7 (v (k + 3))),
    smod := .ofNat 6 (v (k + 4)) }

/-- The operands of FMT 0, with IMM16 at field `k`. -/
def f0Of (v : Nat → Nat) (k : Nat) : F0 :=
  { d := .ofCode (v 7), a := .ofCode (v 8), b := .ofCode (v 9), c := .ofCode (v 10),
    e := .ofNat 3 (v 11), ib := v 15 == 1, imm := .ofNat 16 (v k) }

def rndOf (v : Nat → Nat) : Rnd :=
  { rm := .ofCode (v 12), sat := v 13 == 1, ftz := v 14 == 1 }

def f2Of (v : Nat → Nat) : F2 :=
  { a := .ofCode (v 8), b := .ofCode (v 9), ea := v 10 == 1, ed := v 11 == 1, ty := .ofNat 2 (v 12),
    scope := .ofCode (v 13), order := .ofCode (v 14), size := .ofNat 3 (v 15),
    resp := .ofNat 4 (v 16), hint := .ofCode (v 18), off := .ofNat 24 (v 20) }

/-- The fields of FMT 3, with DISP32 at field `k`. -/
def f3Of (v : Nat → Nat) (k : Nat) : F3 :=
  { j := .ofNat 3 (v 7), enr := v 8 == 1, uni := v 9 == 1, a := .ofCode (v 11),
    disp := .ofNat 32 (v k) }

def faOf (v : Nat → Nat) : FA :=
  { d := .ofCode (v 7), a := .ofCode (v 8), b := .ofCode (v 9), c := .ofCode (v 10),
    e := .ofNat 3 (v 11), scope := .ofCode (v 13), order := .ofCode (v 14), size := .ofNat 3 (v 15),
    resp := .ofNat 4 (v 16), hint := .ofCode (v 17), imm := .ofNat 16 (v 19) }

/-! ### The common header (R68) -/

/-- No guard and no hint. -/
def Hdr.plain : Hdr := { gp := 0, gn := false, gap := 0, gw := false }

/-- OP, GP, GN, GAP, GW, FMT and the reserved bits 23:22. -/
def headerWidths : List Nat := [10, 4, 1, 3, 1, 3, 2]

def Hdr.vals (h : Hdr) (op fmt : Nat) : List Nat :=
  [op, h.gp.toNat, h.gn.toNat, h.gap.toNat, h.gw.toNat, fmt, 0]

def hdrOf (v : Nat → Nat) : Hdr :=
  { gp := .ofNat 4 (v 1), gn := v 2 == 1, gap := .ofNat 3 (v 3), gw := v 4 == 1 }

/-! ### The table -/

/-- The opcode R92 assigns; an event has none. -/
def Instr.op? : Instr → Option Nat
  | .nop _ => some 0x000
  | .pair _ _ _ => some 0x001
  | .bra _ _ => some 0x002
  | .brx _ _ _ => some 0x003
  | .call _ _ => some 0x004
  | .callx _ _ _ => some 0x005
  | .ret _ _ => some 0x006
  | .enrol _ _ => some 0x007
  | .join _ _ => some 0x008
  | .yield _ _ _ => some 0x009
  | .exit _ _ => some 0x00A
  | .bar _ _ => some 0x00B
  | .barg _ _ => some 0x00C
  | .barw _ _ => some 0x00D
  | .waittl _ _ _ _ _ _ => some 0x00E
  | .nap _ _ _ _ => some 0x00F
  | .retu _ _ => some 0x010
  | .umask _ _ _ => some 0x011
  | .sread _ _ _ _ => some 0x012
  | .swrite _ _ _ _ => some 0x013
  | .trap _ _ _ => some 0x014
  | .bkpt _ _ _ => some 0x015
  | .iadd _ _ => some 0x040
  | .isub _ _ => some 0x041
  | .iaddc _ _ _ => some 0x042
  | .isubb _ _ _ => some 0x043
  | .imul _ _ => some 0x044
  | .imulh _ _ => some 0x045
  | .imulhu _ _ => some 0x046
  | .imad _ _ => some 0x047
  | .iadd64 _ _ => some 0x048
  | .isub64 _ _ => some 0x049
  | .imul64 _ _ => some 0x04A
  | .idivu _ _ => some 0x04B
  | .idivs _ _ => some 0x04C
  | .iremu _ _ => some 0x04D
  | .irems _ _ => some 0x04E
  | .imin _ _ => some 0x04F
  | .imax _ _ => some 0x050
  | .iminu _ _ => some 0x051
  | .imaxu _ _ => some 0x052
  | .iabs _ _ => some 0x053
  | .ineg _ _ => some 0x054
  | .and _ _ => some 0x055
  | .or _ _ => some 0x056
  | .xor _ _ => some 0x057
  | .not _ _ => some 0x058
  | .andn _ _ => some 0x059
  | .shl _ _ _ => some 0x05A
  | .shr _ _ _ => some 0x05B
  | .sar _ _ _ => some 0x05C
  | .shl64 _ _ _ => some 0x05D
  | .shr64 _ _ _ => some 0x05E
  | .sar64 _ _ _ => some 0x05F
  | .rotl _ _ => some 0x060
  | .funnel _ _ _ => some 0x061
  | .popc _ _ => some 0x062
  | .clz _ _ => some 0x063
  | .ctz _ _ => some 0x064
  | .brev _ _ => some 0x065
  | .bfe _ _ _ => some 0x066
  | .bfi _ _ => some 0x067
  | .bysel _ _ => some 0x068
  | .iset _ _ _ => some 0x069
  | .iset64 _ _ _ => some 0x06A
  | .isel _ _ => some 0x06B
  | .mov _ _ _ => some 0x06C
  | .movi _ _ _ _ => some 0x06D
  | .movs _ _ _ => some 0x06E
  | .lea _ _ _ _ => some 0x06F
  | .fadd _ _ _ => some 0x0C0
  | .fsub _ _ _ => some 0x0C1
  | .fmul _ _ _ => some 0x0C2
  | .ffma _ _ _ => some 0x0C3
  | .fmin _ _ _ => some 0x0C4
  | .fmax _ _ _ => some 0x0C5
  | .fabs _ _ _ => some 0x0C6
  | .fneg _ _ _ => some 0x0C7
  | .fcopys _ _ _ => some 0x0C8
  | .fset _ _ _ _ => some 0x0C9
  | .fclass _ _ _ => some 0x0CA
  | .fdiv _ _ _ => some 0x0CB
  | .hadd2 _ _ _ => some 0x0CC
  | .hmul2 _ _ _ => some 0x0CD
  | .hfma2 _ _ _ => some 0x0CE
  | .badd2 _ _ _ => some 0x0CF
  | .bmul2 _ _ _ => some 0x0D0
  | .bfma2 _ _ _ => some 0x0D1
  | .dadd _ _ _ => some 0x0D2
  | .dmul _ _ _ => some 0x0D3
  | .dfma _ _ _ => some 0x0D4
  | .dset _ _ _ => some 0x0D5
  | .cvt _ _ _ _ _ => some 0x0D6
  | .cvtpk _ _ _ _ _ _ => some 0x0D7
  | .cvtupk _ _ _ _ _ => some 0x0D8
  | .rndi _ _ _ => some 0x0D9
  | .q8add _ _ _ _ => some 0x140
  | .q8mul _ _ _ _ => some 0x141
  | .q8min _ _ _ _ => some 0x142
  | .q8max _ _ _ _ => some 0x143
  | .idp4 _ _ _ _ => some 0x144
  | .fdp4 _ _ _ _ _ => some 0x145
  | .fdp2 _ _ _ _ => some 0x146
  | .scalex _ _ _ _ _ => some 0x147
  | .rcp _ _ => some 0x148
  | .rsq _ _ => some 0x149
  | .sqrt _ _ => some 0x14A
  | .exp2 _ _ => some 0x14B
  | .log2 _ _ => some 0x14C
  | .exp _ _ => some 0x14D
  | .log _ _ => some 0x14E
  | .sinpi _ _ => some 0x14F
  | .cospi _ _ => some 0x150
  | .tanh _ _ => some 0x151
  | .sigm _ _ => some 0x152
  | .shfl _ _ _ _ _ => some 0x180
  | .vote _ _ _ => some 0x181
  | .ballot _ _ => some 0x182
  | .matchL _ _ _ => some 0x183
  | .redux _ _ _ => some 0x184
  | .scan _ _ _ _ => some 0x185
  | .pand _ _ _ _ => some 0x186
  | .por _ _ _ _ => some 0x187
  | .pxor _ _ _ _ => some 0x188
  | .pnot _ _ => some 0x189
  | .pmov _ _ _ => some 0x18A
  | .ld _ _ _ => some 0x1C0
  | .st _ _ _ => some 0x1C1
  | .lds _ _ _ => some 0x1C2
  | .sts _ _ _ => some 0x1C3
  | .ldq _ _ _ => some 0x1C4
  | .pref _ _ _ => some 0x1C5
  | .reside _ _ _ => some 0x1C6
  | .fetchpg _ _ _ => some 0x1C7
  | .atom _ _ _ => some 0x1C8
  | .atoms _ _ _ => some 0x1C9
  | .cas _ _ => some 0x1CA
  | .cas128 _ _ => some 0x1CB
  | .red _ _ _ => some 0x1CC
  | .fence _ _ _ => some 0x1CD
  | .qfence _ _ _ => some 0x1CE
  | .cinv _ _ _ => some 0x1CF
  | .cwb _ _ _ => some 0x1D0
  | .snap _ _ _ _ _ _ => some 0x240
  | .accept _ _ _ _ => some 0x241
  | .reject _ _ _ _ => some 0x242
  | .snapq _ _ _ => some 0x243
  | .put _ _ _ _ _ _ _ _ => some 0x244
  | .get _ _ _ _ _ _ _ => some 0x245
  | .waitw _ _ _ _ _ _ => some 0x246
  | .wread _ _ _ _ _ => some 0x247
  | .launch _ _ _ _ => some 0x248
  | .launchw _ _ _ => some 0x249
  | .postc _ _ _ _ => some 0x24A
  | .xdef _ _ _ _ => some 0x280
  | .xread _ _ _ => some 0x281
  | .talloc _ _ _ _ _ => some 0x282
  | .tfree _ _ => some 0x283
  | .tstat _ _ _ _ => some 0x284
  | .tload _ _ _ _ _ _ _ _ _ _ => some 0x285
  | .tstore _ _ _ _ _ _ _ _ => some 0x286
  | .tloadb _ _ _ _ _ _ _ _ => some 0x287
  | .tmcast _ _ _ _ _ _ _ _ _ => some 0x288
  | .tbinit _ _ _ _ => some 0x289
  | .arrive _ _ _ _ => some 0x28A
  | .expect _ _ _ _ _ _ => some 0x28B
  | .waitph _ _ _ _ => some 0x28C
  | .rsum _ _ _ _ _ _ => some 0x28D
  | .mma _ _ _ => some 0x2C0
  | .mzero _ _ _ _ => some 0x2C1
  | .mprom _ _ _ _ => some 0x2C2
  | .mlda _ _ _ _ _ _ _ => some 0x2C3
  | .mldb _ _ _ _ _ _ _ => some 0x2C4
  | .msta _ _ _ _ _ _ _ _ _ _ _ _ => some 0x2C5
  | .mread _ _ _ _ _ => some 0x2C6
  | .mwrite _ _ _ _ _ => some 0x2C7
  | .gate _ _ _ _ => some 0x300
  | .retg _ _ => some 0x301
  | .cpset _ _ _ _ _ _ => some 0x302
  | .cpget _ _ _ _ _ => some 0x303
  | .tlbinv _ _ _ _ _ _ => some 0x304
  | .asidbind _ _ _ _ _ _ _ => some 0x305
  | .ckpt _ _ => some 0x306
  | .croll _ _ _ _ _ => some 0x307
  | .halt _ _ _ _ => some 0x308
  | .resume _ _ _ _ => some 0x309
  | .yieldOverrun _ _ => none
  | .lineFetch _ _ _ _ _ => none
  | .checkpointPeriod _ => none
  | .blockPark _ => none
  | .checkpointCommit _ => none
  | .quantumEnd _ => none
  | .userInterruptDelivery _ _ => none
  | .vectoring _ _ => none
  | .activationEntry _ => none
  | .dispatch _ => none
  | .fenceMet _ => none
  | .blockEnd _ => none
  | .completionRecord _ => none
  | .landing _ _ _ => none
  | .mcastLanding _ _ _ _ => none
  | .shuttleCommandComplete _ _ _ => none
  | .mmaStart _ _ _ => none
  | .matrixCommandComplete _ _ _ => none
  | .fetchpgComplete _ _ => none
  | .fetchNoframe _ _ => none
  | .windowCommandComplete _ _ => none
  | .rsumPacket _ _ => none
  | .barrierArrival _ _ => none
  | .barrierRelease _ _ => none
  | .readRequest _ _ _ => none
  | .ownershipRequest _ _ _ => none
  | .writeRequest _ _ _ _ _ _ => none
  | .uncachedRead _ _ _ => none
  | .uncachedWrite _ _ _ _ _ _ => none
  | .farAtomic _ _ _ _ _ _ => none
  | .eviction _ _ _ => none
  | .cleanEvictionNotice _ _ _ => none
  | .cleanReleaseNotice _ _ _ => none
  | .recall _ _ _ _ => none
  | .invalidation _ _ _ => none
  | .peerProbe _ _ _ => none
  | .sharerNotice _ _ _ _ => none
  | .dataResponse _ _ _ => none
  | .placementEpoch _ => none
  | .migration _ _ _ => none
  | .marginLend _ _ _ _ => none
  | .revocation _ _ _ _ => none
  | .revocationOverrun _ _ _ _ => none
  | .hang _ => none
  | .pcSample _ _ => none
  | .faultHoldPoll _ => none
  | .heartbeatTimeout _ => none
  | .linkRetrain _ _ _ => none
  | .laneTraining _ _ _ => none
  | .memoryUncorrectable _ _ _ _ => none
  | .thermalLimit _ => none
  | .rdmaWrite _ => none
  | .rdmaWriteWithImmediate _ => none
  | .rdmaRead _ => none
  | .fetchAdd _ => none
  | .cmpSwap _ => none
  | .ack _ _ => none
  | .ackTimeout _ => none
  | .congestionNotification _ => none
  | .rateRecovery _ => none
  | .ptpMessage _ => none
  | .waitwTimeout _ _ => none
  | .napExpiry _ _ => none
  | .powerOn _ => none
  | .leadReachTimeout _ => none
  | .startTimeout => none
  | .warmReset _ => none
  | .partitionCreate _ _ _ _ => none
  | .partitionResize _ _ => none
  | .partitionDestroy _ => none
  | .operatorClearAttempts => none
  | .imageWrite _ _ _ => none
  | .fieldSelfTest _ _ => none
  | .operatorAttest _ => none
  | .operatorResume _ => none
  | .operatorAbort _ => none
  | .ctxNew _ _ _ _ _ => none
  | .ctxFree _ _ => none
  | .asidNew _ _ _ _ => none
  | .asidFree _ _ => none
  | .vfSet _ _ _ _ => none
  | .gateRsv _ _ _ => none
  | .shadowSet _ _ _ => none
  | .fstoreSet _ _ _ => none
  | .place _ _ _ _ => none
  | .qpNew _ _ _ _ _ _ _ => none
  | .qpFree _ _ => none
  | .winSet _ _ _ _ _ _ _ _ => none
  | .winFree _ _ => none
  | .attest _ _ _ => none
  | .traceSet _ _ _ _ _ => none
  | .ctrSet _ _ _ _ => none
  | .dbgSet _ _ _ _ _ => none
  | .logSet _ _ _ _ _ => none
  | .faultSet _ _ _ => none
  | .abort _ _ _ => none
  | .snapClose _ _ _ _ => none
  | .hangSet _ _ _ => none
  | .winQp _ _ _ => none
  | .waitingInstructionComplete _ _ => none
  | .powerLoss => none
  | .returnWithinLimit _ => none
  | .memoryChannelRetraining _ _ _ => none
  | .crossbarPortParityError _ _ _ => none
  | .rdmaReadResponse _ _ _ => none
  | .rnrNak _ => none
  | .pauseFrame _ _ _ => none

/-- The common header of an instruction. -/
def Instr.hdr : Instr → Hdr
  | .nop h => h
  | .pair h _ _ => h
  | .bra h _ => h
  | .brx h _ _ => h
  | .call h _ => h
  | .callx h _ _ => h
  | .ret h _ => h
  | .enrol h _ => h
  | .join h _ => h
  | .yield h _ _ => h
  | .exit h _ => h
  | .bar h _ => h
  | .barg h _ => h
  | .barw h _ => h
  | .waittl h _ _ _ _ _ => h
  | .nap h _ _ _ => h
  | .retu h _ => h
  | .umask h _ _ => h
  | .sread h _ _ _ => h
  | .swrite h _ _ _ => h
  | .trap h _ _ => h
  | .bkpt h _ _ => h
  | .iadd h _ => h
  | .isub h _ => h
  | .iaddc h _ _ => h
  | .isubb h _ _ => h
  | .imul h _ => h
  | .imulh h _ => h
  | .imulhu h _ => h
  | .imad h _ => h
  | .iadd64 h _ => h
  | .isub64 h _ => h
  | .imul64 h _ => h
  | .idivu h _ => h
  | .idivs h _ => h
  | .iremu h _ => h
  | .irems h _ => h
  | .imin h _ => h
  | .imax h _ => h
  | .iminu h _ => h
  | .imaxu h _ => h
  | .iabs h _ => h
  | .ineg h _ => h
  | .and h _ => h
  | .or h _ => h
  | .xor h _ => h
  | .not h _ => h
  | .andn h _ => h
  | .shl h _ _ => h
  | .shr h _ _ => h
  | .sar h _ _ => h
  | .shl64 h _ _ => h
  | .shr64 h _ _ => h
  | .sar64 h _ _ => h
  | .rotl h _ => h
  | .funnel h _ _ => h
  | .popc h _ => h
  | .clz h _ => h
  | .ctz h _ => h
  | .brev h _ => h
  | .bfe h _ _ => h
  | .bfi h _ => h
  | .bysel h _ => h
  | .iset h _ _ => h
  | .iset64 h _ _ => h
  | .isel h _ => h
  | .mov h _ _ => h
  | .movi h _ _ _ => h
  | .movs h _ _ => h
  | .lea h _ _ _ => h
  | .fadd h _ _ => h
  | .fsub h _ _ => h
  | .fmul h _ _ => h
  | .ffma h _ _ => h
  | .fmin h _ _ => h
  | .fmax h _ _ => h
  | .fabs h _ _ => h
  | .fneg h _ _ => h
  | .fcopys h _ _ => h
  | .fset h _ _ _ => h
  | .fclass h _ _ => h
  | .fdiv h _ _ => h
  | .hadd2 h _ _ => h
  | .hmul2 h _ _ => h
  | .hfma2 h _ _ => h
  | .badd2 h _ _ => h
  | .bmul2 h _ _ => h
  | .bfma2 h _ _ => h
  | .dadd h _ _ => h
  | .dmul h _ _ => h
  | .dfma h _ _ => h
  | .dset h _ _ => h
  | .cvt h _ _ _ _ => h
  | .cvtpk h _ _ _ _ _ => h
  | .cvtupk h _ _ _ _ => h
  | .rndi h _ _ => h
  | .q8add h _ _ _ => h
  | .q8mul h _ _ _ => h
  | .q8min h _ _ _ => h
  | .q8max h _ _ _ => h
  | .idp4 h _ _ _ => h
  | .fdp4 h _ _ _ _ => h
  | .fdp2 h _ _ _ => h
  | .scalex h _ _ _ _ => h
  | .rcp h _ => h
  | .rsq h _ => h
  | .sqrt h _ => h
  | .exp2 h _ => h
  | .log2 h _ => h
  | .exp h _ => h
  | .log h _ => h
  | .sinpi h _ => h
  | .cospi h _ => h
  | .tanh h _ => h
  | .sigm h _ => h
  | .shfl h _ _ _ _ => h
  | .vote h _ _ => h
  | .ballot h _ => h
  | .matchL h _ _ => h
  | .redux h _ _ => h
  | .scan h _ _ _ => h
  | .pand h _ _ _ => h
  | .por h _ _ _ => h
  | .pxor h _ _ _ => h
  | .pnot h _ => h
  | .pmov h _ _ => h
  | .ld h _ _ => h
  | .st h _ _ => h
  | .lds h _ _ => h
  | .sts h _ _ => h
  | .ldq h _ _ => h
  | .pref h _ _ => h
  | .reside h _ _ => h
  | .fetchpg h _ _ => h
  | .atom h _ _ => h
  | .atoms h _ _ => h
  | .cas h _ => h
  | .cas128 h _ => h
  | .red h _ _ => h
  | .fence h _ _ => h
  | .qfence h _ _ => h
  | .cinv h _ _ => h
  | .cwb h _ _ => h
  | .snap h _ _ _ _ _ => h
  | .accept h _ _ _ => h
  | .reject h _ _ _ => h
  | .snapq h _ _ => h
  | .put h _ _ _ _ _ _ _ => h
  | .get h _ _ _ _ _ _ => h
  | .waitw h _ _ _ _ _ => h
  | .wread h _ _ _ _ => h
  | .launch h _ _ _ => h
  | .launchw h _ _ => h
  | .postc h _ _ _ => h
  | .xdef h _ _ _ => h
  | .xread h _ _ => h
  | .talloc h _ _ _ _ => h
  | .tfree h _ => h
  | .tstat h _ _ _ => h
  | .tload h _ _ _ _ _ _ _ _ _ => h
  | .tstore h _ _ _ _ _ _ _ => h
  | .tloadb h _ _ _ _ _ _ _ => h
  | .tmcast h _ _ _ _ _ _ _ _ => h
  | .tbinit h _ _ _ => h
  | .arrive h _ _ _ => h
  | .expect h _ _ _ _ _ => h
  | .waitph h _ _ _ => h
  | .rsum h _ _ _ _ _ => h
  | .mma h _ _ => h
  | .mzero h _ _ _ => h
  | .mprom h _ _ _ => h
  | .mlda h _ _ _ _ _ _ => h
  | .mldb h _ _ _ _ _ _ => h
  | .msta h _ _ _ _ _ _ _ _ _ _ _ => h
  | .mread h _ _ _ _ => h
  | .mwrite h _ _ _ _ => h
  | .gate h _ _ _ => h
  | .retg h _ => h
  | .cpset h _ _ _ _ _ => h
  | .cpget h _ _ _ _ => h
  | .tlbinv h _ _ _ _ _ => h
  | .asidbind h _ _ _ _ _ _ => h
  | .ckpt h _ => h
  | .croll h _ _ _ _ => h
  | .halt h _ _ _ => h
  | .resume h _ _ _ => h
  | .yieldOverrun _ _ => Hdr.plain
  | .lineFetch _ _ _ _ _ => Hdr.plain
  | .checkpointPeriod _ => Hdr.plain
  | .blockPark _ => Hdr.plain
  | .checkpointCommit _ => Hdr.plain
  | .quantumEnd _ => Hdr.plain
  | .userInterruptDelivery _ _ => Hdr.plain
  | .vectoring _ _ => Hdr.plain
  | .activationEntry _ => Hdr.plain
  | .dispatch _ => Hdr.plain
  | .fenceMet _ => Hdr.plain
  | .blockEnd _ => Hdr.plain
  | .completionRecord _ => Hdr.plain
  | .landing _ _ _ => Hdr.plain
  | .mcastLanding _ _ _ _ => Hdr.plain
  | .shuttleCommandComplete _ _ _ => Hdr.plain
  | .mmaStart _ _ _ => Hdr.plain
  | .matrixCommandComplete _ _ _ => Hdr.plain
  | .fetchpgComplete _ _ => Hdr.plain
  | .fetchNoframe _ _ => Hdr.plain
  | .windowCommandComplete _ _ => Hdr.plain
  | .rsumPacket _ _ => Hdr.plain
  | .barrierArrival _ _ => Hdr.plain
  | .barrierRelease _ _ => Hdr.plain
  | .readRequest _ _ _ => Hdr.plain
  | .ownershipRequest _ _ _ => Hdr.plain
  | .writeRequest _ _ _ _ _ _ => Hdr.plain
  | .uncachedRead _ _ _ => Hdr.plain
  | .uncachedWrite _ _ _ _ _ _ => Hdr.plain
  | .farAtomic _ _ _ _ _ _ => Hdr.plain
  | .eviction _ _ _ => Hdr.plain
  | .cleanEvictionNotice _ _ _ => Hdr.plain
  | .cleanReleaseNotice _ _ _ => Hdr.plain
  | .recall _ _ _ _ => Hdr.plain
  | .invalidation _ _ _ => Hdr.plain
  | .peerProbe _ _ _ => Hdr.plain
  | .sharerNotice _ _ _ _ => Hdr.plain
  | .dataResponse _ _ _ => Hdr.plain
  | .placementEpoch _ => Hdr.plain
  | .migration _ _ _ => Hdr.plain
  | .marginLend _ _ _ _ => Hdr.plain
  | .revocation _ _ _ _ => Hdr.plain
  | .revocationOverrun _ _ _ _ => Hdr.plain
  | .hang _ => Hdr.plain
  | .pcSample _ _ => Hdr.plain
  | .faultHoldPoll _ => Hdr.plain
  | .heartbeatTimeout _ => Hdr.plain
  | .linkRetrain _ _ _ => Hdr.plain
  | .laneTraining _ _ _ => Hdr.plain
  | .memoryUncorrectable _ _ _ _ => Hdr.plain
  | .thermalLimit _ => Hdr.plain
  | .rdmaWrite _ => Hdr.plain
  | .rdmaWriteWithImmediate _ => Hdr.plain
  | .rdmaRead _ => Hdr.plain
  | .fetchAdd _ => Hdr.plain
  | .cmpSwap _ => Hdr.plain
  | .ack _ _ => Hdr.plain
  | .ackTimeout _ => Hdr.plain
  | .congestionNotification _ => Hdr.plain
  | .rateRecovery _ => Hdr.plain
  | .ptpMessage _ => Hdr.plain
  | .waitwTimeout _ _ => Hdr.plain
  | .napExpiry _ _ => Hdr.plain
  | .powerOn _ => Hdr.plain
  | .leadReachTimeout _ => Hdr.plain
  | .startTimeout => Hdr.plain
  | .warmReset _ => Hdr.plain
  | .partitionCreate _ _ _ _ => Hdr.plain
  | .partitionResize _ _ => Hdr.plain
  | .partitionDestroy _ => Hdr.plain
  | .operatorClearAttempts => Hdr.plain
  | .imageWrite _ _ _ => Hdr.plain
  | .fieldSelfTest _ _ => Hdr.plain
  | .operatorAttest _ => Hdr.plain
  | .operatorResume _ => Hdr.plain
  | .operatorAbort _ => Hdr.plain
  | .ctxNew _ _ _ _ _ => Hdr.plain
  | .ctxFree _ _ => Hdr.plain
  | .asidNew _ _ _ _ => Hdr.plain
  | .asidFree _ _ => Hdr.plain
  | .vfSet _ _ _ _ => Hdr.plain
  | .gateRsv _ _ _ => Hdr.plain
  | .shadowSet _ _ _ => Hdr.plain
  | .fstoreSet _ _ _ => Hdr.plain
  | .place _ _ _ _ => Hdr.plain
  | .qpNew _ _ _ _ _ _ _ => Hdr.plain
  | .qpFree _ _ => Hdr.plain
  | .winSet _ _ _ _ _ _ _ _ => Hdr.plain
  | .winFree _ _ => Hdr.plain
  | .attest _ _ _ => Hdr.plain
  | .traceSet _ _ _ _ _ => Hdr.plain
  | .ctrSet _ _ _ _ => Hdr.plain
  | .dbgSet _ _ _ _ _ => Hdr.plain
  | .logSet _ _ _ _ _ => Hdr.plain
  | .faultSet _ _ _ => Hdr.plain
  | .abort _ _ _ => Hdr.plain
  | .snapClose _ _ _ _ => Hdr.plain
  | .hangSet _ _ _ => Hdr.plain
  | .winQp _ _ _ => Hdr.plain
  | .waitingInstructionComplete _ _ => Hdr.plain
  | .powerLoss => Hdr.plain
  | .returnWithinLimit _ => Hdr.plain
  | .memoryChannelRetraining _ _ _ => Hdr.plain
  | .crossbarPortParityError _ _ _ => Hdr.plain
  | .rdmaReadResponse _ _ _ => Hdr.plain
  | .rnrNak _ => Hdr.plain
  | .pauseFrame _ _ _ => Hdr.plain

/-- The widths of the fields above the header, from bit 24 up, of each opcode: the formats of R76
to R78 with the MOD layouts of R97 to R99 and of each instruction. -/
def layout (op : Nat) : List Nat :=
  match op with
  | 0x000 | 0x009 | 0x00A | 0x00B | 0x00C | 0x00D | 0x010 | 0x040
  | 0x041 | 0x044 | 0x045 | 0x046 | 0x047 | 0x048 | 0x049 | 0x04A
  | 0x04B | 0x04C | 0x04D | 0x04E | 0x04F | 0x050 | 0x051 | 0x052
  | 0x053 | 0x054 | 0x055 | 0x056 | 0x057 | 0x058 | 0x059 | 0x060
  | 0x062 | 0x063 | 0x064 | 0x065 | 0x067 | 0x068 | 0x06B | 0x0C0
  | 0x0C1 | 0x0C2 | 0x0C3 | 0x0C4 | 0x0C5 | 0x0C6 | 0x0C7 | 0x0C8
  | 0x0CB | 0x0CC | 0x0CD | 0x0CE | 0x0CF | 0x0D0 | 0x0D1 | 0x0D2
  | 0x0D3 | 0x0D4 | 0x0D9 | 0x148 | 0x149 | 0x14A | 0x14B | 0x14C
  | 0x14D | 0x14E | 0x14F | 0x150 | 0x151 | 0x152 | 0x182 | 0x189
  | 0x301 => [8, 8, 8, 8, 3, 3, 1, 1, 1, 15, 16]
  | 0x001 => [6, 8, 8, 8, 6, 6, 8, 8, 8, 6]
  | 0x002 | 0x004 | 0x006 | 0x007 | 0x008 => [3, 1, 1, 3, 8, 24, 32]
  | 0x003 => [3, 1, 1, 3, 8, 1, 23, 32]
  | 0x005 => [3, 1, 1, 3, 8, 8, 16, 32]
  | 0x00E => [8, 8, 1, 4, 2, 17, 32]
  | 0x00F | 0x011 | 0x012 | 0x013 | 0x014 | 0x015 => [8, 8, 1, 23, 32]
  | 0x042 | 0x043 => [8, 8, 8, 8, 3, 3, 1, 1, 1, 3, 4, 8, 16]
  | 0x05A | 0x05B | 0x05C | 0x05D | 0x05E | 0x05F | 0x061 | 0x066
  | 0x06C | 0x06E | 0x140 | 0x141 | 0x142 | 0x143 | 0x146 | 0x183
  | 0x18A => [8, 8, 8, 8, 3, 3, 1, 1, 1, 1, 14, 16]
  | 0x069 | 0x06A | 0x0C9 | 0x0D5 => [8, 8, 8, 8, 3, 3, 1, 1, 1, 4, 11, 16]
  | 0x06D => [8, 8, 1, 4, 1, 18, 32]
  | 0x06F | 0x185 => [8, 8, 8, 8, 3, 3, 1, 1, 1, 3, 1, 11, 16]
  | 0x0CA | 0x181 => [8, 8, 8, 8, 3, 3, 1, 1, 1, 2, 13, 16]
  | 0x0D6 => [8, 8, 8, 8, 3, 3, 1, 1, 1, 4, 4, 7, 16]
  | 0x0D7 => [8, 8, 8, 8, 3, 3, 1, 1, 1, 4, 4, 3, 4, 16]
  | 0x0D8 => [8, 8, 8, 8, 3, 3, 1, 1, 1, 4, 4, 4, 3, 16]
  | 0x144 | 0x145 | 0x186 | 0x187 | 0x188 => [8, 8, 8, 8, 3, 3, 1, 1, 1, 1, 1, 13, 16]
  | 0x147 => [8, 8, 8, 8, 3, 3, 1, 1, 1, 1, 2, 12, 16]
  | 0x180 => [8, 8, 8, 8, 3, 3, 1, 1, 1, 2, 3, 4, 6, 16]
  | 0x184 => [8, 8, 8, 8, 3, 3, 1, 1, 1, 3, 12, 16]
  | 0x1C0 | 0x1C1 | 0x1C2 | 0x1C3 | 0x1C5 | 0x1C6 | 0x1C7 | 0x1CD
  | 0x1CE | 0x1CF | 0x1D0 | 0x1C4 => [8, 8, 8, 1, 1, 2, 2, 2, 3, 4, 1, 2, 6, 24]
  | 0x1C8 | 0x1C9 | 0x1CA | 0x1CB | 0x1CC => [8, 8, 8, 8, 3, 4, 2, 2, 3, 4, 2, 4, 16]
  | 0x240 => [8, 8, 8, 8, 1, 2, 1, 4, 32]
  | 0x241 | 0x242 | 0x289 | 0x28A | 0x28C | 0x2C6 | 0x2C7 | 0x306
  | 0x308 | 0x309 => [8, 8, 8, 8, 8, 32]
  | 0x243 => [8, 8, 8, 8, 8, 3, 29]
  | 0x244 | 0x247 => [8, 8, 8, 8, 1, 1, 1, 5, 10, 22]
  | 0x245 => [8, 8, 8, 8, 2, 1, 5, 10, 22]
  | 0x246 => [8, 8, 8, 8, 1, 1, 6, 10, 22]
  | 0x248 | 0x249 | 0x24A => [8, 8, 8, 8, 8, 10, 22]
  | 0x280 | 0x281 => [8, 8, 8, 8, 8, 8, 24]
  | 0x282 => [8, 8, 8, 8, 1, 2, 5, 6, 26]
  | 0x283 => [8, 8, 8, 8, 8, 6, 26]
  | 0x284 => [8, 8, 8, 8, 8, 8, 3, 21]
  | 0x285 => [8, 8, 8, 8, 1, 2, 5, 6, 2, 8, 6, 2, 2, 6]
  | 0x286 => [8, 8, 8, 8, 1, 1, 6, 6, 2, 8, 6, 2, 2, 6]
  | 0x287 | 0x288 => [8, 8, 8, 8, 1, 7, 6, 2, 8, 6, 2, 2, 6]
  | 0x28B | 0x304 | 0x307 => [8, 8, 8, 8, 1, 1, 6, 32]
  | 0x28D => [8, 8, 8, 8, 8, 6, 2, 6, 18]
  | 0x2C0 => [8, 8, 24, 32]
  | 0x2C1 | 0x2C2 => [8, 8, 8, 8, 8, 24, 1, 7]
  | 0x2C3 | 0x2C4 => [8, 8, 8, 8, 1, 1, 6, 6, 2, 6, 2, 2, 6, 1, 7]
  | 0x2C5 => [8, 8, 8, 8, 1, 3, 1, 1, 2, 6, 2, 6, 2, 4, 4, 1, 7]
  | 0x300 => [8, 8, 1, 23, 8, 5, 3, 5, 11]
  | 0x302 | 0x303 => [8, 8, 8, 8, 8, 2, 2, 28]
  | 0x305 => [8, 8, 8, 8, 1, 1, 1, 5, 2, 30]
  | _ => []

/-- The format R93 assigns to each opcode; 7, which is never assigned, where there is none. -/
def fmtOf (op : Nat) : Nat :=
  match op with
  | 0x000 | 0x009 | 0x00A | 0x00B | 0x00C | 0x00D | 0x010 | 0x040
  | 0x041 | 0x042 | 0x043 | 0x044 | 0x045 | 0x046 | 0x047 | 0x048
  | 0x049 | 0x04A | 0x04B | 0x04C | 0x04D | 0x04E | 0x04F | 0x050
  | 0x051 | 0x052 | 0x053 | 0x054 | 0x055 | 0x056 | 0x057 | 0x058
  | 0x059 | 0x05A | 0x05B | 0x05C | 0x05D | 0x05E | 0x05F | 0x060
  | 0x061 | 0x062 | 0x063 | 0x064 | 0x065 | 0x066 | 0x067 | 0x068
  | 0x069 | 0x06A | 0x06B | 0x06C | 0x06E | 0x06F | 0x0C0 | 0x0C1
  | 0x0C2 | 0x0C3 | 0x0C4 | 0x0C5 | 0x0C6 | 0x0C7 | 0x0C8 | 0x0C9
  | 0x0CA | 0x0CB | 0x0CC | 0x0CD | 0x0CE | 0x0CF | 0x0D0 | 0x0D1
  | 0x0D2 | 0x0D3 | 0x0D4 | 0x0D5 | 0x0D6 | 0x0D7 | 0x0D8 | 0x0D9
  | 0x140 | 0x141 | 0x142 | 0x143 | 0x144 | 0x145 | 0x146 | 0x147
  | 0x148 | 0x149 | 0x14A | 0x14B | 0x14C | 0x14D | 0x14E | 0x14F
  | 0x150 | 0x151 | 0x152 | 0x180 | 0x181 | 0x182 | 0x183 | 0x184
  | 0x185 | 0x186 | 0x187 | 0x188 | 0x189 | 0x18A | 0x1C8 | 0x1C9
  | 0x1CA | 0x1CB | 0x1CC | 0x301 => 0
  | 0x00E | 0x00F | 0x011 | 0x012 | 0x013 | 0x014 | 0x015 | 0x06D
  | 0x300 => 1
  | 0x1C0 | 0x1C1 | 0x1C2 | 0x1C3 | 0x1C5 | 0x1C6 | 0x1C7 | 0x1CD
  | 0x1CE | 0x1CF | 0x1D0 | 0x1C4 => 2
  | 0x002 | 0x003 | 0x004 | 0x005 | 0x006 | 0x007 | 0x008 => 3
  | 0x001 => 4
  | 0x240 | 0x241 | 0x242 | 0x243 | 0x244 | 0x245 | 0x246 | 0x247
  | 0x248 | 0x249 | 0x24A | 0x280 | 0x281 | 0x282 | 0x283 | 0x284
  | 0x285 | 0x286 | 0x287 | 0x288 | 0x289 | 0x28A | 0x28B | 0x28C
  | 0x28D | 0x2C1 | 0x2C2 | 0x2C3 | 0x2C4 | 0x2C5 | 0x2C6 | 0x2C7
  | 0x302 | 0x303 | 0x304 | 0x305 | 0x306 | 0x307 | 0x308 | 0x309 => 5
  | 0x2C0 => 6
  | _ => 7

/-- The values of the fields above the header, in the order of `layout`. -/
def Instr.vals : Instr → List Nat
  | .nop _ => [0xFF, 0xFF, 0xFF, 0xFF, 0, 0, 0, 0, 0, 0, 0]
  | .pair _ s0 s1 =>
    [s0.sop.code, s0.d.toNat, s0.a.toNat, s0.bCode, s0.smod.toNat, s1.sop.code, s1.d.toNat,
     s1.a.toNat, s1.bCode, s1.smod.toNat]
  | .bra _ f => [f.j.toNat, f.enr.toNat, f.uni.toNat, 0, f.a.code, 0, f.disp.toNat]
  | .brx _ rel f => [f.j.toNat, f.enr.toNat, f.uni.toNat, 0, f.a.code, rel.toNat, 0, f.disp.toNat]
  | .call _ f => [f.j.toNat, f.enr.toNat, f.uni.toNat, 0, f.a.code, 0, f.disp.toNat]
  | .callx _ link f =>
    [f.j.toNat, f.enr.toNat, f.uni.toNat, 0, f.a.code, link.code, 0, f.disp.toNat]
  | .ret _ a => [0, 0, 0, 0, a.code, 0, 0]
  | .enrol _ j => [j.toNat, 0, 0, 0, 0xFF, 0, 0]
  | .join _ j => [j.toNat, 0, 0, 0, 0xFF, 0, 0]
  | .yield _ e n => [0xFF, 0xFF, 0xFF, 0xFF, e.toNat, 0, 0, 0, 0, 0, n.toNat]
  | .exit _ e => [0xFF, 0xFF, 0xFF, 0xFF, e.toNat, 0, 0, 0, 0, 0, 0]
  | .bar _ e => [0xFF, 0xFF, 0xFF, 0xFF, e.toNat, 0, 0, 0, 0, 0, 0]
  | .barg _ e => [0xFF, 0xFF, 0xFF, 0xFF, e.toNat, 0, 0, 0, 0, 0, 0]
  | .barw _ e => [0xFF, 0xFF, 0xFF, 0xFF, e.toNat, 0, 0, 0, 0, 0, 0]
  | .waittl _ tc a e scope imm =>
    [(0xE8 + tc.toNat), a.code, e.toNat, 0, scope.code, 0, imm.toNat]
  | .nap _ a e imm => [0xFF, a.code, e.toNat, 0, imm.toNat]
  | .retu _ e => [0xFF, 0xFF, 0xFF, 0xFF, e.toNat, 0, 0, 0, 0, 0, 0]
  | .umask _ e v => [0xFF, 0xFF, e.toNat, 0, v.toNat]
  | .sread _ d e r => [d.code, 0xFF, e.toNat, 0, r.code]
  | .swrite _ a e r => [0xFF, a.code, e.toNat, 0, r.code]
  | .trap _ e code => [0xFF, 0xFF, e.toNat, 0, code.toNat]
  | .bkpt _ e code => [0xFF, 0xFF, e.toNat, 0, code.toNat]
  | .iadd _ f =>
    [f.d.code, f.a.code, f.b.code, f.c.code, f.e.toNat, 0, 0, 0, f.ib.toNat, 0, f.imm.toNat]
  | .isub _ f =>
    [f.d.code, f.a.code, f.b.code, f.c.code, f.e.toNat, 0, 0, 0, f.ib.toNat, 0, f.imm.toNat]
  | .iaddc _ co f =>
    [f.d.code, f.a.code, f.b.code, f.c.code, f.e.toNat, 0, 0, 0, f.ib.toNat, 0, co.toNat, 0,
     f.imm.toNat]
  | .isubb _ co f =>
    [f.d.code, f.a.code, f.b.code, f.c.code, f.e.toNat, 0, 0, 0, f.ib.toNat, 0, co.toNat, 0,
     f.imm.toNat]
  | .imul _ f =>
    [f.d.code, f.a.code, f.b.code, f.c.code, f.e.toNat, 0, 0, 0, f.ib.toNat, 0, f.imm.toNat]
  | .imulh _ f =>
    [f.d.code, f.a.code, f.b.code, f.c.code, f.e.toNat, 0, 0, 0, f.ib.toNat, 0, f.imm.toNat]
  | .imulhu _ f =>
    [f.d.code, f.a.code, f.b.code, f.c.code, f.e.toNat, 0, 0, 0, f.ib.toNat, 0, f.imm.toNat]
  | .imad _ f =>
    [f.d.code, f.a.code, f.b.code, f.c.code, f.e.toNat, 0, 0, 0, f.ib.toNat, 0, f.imm.toNat]
  | .iadd64 _ f =>
    [f.d.code, f.a.code, f.b.code, f.c.code, f.e.toNat, 0, 0, 0, f.ib.toNat, 0, f.imm.toNat]
  | .isub64 _ f =>
    [f.d.code, f.a.code, f.b.code, f.c.code, f.e.toNat, 0, 0, 0, f.ib.toNat, 0, f.imm.toNat]
  | .imul64 _ f =>
    [f.d.code, f.a.code, f.b.code, f.c.code, f.e.toNat, 0, 0, 0, f.ib.toNat, 0, f.imm.toNat]
  | .idivu _ f =>
    [f.d.code, f.a.code, f.b.code, f.c.code, f.e.toNat, 0, 0, 0, f.ib.toNat, 0, f.imm.toNat]
  | .idivs _ f =>
    [f.d.code, f.a.code, f.b.code, f.c.code, f.e.toNat, 0, 0, 0, f.ib.toNat, 0, f.imm.toNat]
  | .iremu _ f =>
    [f.d.code, f.a.code, f.b.code, f.c.code, f.e.toNat, 0, 0, 0, f.ib.toNat, 0, f.imm.toNat]
  | .irems _ f =>
    [f.d.code, f.a.code, f.b.code, f.c.code, f.e.toNat, 0, 0, 0, f.ib.toNat, 0, f.imm.toNat]
  | .imin _ f =>
    [f.d.code, f.a.code, f.b.code, f.c.code, f.e.toNat, 0, 0, 0, f.ib.toNat, 0, f.imm.toNat]
  | .imax _ f =>
    [f.d.code, f.a.code, f.b.code, f.c.code, f.e.toNat, 0, 0, 0, f.ib.toNat, 0, f.imm.toNat]
  | .iminu _ f =>
    [f.d.code, f.a.code, f.b.code, f.c.code, f.e.toNat, 0, 0, 0, f.ib.toNat, 0, f.imm.toNat]
  | .imaxu _ f =>
    [f.d.code, f.a.code, f.b.code, f.c.code, f.e.toNat, 0, 0, 0, f.ib.toNat, 0, f.imm.toNat]
  | .iabs _ f =>
    [f.d.code, f.a.code, f.b.code, f.c.code, f.e.toNat, 0, 0, 0, f.ib.toNat, 0, f.imm.toNat]
  | .ineg _ f =>
    [f.d.code, f.a.code, f.b.code, f.c.code, f.e.toNat, 0, 0, 0, f.ib.toNat, 0, f.imm.toNat]
  | .and _ f =>
    [f.d.code, f.a.code, f.b.code, f.c.code, f.e.toNat, 0, 0, 0, f.ib.toNat, 0, f.imm.toNat]
  | .or _ f =>
    [f.d.code, f.a.code, f.b.code, f.c.code, f.e.toNat, 0, 0, 0, f.ib.toNat, 0, f.imm.toNat]
  | .xor _ f =>
    [f.d.code, f.a.code, f.b.code, f.c.code, f.e.toNat, 0, 0, 0, f.ib.toNat, 0, f.imm.toNat]
  | .not _ f =>
    [f.d.code, f.a.code, f.b.code, f.c.code, f.e.toNat, 0, 0, 0, f.ib.toNat, 0, f.imm.toNat]
  | .andn _ f =>
    [f.d.code, f.a.code, f.b.code, f.c.code, f.e.toNat, 0, 0, 0, f.ib.toNat, 0, f.imm.toNat]
  | .shl _ wrap f =>
    [f.d.code, f.a.code, f.b.code, f.c.code, f.e.toNat, 0, 0, 0, f.ib.toNat, wrap.toNat, 0,
     f.imm.toNat]
  | .shr _ wrap f =>
    [f.d.code, f.a.code, f.b.code, f.c.code, f.e.toNat, 0, 0, 0, f.ib.toNat, wrap.toNat, 0,
     f.imm.toNat]
  | .sar _ wrap f =>
    [f.d.code, f.a.code, f.b.code, f.c.code, f.e.toNat, 0, 0, 0, f.ib.toNat, wrap.toNat, 0,
     f.imm.toNat]
  | .shl64 _ wrap f =>
    [f.d.code, f.a.code, f.b.code, f.c.code, f.e.toNat, 0, 0, 0, f.ib.toNat, wrap.toNat, 0,
     f.imm.toNat]
  | .shr64 _ wrap f =>
    [f.d.code, f.a.code, f.b.code, f.c.code, f.e.toNat, 0, 0, 0, f.ib.toNat, wrap.toNat, 0,
     f.imm.toNat]
  | .sar64 _ wrap f =>
    [f.d.code, f.a.code, f.b.code, f.c.code, f.e.toNat, 0, 0, 0, f.ib.toNat, wrap.toNat, 0,
     f.imm.toNat]
  | .rotl _ f =>
    [f.d.code, f.a.code, f.b.code, f.c.code, f.e.toNat, 0, 0, 0, f.ib.toNat, 0, f.imm.toNat]
  | .funnel _ left f =>
    [f.d.code, f.a.code, f.b.code, f.c.code, f.e.toNat, 0, 0, 0, f.ib.toNat, left.toNat, 0,
     f.imm.toNat]
  | .popc _ f =>
    [f.d.code, f.a.code, f.b.code, f.c.code, f.e.toNat, 0, 0, 0, f.ib.toNat, 0, f.imm.toNat]
  | .clz _ f =>
    [f.d.code, f.a.code, f.b.code, f.c.code, f.e.toNat, 0, 0, 0, f.ib.toNat, 0, f.imm.toNat]
  | .ctz _ f =>
    [f.d.code, f.a.code, f.b.code, f.c.code, f.e.toNat, 0, 0, 0, f.ib.toNat, 0, f.imm.toNat]
  | .brev _ f =>
    [f.d.code, f.a.code, f.b.code, f.c.code, f.e.toNat, 0, 0, 0, f.ib.toNat, 0, f.imm.toNat]
  | .bfe _ sgn f =>
    [f.d.code, f.a.code, f.b.code, f.c.code, f.e.toNat, 0, 0, 0, f.ib.toNat, sgn.toNat, 0,
     f.imm.toNat]
  | .bfi _ f =>
    [f.d.code, f.a.code, f.b.code, f.c.code, f.e.toNat, 0, 0, 0, f.ib.toNat, 0, f.imm.toNat]
  | .bysel _ f =>
    [f.d.code, f.a.code, f.b.code, f.c.code, f.e.toNat, 0, 0, 0, f.ib.toNat, 0, f.imm.toNat]
  | .iset _ cmp f =>
    [f.d.code, f.a.code, f.b.code, f.c.code, f.e.toNat, 0, 0, 0, f.ib.toNat, cmp.code, 0,
     f.imm.toNat]
  | .iset64 _ cmp f =>
    [f.d.code, f.a.code, f.b.code, f.c.code, f.e.toNat, 0, 0, 0, f.ib.toNat, cmp.code, 0,
     f.imm.toNat]
  | .isel _ f =>
    [f.d.code, f.a.code, f.b.code, f.c.code, f.e.toNat, 0, 0, 0, f.ib.toNat, 0, f.imm.toNat]
  | .mov _ w64 f =>
    [f.d.code, f.a.code, f.b.code, f.c.code, f.e.toNat, 0, 0, 0, f.ib.toNat, w64.toNat, 0,
     f.imm.toNat]
  | .movi _ w64 d imm => [d.code, 0xFF, 0, 0, w64.toNat, 0, imm.toNat]
  | .movs _ w64 f =>
    [f.d.code, f.a.code, f.b.code, f.c.code, f.e.toNat, 0, 0, 0, f.ib.toNat, w64.toNat, 0,
     f.imm.toNat]
  | .lea _ scale iu f =>
    [f.d.code, f.a.code, f.b.code, f.c.code, f.e.toNat, 0, 0, 0, f.ib.toNat, scale.toNat,
     iu.toNat, 0, f.imm.toNat]
  | .fadd _ r f =>
    [f.d.code, f.a.code, f.b.code, f.c.code, f.e.toNat, r.rm.code, r.sat.toNat, r.ftz.toNat,
     f.ib.toNat, 0, f.imm.toNat]
  | .fsub _ r f =>
    [f.d.code, f.a.code, f.b.code, f.c.code, f.e.toNat, r.rm.code, r.sat.toNat, r.ftz.toNat,
     f.ib.toNat, 0, f.imm.toNat]
  | .fmul _ r f =>
    [f.d.code, f.a.code, f.b.code, f.c.code, f.e.toNat, r.rm.code, r.sat.toNat, r.ftz.toNat,
     f.ib.toNat, 0, f.imm.toNat]
  | .ffma _ r f =>
    [f.d.code, f.a.code, f.b.code, f.c.code, f.e.toNat, r.rm.code, r.sat.toNat, r.ftz.toNat,
     f.ib.toNat, 0, f.imm.toNat]
  | .fmin _ ftz f =>
    [f.d.code, f.a.code, f.b.code, f.c.code, f.e.toNat, 0, 0, ftz.toNat, f.ib.toNat, 0,
     f.imm.toNat]
  | .fmax _ ftz f =>
    [f.d.code, f.a.code, f.b.code, f.c.code, f.e.toNat, 0, 0, ftz.toNat, f.ib.toNat, 0,
     f.imm.toNat]
  | .fabs _ ftz f =>
    [f.d.code, f.a.code, f.b.code, f.c.code, f.e.toNat, 0, 0, ftz.toNat, f.ib.toNat, 0,
     f.imm.toNat]
  | .fneg _ ftz f =>
    [f.d.code, f.a.code, f.b.code, f.c.code, f.e.toNat, 0, 0, ftz.toNat, f.ib.toNat, 0,
     f.imm.toNat]
  | .fcopys _ ftz f =>
    [f.d.code, f.a.code, f.b.code, f.c.code, f.e.toNat, 0, 0, ftz.toNat, f.ib.toNat, 0,
     f.imm.toNat]
  | .fset _ cmp ftz f =>
    [f.d.code, f.a.code, f.b.code, f.c.code, f.e.toNat, 0, 0, ftz.toNat, f.ib.toNat, cmp.code,
     0, f.imm.toNat]
  | .fclass _ cf f =>
    [f.d.code, f.a.code, f.b.code, f.c.code, f.e.toNat, 0, 0, 0, f.ib.toNat, cf.code, 0,
     f.imm.toNat]
  | .fdiv _ r f =>
    [f.d.code, f.a.code, f.b.code, f.c.code, f.e.toNat, r.rm.code, r.sat.toNat, r.ftz.toNat,
     f.ib.toNat, 0, f.imm.toNat]
  | .hadd2 _ r f =>
    [f.d.code, f.a.code, f.b.code, f.c.code, f.e.toNat, r.rm.code, r.sat.toNat, r.ftz.toNat,
     f.ib.toNat, 0, f.imm.toNat]
  | .hmul2 _ r f =>
    [f.d.code, f.a.code, f.b.code, f.c.code, f.e.toNat, r.rm.code, r.sat.toNat, r.ftz.toNat,
     f.ib.toNat, 0, f.imm.toNat]
  | .hfma2 _ r f =>
    [f.d.code, f.a.code, f.b.code, f.c.code, f.e.toNat, r.rm.code, r.sat.toNat, r.ftz.toNat,
     f.ib.toNat, 0, f.imm.toNat]
  | .badd2 _ r f =>
    [f.d.code, f.a.code, f.b.code, f.c.code, f.e.toNat, r.rm.code, r.sat.toNat, r.ftz.toNat,
     f.ib.toNat, 0, f.imm.toNat]
  | .bmul2 _ r f =>
    [f.d.code, f.a.code, f.b.code, f.c.code, f.e.toNat, r.rm.code, r.sat.toNat, r.ftz.toNat,
     f.ib.toNat, 0, f.imm.toNat]
  | .bfma2 _ r f =>
    [f.d.code, f.a.code, f.b.code, f.c.code, f.e.toNat, r.rm.code, r.sat.toNat, r.ftz.toNat,
     f.ib.toNat, 0, f.imm.toNat]
  | .dadd _ r f =>
    [f.d.code, f.a.code, f.b.code, f.c.code, f.e.toNat, r.rm.code, r.sat.toNat, r.ftz.toNat,
     f.ib.toNat, 0, f.imm.toNat]
  | .dmul _ r f =>
    [f.d.code, f.a.code, f.b.code, f.c.code, f.e.toNat, r.rm.code, r.sat.toNat, r.ftz.toNat,
     f.ib.toNat, 0, f.imm.toNat]
  | .dfma _ r f =>
    [f.d.code, f.a.code, f.b.code, f.c.code, f.e.toNat, r.rm.code, r.sat.toNat, r.ftz.toNat,
     f.ib.toNat, 0, f.imm.toNat]
  | .dset _ cmp f =>
    [f.d.code, f.a.code, f.b.code, f.c.code, f.e.toNat, 0, 0, 0, f.ib.toNat, cmp.code, 0,
     f.imm.toNat]
  | .cvt _ r df sf f =>
    [f.d.code, f.a.code, f.b.code, f.c.code, f.e.toNat, r.rm.code, r.sat.toNat, r.ftz.toNat,
     f.ib.toNat, sf.code, df.code, 0, f.imm.toNat]
  | .cvtpk _ r df src k f =>
    [f.d.code, f.a.code, f.b.code, f.c.code, f.e.toNat, r.rm.code, r.sat.toNat, r.ftz.toNat,
     f.ib.toNat, src.code, df.code, k.toNat, 0, f.imm.toNat]
  | .cvtupk _ df sf i f =>
    [f.d.code, f.a.code, f.b.code, f.c.code, f.e.toNat, 0, 0, 0, f.ib.toNat, sf.code, df.code,
     i.toNat, 0, f.imm.toNat]
  | .rndi _ r f =>
    [f.d.code, f.a.code, f.b.code, f.c.code, f.e.toNat, r.rm.code, r.sat.toNat, r.ftz.toNat,
     f.ib.toNat, 0, f.imm.toNat]
  | .q8add _ r e5m2 f =>
    [f.d.code, f.a.code, f.b.code, f.c.code, f.e.toNat, r.rm.code, r.sat.toNat, r.ftz.toNat,
     f.ib.toNat, e5m2.toNat, 0, f.imm.toNat]
  | .q8mul _ r e5m2 f =>
    [f.d.code, f.a.code, f.b.code, f.c.code, f.e.toNat, r.rm.code, r.sat.toNat, r.ftz.toNat,
     f.ib.toNat, e5m2.toNat, 0, f.imm.toNat]
  | .q8min _ r e5m2 f =>
    [f.d.code, f.a.code, f.b.code, f.c.code, f.e.toNat, r.rm.code, r.sat.toNat, r.ftz.toNat,
     f.ib.toNat, e5m2.toNat, 0, f.imm.toNat]
  | .q8max _ r e5m2 f =>
    [f.d.code, f.a.code, f.b.code, f.c.code, f.e.toNat, r.rm.code, r.sat.toNat, r.ftz.toNat,
     f.ib.toNat, e5m2.toNat, 0, f.imm.toNat]
  | .idp4 _ ua ub f =>
    [f.d.code, f.a.code, f.b.code, f.c.code, f.e.toNat, 0, 0, 0, f.ib.toNat, ua.toNat, ub.toNat,
     0, f.imm.toNat]
  | .fdp4 _ r a5 b5 f =>
    [f.d.code, f.a.code, f.b.code, f.c.code, f.e.toNat, r.rm.code, r.sat.toNat, r.ftz.toNat,
     f.ib.toNat, a5.toNat, b5.toNat, 0, f.imm.toNat]
  | .fdp2 _ r f16 f =>
    [f.d.code, f.a.code, f.b.code, f.c.code, f.e.toNat, r.rm.code, r.sat.toNat, r.ftz.toNat,
     f.ib.toNat, f16.toNat, 0, f.imm.toNat]
  | .scalex _ r e8m2 i f =>
    [f.d.code, f.a.code, f.b.code, f.c.code, f.e.toNat, r.rm.code, r.sat.toNat, r.ftz.toNat,
     f.ib.toNat, e8m2.toNat, i.toNat, 0, f.imm.toNat]
  | .rcp _ f =>
    [f.d.code, f.a.code, f.b.code, f.c.code, f.e.toNat, 0, 0, 0, f.ib.toNat, 0, f.imm.toNat]
  | .rsq _ f =>
    [f.d.code, f.a.code, f.b.code, f.c.code, f.e.toNat, 0, 0, 0, f.ib.toNat, 0, f.imm.toNat]
  | .sqrt _ f =>
    [f.d.code, f.a.code, f.b.code, f.c.code, f.e.toNat, 0, 0, 0, f.ib.toNat, 0, f.imm.toNat]
  | .exp2 _ f =>
    [f.d.code, f.a.code, f.b.code, f.c.code, f.e.toNat, 0, 0, 0, f.ib.toNat, 0, f.imm.toNat]
  | .log2 _ f =>
    [f.d.code, f.a.code, f.b.code, f.c.code, f.e.toNat, 0, 0, 0, f.ib.toNat, 0, f.imm.toNat]
  | .exp _ f =>
    [f.d.code, f.a.code, f.b.code, f.c.code, f.e.toNat, 0, 0, 0, f.ib.toNat, 0, f.imm.toNat]
  | .log _ f =>
    [f.d.code, f.a.code, f.b.code, f.c.code, f.e.toNat, 0, 0, 0, f.ib.toNat, 0, f.imm.toNat]
  | .sinpi _ f =>
    [f.d.code, f.a.code, f.b.code, f.c.code, f.e.toNat, 0, 0, 0, f.ib.toNat, 0, f.imm.toNat]
  | .cospi _ f =>
    [f.d.code, f.a.code, f.b.code, f.c.code, f.e.toNat, 0, 0, 0, f.ib.toNat, 0, f.imm.toNat]
  | .tanh _ f =>
    [f.d.code, f.a.code, f.b.code, f.c.code, f.e.toNat, 0, 0, 0, f.ib.toNat, 0, f.imm.toNat]
  | .sigm _ f =>
    [f.d.code, f.a.code, f.b.code, f.c.code, f.e.toNat, 0, 0, 0, f.ib.toNat, 0, f.imm.toNat]
  | .shfl _ mode wid pv f =>
    [f.d.code, f.a.code, f.b.code, f.c.code, f.e.toNat, 0, 0, 0, f.ib.toNat, mode.code,
     wid.toNat, pv.toNat, 0, f.imm.toNat]
  | .vote _ mode f =>
    [f.d.code, f.a.code, f.b.code, f.c.code, f.e.toNat, 0, 0, 0, f.ib.toNat, mode.code, 0,
     f.imm.toNat]
  | .ballot _ f =>
    [f.d.code, f.a.code, f.b.code, f.c.code, f.e.toNat, 0, 0, 0, f.ib.toNat, 0, f.imm.toNat]
  | .matchL _ w64 f =>
    [f.d.code, f.a.code, f.b.code, f.c.code, f.e.toNat, 0, 0, 0, f.ib.toNat, w64.toNat, 0,
     f.imm.toNat]
  | .redux _ rop f =>
    [f.d.code, f.a.code, f.b.code, f.c.code, f.e.toNat, 0, 0, 0, f.ib.toNat, rop.code, 0,
     f.imm.toNat]
  | .scan _ rop excl f =>
    [f.d.code, f.a.code, f.b.code, f.c.code, f.e.toNat, 0, 0, 0, f.ib.toNat, rop.code,
     excl.toNat, 0, f.imm.toNat]
  | .pand _ na nb f =>
    [f.d.code, f.a.code, f.b.code, f.c.code, f.e.toNat, 0, 0, 0, f.ib.toNat, na.toNat, nb.toNat,
     0, f.imm.toNat]
  | .por _ na nb f =>
    [f.d.code, f.a.code, f.b.code, f.c.code, f.e.toNat, 0, 0, 0, f.ib.toNat, na.toNat, nb.toNat,
     0, f.imm.toNat]
  | .pxor _ na nb f =>
    [f.d.code, f.a.code, f.b.code, f.c.code, f.e.toNat, 0, 0, 0, f.ib.toNat, na.toNat, nb.toNat,
     0, f.imm.toNat]
  | .pnot _ f =>
    [f.d.code, f.a.code, f.b.code, f.c.code, f.e.toNat, 0, 0, 0, f.ib.toNat, 0, f.imm.toNat]
  | .pmov _ dir f =>
    [f.d.code, f.a.code, f.b.code, f.c.code, f.e.toNat, 0, 0, 0, f.ib.toNat, dir.toNat, 0,
     f.imm.toNat]
  | .ld _ d f =>
    [d.code, f.a.code, f.b.code, f.ea.toNat, f.ed.toNat, f.ty.toNat, f.scope.code, f.order.code,
     f.size.toNat, f.resp.toNat, 0, f.hint.code, 0, f.off.toNat]
  | .st _ d f =>
    [d.code, f.a.code, f.b.code, f.ea.toNat, f.ed.toNat, f.ty.toNat, f.scope.code, f.order.code,
     f.size.toNat, f.resp.toNat, 0, f.hint.code, 0, f.off.toNat]
  | .lds _ d f =>
    [d.code, f.a.code, f.b.code, f.ea.toNat, f.ed.toNat, f.ty.toNat, f.scope.code, f.order.code,
     f.size.toNat, f.resp.toNat, 0, f.hint.code, 0, f.off.toNat]
  | .sts _ d f =>
    [d.code, f.a.code, f.b.code, f.ea.toNat, f.ed.toNat, f.ty.toNat, f.scope.code, f.order.code,
     f.size.toNat, f.resp.toNat, 0, f.hint.code, 0, f.off.toNat]
  | .ldq _ qn f =>
    [qn.toNat, f.a.code, f.b.code, f.ea.toNat, f.ed.toNat, f.ty.toNat, f.scope.code,
     f.order.code, f.size.toNat, f.resp.toNat, 0, f.hint.code, 0, f.off.toNat]
  | .pref _ d f =>
    [d.code, f.a.code, f.b.code, f.ea.toNat, f.ed.toNat, f.ty.toNat, f.scope.code, f.order.code,
     f.size.toNat, f.resp.toNat, 0, f.hint.code, 0, f.off.toNat]
  | .reside _ d f =>
    [d.code, f.a.code, f.b.code, f.ea.toNat, f.ed.toNat, f.ty.toNat, f.scope.code, f.order.code,
     f.size.toNat, f.resp.toNat, 0, f.hint.code, 0, f.off.toNat]
  | .fetchpg _ d f =>
    [d.code, f.a.code, f.b.code, f.ea.toNat, f.ed.toNat, f.ty.toNat, f.scope.code, f.order.code,
     f.size.toNat, f.resp.toNat, 0, f.hint.code, 0, f.off.toNat]
  | .atom _ aop f =>
    [f.d.code, f.a.code, f.b.code, f.c.code, f.e.toNat, aop.code, f.scope.code, f.order.code,
     f.size.toNat, f.resp.toNat, f.hint.code, 0, f.imm.toNat]
  | .atoms _ aop f =>
    [f.d.code, f.a.code, f.b.code, f.c.code, f.e.toNat, aop.code, f.scope.code, f.order.code,
     f.size.toNat, f.resp.toNat, f.hint.code, 0, f.imm.toNat]
  | .cas _ f =>
    [f.d.code, f.a.code, f.b.code, f.c.code, f.e.toNat, 0, f.scope.code, f.order.code,
     f.size.toNat, f.resp.toNat, f.hint.code, 0, f.imm.toNat]
  | .cas128 _ f =>
    [f.d.code, f.a.code, f.b.code, f.c.code, f.e.toNat, 0, f.scope.code, f.order.code,
     f.size.toNat, f.resp.toNat, f.hint.code, 0, f.imm.toNat]
  | .red _ aop f =>
    [f.d.code, f.a.code, f.b.code, f.c.code, f.e.toNat, aop.code, f.scope.code, f.order.code,
     f.size.toNat, f.resp.toNat, f.hint.code, 0, f.imm.toNat]
  | .fence _ d f =>
    [d.code, f.a.code, f.b.code, f.ea.toNat, f.ed.toNat, f.ty.toNat, f.scope.code, f.order.code,
     f.size.toNat, f.resp.toNat, 0, f.hint.code, 0, f.off.toNat]
  | .qfence _ d f =>
    [d.code, f.a.code, f.b.code, f.ea.toNat, f.ed.toNat, f.ty.toNat, f.scope.code, f.order.code,
     f.size.toNat, f.resp.toNat, 0, f.hint.code, 0, f.off.toNat]
  | .cinv _ d f =>
    [d.code, f.a.code, f.b.code, f.ea.toNat, f.ed.toNat, f.ty.toNat, f.scope.code, f.order.code,
     f.size.toNat, f.resp.toNat, 0, f.hint.code, 0, f.off.toNat]
  | .cwb _ d f =>
    [d.code, f.a.code, f.b.code, f.ea.toNat, f.ed.toNat, f.ty.toNat, f.scope.code, f.order.code,
     f.size.toNat, f.resp.toNat, 0, f.hint.code, 0, f.off.toNat]
  | .snap _ scope add d a b => [d.code, a.code, b.code, 0xFF, 0, scope.code, add.toNat, 0, 0]
  | .accept _ d a imm => [d.code, a.code, 0xFF, 0xFF, 0, imm.toNat]
  | .reject _ d a imm => [d.code, a.code, 0xFF, 0xFF, 0, imm.toNat]
  | .snapq _ d sel => [d.code, 0xFF, 0xFF, 0xFF, 0, sel.toNat, 0]
  | .put _ sig ord d a b c w =>
    [d.code, a.code, b.code, c.code, 0, sig.toNat, ord.toNat, 0, w.toNat, 0]
  | .get _ ord d a b c w => [d.code, a.code, b.code, c.code, 0, ord.toNat, 0, w.toNat, 0]
  | .waitw _ sent d a b w => [d.code, a.code, b.code, 0xFF, 0, sent.toNat, 0, w.toNat, 0]
  | .wread _ sent acq d w => [d.code, 0xFF, 0xFF, 0xFF, 0, sent.toNat, acq.toNat, 0, w.toNat, 0]
  | .launch _ d a w => [d.code, a.code, 0xFF, 0xFF, 0, w.toNat, 0]
  | .launchw _ d w => [d.code, 0xFF, 0xFF, 0xFF, 0, w.toNat, 0]
  | .postc _ d a w => [d.code, a.code, 0xFF, 0xFF, 0, w.toNat, 0]
  | .xdef _ d a x => [d.code, a.code, 0xFF, 0xFF, 0, x.toNat, 0]
  | .xread _ a x => [0xFF, a.code, 0xFF, 0xFF, 0, x.toNat, 0]
  | .talloc _ mode a b t => [0xFF, a.code, b.code, 0xFF, 0, mode.code, 0, t.toNat, 0]
  | .tfree _ t => [0xFF, 0xFF, 0xFF, 0xFF, 0, t.toNat, 0]
  | .tstat _ d sel obj => [d.code, 0xFF, 0xFF, 0xFF, 0, obj.toNat, sel.toNat, 0]
  | .tload _ nt mode d a c t x idx ctx =>
    [d.code, a.code, 0xFF, c.code, nt.toNat, mode.code, 0, t.toNat, 0, x.toNat, idx.toNat, 0,
     ctx.toNat, 0]
  | .tstore _ nt keep d a t x ctx =>
    [d.code, a.code, 0xFF, 0xFF, nt.toNat, keep.toNat, 0, t.toNat, 0, x.toNat, 0, 0, ctx.toNat, 0]
  | .tloadb _ nt d a c buf x ctx =>
    [d.code, a.code, 0xFF, c.code, nt.toNat, 0, buf.toNat, 0, x.toNat, 0, 0, ctx.toNat, 0]
  | .tmcast _ nt d a b c t x ctx =>
    [d.code, a.code, b.code, c.code, nt.toNat, 0, t.toNat, 0, x.toNat, 0, 0, ctx.toNat, 0]
  | .tbinit _ a b n => [0xFF, a.code, b.code, 0xFF, 0, n.toNat]
  | .arrive _ d a n => [d.code, a.code, 0xFF, 0xFF, 0, n.toNat]
  | .expect _ arv d a b n => [d.code, a.code, b.code, 0xFF, 0, arv.toNat, 0, n.toNat]
  | .waitph _ a b ph => [0xFF, a.code, b.code, 0xFF, 0, ph.toNat]
  | .rsum _ d a b src res => [d.code, a.code, b.code, 0xFF, 0, src.toNat, 0, res.toNat, 0]
  | .mma _ a imm => [0, a.code, 0, imm.toNat]
  | .mzero _ d acc ctx => [d.code, (0xE0 + acc.toNat), 0xFF, 0xFF, 0, 0, ctx.toNat, 0]
  | .mprom _ d acc ctx => [d.code, (0xE0 + acc.toNat), 0xFF, 0xFF, 0, 0, ctx.toNat, 0]
  | .mlda _ d sc t sct buf ctx =>
    [d.code, 0xFF, 0xFF, 0xFF, 0, sc.toNat, 0, t.toNat, 0, sct.toNat, 0, buf.toNat, 0,
     ctx.toNat, 0]
  | .mldb _ d sc t sct buf ctx =>
    [d.code, 0xFF, 0xFF, 0xFF, 0, sc.toNat, 0, t.toNat, 0, sct.toNat, 0, buf.toNat, 0,
     ctx.toNat, 0]
  | .msta _ d acc b rm sat sc swz t sct ofmt ctx =>
    [d.code, (0xE0 + acc.toNat), b.code, 0xFF, 0, rm.code, sat.toNat, sc.toNat, swz.toNat,
     t.toNat, 0, sct.toNat, 0, ofmt.code, 0, ctx.toNat, 0]
  | .mread _ d acc b i => [d.code, (0xE0 + acc.toNat), b.code, 0xFF, 0, i.toNat]
  | .mwrite _ acc b c i => [0xFF, (0xE0 + acc.toNat), b.code, c.code, 0, i.toNat]
  | .gate _ n args res => [0xFF, 0xFF, 0, 0, n.toNat, args.toNat, 0, res.toNat, 0]
  | .retg _ e => [0xFF, 0xFF, 0xFF, 0xFF, e.toNat, 0, 0, 0, 0, 0, 0]
  | .cpset _ d a b slot word => [d.code, a.code, b.code, 0xFF, 0, slot.toNat, word.toNat, 0]
  | .cpget _ d b slot word => [d.code, 0xFF, b.code, 0xFF, 0, slot.toNat, word.toNat, 0]
  | .tlbinv _ all d a b c => [d.code, a.code, b.code, c.code, 0, all.toNat, 0, 0]
  | .asidbind _ ro unb d a b slot =>
    [d.code, a.code, b.code, 0xFF, 0, ro.toNat, unb.toNat, 0, slot.toNat, 0]
  | .ckpt _ d => [d.code, 0xFF, 0xFF, 0xFF, 0, 0]
  | .croll _ stay d a b => [d.code, a.code, b.code, 0xFF, 0, stay.toNat, 0, 0]
  | .halt _ d a b => [d.code, a.code, b.code, 0xFF, 0, 0]
  | .resume _ d a b => [d.code, a.code, b.code, 0xFF, 0, 0]
  | .yieldOverrun _ _ => []
  | .lineFetch _ _ _ _ _ => []
  | .checkpointPeriod _ => []
  | .blockPark _ => []
  | .checkpointCommit _ => []
  | .quantumEnd _ => []
  | .userInterruptDelivery _ _ => []
  | .vectoring _ _ => []
  | .activationEntry _ => []
  | .dispatch _ => []
  | .fenceMet _ => []
  | .blockEnd _ => []
  | .completionRecord _ => []
  | .landing _ _ _ => []
  | .mcastLanding _ _ _ _ => []
  | .shuttleCommandComplete _ _ _ => []
  | .mmaStart _ _ _ => []
  | .matrixCommandComplete _ _ _ => []
  | .fetchpgComplete _ _ => []
  | .fetchNoframe _ _ => []
  | .windowCommandComplete _ _ => []
  | .rsumPacket _ _ => []
  | .barrierArrival _ _ => []
  | .barrierRelease _ _ => []
  | .readRequest _ _ _ => []
  | .ownershipRequest _ _ _ => []
  | .writeRequest _ _ _ _ _ _ => []
  | .uncachedRead _ _ _ => []
  | .uncachedWrite _ _ _ _ _ _ => []
  | .farAtomic _ _ _ _ _ _ => []
  | .eviction _ _ _ => []
  | .cleanEvictionNotice _ _ _ => []
  | .cleanReleaseNotice _ _ _ => []
  | .recall _ _ _ _ => []
  | .invalidation _ _ _ => []
  | .peerProbe _ _ _ => []
  | .sharerNotice _ _ _ _ => []
  | .dataResponse _ _ _ => []
  | .placementEpoch _ => []
  | .migration _ _ _ => []
  | .marginLend _ _ _ _ => []
  | .revocation _ _ _ _ => []
  | .revocationOverrun _ _ _ _ => []
  | .hang _ => []
  | .pcSample _ _ => []
  | .faultHoldPoll _ => []
  | .heartbeatTimeout _ => []
  | .linkRetrain _ _ _ => []
  | .laneTraining _ _ _ => []
  | .memoryUncorrectable _ _ _ _ => []
  | .thermalLimit _ => []
  | .rdmaWrite _ => []
  | .rdmaWriteWithImmediate _ => []
  | .rdmaRead _ => []
  | .fetchAdd _ => []
  | .cmpSwap _ => []
  | .ack _ _ => []
  | .ackTimeout _ => []
  | .congestionNotification _ => []
  | .rateRecovery _ => []
  | .ptpMessage _ => []
  | .waitwTimeout _ _ => []
  | .napExpiry _ _ => []
  | .powerOn _ => []
  | .leadReachTimeout _ => []
  | .startTimeout => []
  | .warmReset _ => []
  | .partitionCreate _ _ _ _ => []
  | .partitionResize _ _ => []
  | .partitionDestroy _ => []
  | .operatorClearAttempts => []
  | .imageWrite _ _ _ => []
  | .fieldSelfTest _ _ => []
  | .operatorAttest _ => []
  | .operatorResume _ => []
  | .operatorAbort _ => []
  | .ctxNew _ _ _ _ _ => []
  | .ctxFree _ _ => []
  | .asidNew _ _ _ _ => []
  | .asidFree _ _ => []
  | .vfSet _ _ _ _ => []
  | .gateRsv _ _ _ => []
  | .shadowSet _ _ _ => []
  | .fstoreSet _ _ _ => []
  | .place _ _ _ _ => []
  | .qpNew _ _ _ _ _ _ _ => []
  | .qpFree _ _ => []
  | .winSet _ _ _ _ _ _ _ _ => []
  | .winFree _ _ => []
  | .attest _ _ _ => []
  | .traceSet _ _ _ _ _ => []
  | .ctrSet _ _ _ _ => []
  | .dbgSet _ _ _ _ _ => []
  | .logSet _ _ _ _ _ => []
  | .faultSet _ _ _ => []
  | .abort _ _ _ => []
  | .snapClose _ _ _ _ => []
  | .hangSet _ _ _ => []
  | .winQp _ _ _ => []
  | .waitingInstructionComplete _ _ => []
  | .powerLoss => []
  | .returnWithinLimit _ => []
  | .memoryChannelRetraining _ _ _ => []
  | .crossbarPortParityError _ _ _ => []
  | .rdmaReadResponse _ _ _ => []
  | .rnrNak _ => []
  | .pauseFrame _ _ _ => []

/-- The instruction that the fields of a slot with opcode `op` name, `v k` being its k-th field
with the header's seven first. A field value that stands for nothing is read as some value whose
encoding differs, and `decode` then refuses the slot. -/
def build (op : Nat) (h : Hdr) (v : Nat → Nat) : Option Instr :=
  match op with
  | 0x000 => some (.nop h)
  | 0x001 => some (.pair h (subOf v 7) (subOf v 12))
  | 0x002 => some (.bra h (f3Of v 13))
  | 0x003 => some (.brx h (v 12 == 1) (f3Of v 14))
  | 0x004 => some (.call h (f3Of v 13))
  | 0x005 => some (.callx h (Opd.ofCode (v 12)) (f3Of v 14))
  | 0x006 => some (.ret h (Opd.ofCode (v 11)))
  | 0x007 => some (.enrol h (.ofNat 3 (v 7)))
  | 0x008 => some (.join h (.ofNat 3 (v 7)))
  | 0x009 => some (.yield h (.ofNat 3 (v 11)) (.ofNat 12 (v 17)))
  | 0x00A => some (.exit h (.ofNat 3 (v 11)))
  | 0x00B => some (.bar h (.ofNat 3 (v 11)))
  | 0x00C => some (.barg h (.ofNat 3 (v 11)))
  | 0x00D => some (.barw h (.ofNat 3 (v 11)))
  | 0x00E => some (.waittl h (.ofNat 3 (v 7)) (Opd.ofCode (v 8)) (v 9 == 1) (Scope.ofCode
      (v 11)) (.ofNat 32 (v 13)))
  | 0x00F => some (.nap h (Opd.ofCode (v 8)) (v 9 == 1) (.ofNat 16 (v 11)))
  | 0x010 => some (.retu h (.ofNat 3 (v 11)))
  | 0x011 => some (.umask h (v 9 == 1) (v 11 == 1))
  | 0x012 => some (.sread h (Opd.ofCode (v 7)) (v 9 == 1) (SReg.ofCode (v 11)))
  | 0x013 => some (.swrite h (Opd.ofCode (v 8)) (v 9 == 1) (SReg.ofCode (v 11)))
  | 0x014 => some (.trap h (v 9 == 1) (.ofNat 32 (v 11)))
  | 0x015 => some (.bkpt h (v 9 == 1) (.ofNat 32 (v 11)))
  | 0x040 => some (.iadd h (f0Of v 17))
  | 0x041 => some (.isub h (f0Of v 17))
  | 0x042 => some (.iaddc h (.ofNat 4 (v 17)) (f0Of v 19))
  | 0x043 => some (.isubb h (.ofNat 4 (v 17)) (f0Of v 19))
  | 0x044 => some (.imul h (f0Of v 17))
  | 0x045 => some (.imulh h (f0Of v 17))
  | 0x046 => some (.imulhu h (f0Of v 17))
  | 0x047 => some (.imad h (f0Of v 17))
  | 0x048 => some (.iadd64 h (f0Of v 17))
  | 0x049 => some (.isub64 h (f0Of v 17))
  | 0x04A => some (.imul64 h (f0Of v 17))
  | 0x04B => some (.idivu h (f0Of v 17))
  | 0x04C => some (.idivs h (f0Of v 17))
  | 0x04D => some (.iremu h (f0Of v 17))
  | 0x04E => some (.irems h (f0Of v 17))
  | 0x04F => some (.imin h (f0Of v 17))
  | 0x050 => some (.imax h (f0Of v 17))
  | 0x051 => some (.iminu h (f0Of v 17))
  | 0x052 => some (.imaxu h (f0Of v 17))
  | 0x053 => some (.iabs h (f0Of v 17))
  | 0x054 => some (.ineg h (f0Of v 17))
  | 0x055 => some (.and h (f0Of v 17))
  | 0x056 => some (.or h (f0Of v 17))
  | 0x057 => some (.xor h (f0Of v 17))
  | 0x058 => some (.not h (f0Of v 17))
  | 0x059 => some (.andn h (f0Of v 17))
  | 0x05A => some (.shl h (v 16 == 1) (f0Of v 18))
  | 0x05B => some (.shr h (v 16 == 1) (f0Of v 18))
  | 0x05C => some (.sar h (v 16 == 1) (f0Of v 18))
  | 0x05D => some (.shl64 h (v 16 == 1) (f0Of v 18))
  | 0x05E => some (.shr64 h (v 16 == 1) (f0Of v 18))
  | 0x05F => some (.sar64 h (v 16 == 1) (f0Of v 18))
  | 0x060 => some (.rotl h (f0Of v 17))
  | 0x061 => some (.funnel h (v 16 == 1) (f0Of v 18))
  | 0x062 => some (.popc h (f0Of v 17))
  | 0x063 => some (.clz h (f0Of v 17))
  | 0x064 => some (.ctz h (f0Of v 17))
  | 0x065 => some (.brev h (f0Of v 17))
  | 0x066 => some (.bfe h (v 16 == 1) (f0Of v 18))
  | 0x067 => some (.bfi h (f0Of v 17))
  | 0x068 => some (.bysel h (f0Of v 17))
  | 0x069 => some (.iset h (ICmp.ofCode (v 16)) (f0Of v 18))
  | 0x06A => some (.iset64 h (ICmp.ofCode (v 16)) (f0Of v 18))
  | 0x06B => some (.isel h (f0Of v 17))
  | 0x06C => some (.mov h (v 16 == 1) (f0Of v 18))
  | 0x06D => some (.movi h (v 11 == 1) (Opd.ofCode (v 7)) (.ofNat 32 (v 13)))
  | 0x06E => some (.movs h (v 16 == 1) (f0Of v 18))
  | 0x06F => some (.lea h (.ofNat 3 (v 16)) (v 17 == 1) (f0Of v 19))
  | 0x0C0 => some (.fadd h (rndOf v) (f0Of v 17))
  | 0x0C1 => some (.fsub h (rndOf v) (f0Of v 17))
  | 0x0C2 => some (.fmul h (rndOf v) (f0Of v 17))
  | 0x0C3 => some (.ffma h (rndOf v) (f0Of v 17))
  | 0x0C4 => some (.fmin h (v 14 == 1) (f0Of v 17))
  | 0x0C5 => some (.fmax h (v 14 == 1) (f0Of v 17))
  | 0x0C6 => some (.fabs h (v 14 == 1) (f0Of v 17))
  | 0x0C7 => some (.fneg h (v 14 == 1) (f0Of v 17))
  | 0x0C8 => some (.fcopys h (v 14 == 1) (f0Of v 17))
  | 0x0C9 => some (.fset h (FCmp.ofCode (v 16)) (v 14 == 1) (f0Of v 18))
  | 0x0CA => some (.fclass h (ClassFmt.ofCode (v 16)) (f0Of v 18))
  | 0x0CB => some (.fdiv h (rndOf v) (f0Of v 17))
  | 0x0CC => some (.hadd2 h (rndOf v) (f0Of v 17))
  | 0x0CD => some (.hmul2 h (rndOf v) (f0Of v 17))
  | 0x0CE => some (.hfma2 h (rndOf v) (f0Of v 17))
  | 0x0CF => some (.badd2 h (rndOf v) (f0Of v 17))
  | 0x0D0 => some (.bmul2 h (rndOf v) (f0Of v 17))
  | 0x0D1 => some (.bfma2 h (rndOf v) (f0Of v 17))
  | 0x0D2 => some (.dadd h (rndOf v) (f0Of v 17))
  | 0x0D3 => some (.dmul h (rndOf v) (f0Of v 17))
  | 0x0D4 => some (.dfma h (rndOf v) (f0Of v 17))
  | 0x0D5 => some (.dset h (FCmp.ofCode (v 16)) (f0Of v 18))
  | 0x0D6 => some (.cvt h (rndOf v) (Elem.ofCode (v 17)) (Elem.ofCode (v 16)) (f0Of v 19))
  | 0x0D7 => some (.cvtpk h (rndOf v) (Elem.ofCode (v 17)) (Elem.ofCode (v 16)) (.ofNat 3
      (v 18)) (f0Of v 20))
  | 0x0D8 => some (.cvtupk h (Elem.ofCode (v 17)) (Elem.ofCode (v 16)) (.ofNat 4 (v 18))
      (f0Of v 20))
  | 0x0D9 => some (.rndi h (rndOf v) (f0Of v 17))
  | 0x140 => some (.q8add h (rndOf v) (v 16 == 1) (f0Of v 18))
  | 0x141 => some (.q8mul h (rndOf v) (v 16 == 1) (f0Of v 18))
  | 0x142 => some (.q8min h (rndOf v) (v 16 == 1) (f0Of v 18))
  | 0x143 => some (.q8max h (rndOf v) (v 16 == 1) (f0Of v 18))
  | 0x144 => some (.idp4 h (v 16 == 1) (v 17 == 1) (f0Of v 19))
  | 0x145 => some (.fdp4 h (rndOf v) (v 16 == 1) (v 17 == 1) (f0Of v 19))
  | 0x146 => some (.fdp2 h (rndOf v) (v 16 == 1) (f0Of v 18))
  | 0x147 => some (.scalex h (rndOf v) (v 16 == 1) (.ofNat 2 (v 17)) (f0Of v 19))
  | 0x148 => some (.rcp h (f0Of v 17))
  | 0x149 => some (.rsq h (f0Of v 17))
  | 0x14A => some (.sqrt h (f0Of v 17))
  | 0x14B => some (.exp2 h (f0Of v 17))
  | 0x14C => some (.log2 h (f0Of v 17))
  | 0x14D => some (.exp h (f0Of v 17))
  | 0x14E => some (.log h (f0Of v 17))
  | 0x14F => some (.sinpi h (f0Of v 17))
  | 0x150 => some (.cospi h (f0Of v 17))
  | 0x151 => some (.tanh h (f0Of v 17))
  | 0x152 => some (.sigm h (f0Of v 17))
  | 0x180 => some (.shfl h (ShflMode.ofCode (v 16)) (.ofNat 3 (v 17)) (.ofNat 4 (v 18))
      (f0Of v 20))
  | 0x181 => some (.vote h (VoteMode.ofCode (v 16)) (f0Of v 18))
  | 0x182 => some (.ballot h (f0Of v 17))
  | 0x183 => some (.matchL h (v 16 == 1) (f0Of v 18))
  | 0x184 => some (.redux h (Rop.ofCode (v 16)) (f0Of v 18))
  | 0x185 => some (.scan h (Rop.ofCode (v 16)) (v 17 == 1) (f0Of v 19))
  | 0x186 => some (.pand h (v 16 == 1) (v 17 == 1) (f0Of v 19))
  | 0x187 => some (.por h (v 16 == 1) (v 17 == 1) (f0Of v 19))
  | 0x188 => some (.pxor h (v 16 == 1) (v 17 == 1) (f0Of v 19))
  | 0x189 => some (.pnot h (f0Of v 17))
  | 0x18A => some (.pmov h (v 16 == 1) (f0Of v 18))
  | 0x1C0 => some (.ld h (Opd.ofCode (v 7)) (f2Of v))
  | 0x1C1 => some (.st h (Opd.ofCode (v 7)) (f2Of v))
  | 0x1C2 => some (.lds h (Opd.ofCode (v 7)) (f2Of v))
  | 0x1C3 => some (.sts h (Opd.ofCode (v 7)) (f2Of v))
  | 0x1C5 => some (.pref h (Opd.ofCode (v 7)) (f2Of v))
  | 0x1C6 => some (.reside h (Opd.ofCode (v 7)) (f2Of v))
  | 0x1C7 => some (.fetchpg h (Opd.ofCode (v 7)) (f2Of v))
  | 0x1CD => some (.fence h (Opd.ofCode (v 7)) (f2Of v))
  | 0x1CE => some (.qfence h (Opd.ofCode (v 7)) (f2Of v))
  | 0x1CF => some (.cinv h (Opd.ofCode (v 7)) (f2Of v))
  | 0x1D0 => some (.cwb h (Opd.ofCode (v 7)) (f2Of v))
  | 0x1C4 => some (.ldq h (.ofNat 3 (v 7)) (f2Of v))
  | 0x1C8 => some (.atom h (Aop.ofCode (v 12)) (faOf v))
  | 0x1C9 => some (.atoms h (Aop.ofCode (v 12)) (faOf v))
  | 0x1CA => some (.cas h (faOf v))
  | 0x1CB => some (.cas128 h (faOf v))
  | 0x1CC => some (.red h (Aop.ofCode (v 12)) (faOf v))
  | 0x240 => some (.snap h (Scope.ofCode (v 12)) (v 13 == 1) (Opd.ofCode (v 7)) (Opd.ofCode
      (v 8)) (Opd.ofCode (v 9)))
  | 0x241 => some (.accept h (Opd.ofCode (v 7)) (Opd.ofCode (v 8)) (.ofNat 32 (v 12)))
  | 0x242 => some (.reject h (Opd.ofCode (v 7)) (Opd.ofCode (v 8)) (.ofNat 32 (v 12)))
  | 0x243 => some (.snapq h (Opd.ofCode (v 7)) (.ofNat 3 (v 12)))
  | 0x244 => some (.put h (v 12 == 1) (v 13 == 1) (Opd.ofCode (v 7)) (Opd.ofCode (v 8))
      (Opd.ofCode (v 9)) (Opd.ofCode (v 10)) (.ofNat 10 (v 15)))
  | 0x245 => some (.get h (v 12 == 1) (Opd.ofCode (v 7)) (Opd.ofCode (v 8)) (Opd.ofCode (v 9))
      (Opd.ofCode (v 10)) (.ofNat 10 (v 14)))
  | 0x246 => some (.waitw h (v 12 == 1) (Opd.ofCode (v 7)) (Opd.ofCode (v 8)) (Opd.ofCode (v 9))
      (.ofNat 10 (v 14)))
  | 0x247 => some (.wread h (v 12 == 1) (v 13 == 1) (Opd.ofCode (v 7)) (.ofNat 10 (v 15)))
  | 0x248 => some (.launch h (Opd.ofCode (v 7)) (Opd.ofCode (v 8)) (.ofNat 10 (v 12)))
  | 0x249 => some (.launchw h (Opd.ofCode (v 7)) (.ofNat 10 (v 12)))
  | 0x24A => some (.postc h (Opd.ofCode (v 7)) (Opd.ofCode (v 8)) (.ofNat 10 (v 12)))
  | 0x280 => some (.xdef h (Opd.ofCode (v 7)) (Opd.ofCode (v 8)) (.ofNat 8 (v 12)))
  | 0x281 => some (.xread h (Opd.ofCode (v 8)) (.ofNat 8 (v 12)))
  | 0x282 => some (.talloc h (AllocMode.ofCode (v 12)) (Opd.ofCode (v 8)) (Opd.ofCode (v 9))
      (.ofNat 6 (v 14)))
  | 0x283 => some (.tfree h (.ofNat 6 (v 12)))
  | 0x284 => some (.tstat h (Opd.ofCode (v 7)) (.ofNat 2 (v 13)) (.ofNat 8 (v 12)))
  | 0x285 => some (.tload h (v 11 == 1) (LoadMode.ofCode (v 12)) (Opd.ofCode (v 7)) (Opd.ofCode
      (v 8)) (Opd.ofCode (v 10)) (.ofNat 6 (v 14)) (.ofNat 8 (v 16)) (.ofNat 6 (v 17)) (.ofNat 2 (v 19)))
  | 0x286 => some (.tstore h (v 11 == 1) (v 12 == 1) (Opd.ofCode (v 7)) (Opd.ofCode (v 8))
      (.ofNat 6 (v 14)) (.ofNat 8 (v 16)) (.ofNat 2 (v 19)))
  | 0x287 => some (.tloadb h (v 11 == 1) (Opd.ofCode (v 7)) (Opd.ofCode (v 8)) (Opd.ofCode
      (v 10)) (.ofNat 3 (v 13)) (.ofNat 8 (v 15)) (.ofNat 2 (v 18)))
  | 0x288 => some (.tmcast h (v 11 == 1) (Opd.ofCode (v 7)) (Opd.ofCode (v 8)) (Opd.ofCode
      (v 9)) (Opd.ofCode (v 10)) (.ofNat 6 (v 13)) (.ofNat 8 (v 15)) (.ofNat 2 (v 18)))
  | 0x289 => some (.tbinit h (Opd.ofCode (v 8)) (Opd.ofCode (v 9)) (.ofNat 16 (v 12)))
  | 0x28A => some (.arrive h (Opd.ofCode (v 7)) (Opd.ofCode (v 8)) (.ofNat 16 (v 12)))
  | 0x28B => some (.expect h (v 12 == 1) (Opd.ofCode (v 7)) (Opd.ofCode (v 8)) (Opd.ofCode
      (v 9)) (.ofNat 32 (v 14)))
  | 0x28C => some (.waitph h (Opd.ofCode (v 8)) (Opd.ofCode (v 9)) (.ofNat 4 (v 12)))
  | 0x28D => some (.rsum h (Opd.ofCode (v 7)) (Opd.ofCode (v 8)) (Opd.ofCode (v 9)) (.ofNat 6
      (v 12)) (.ofNat 6 (v 14)))
  | 0x2C0 => some (.mma h (Opd.ofCode (v 8)) (.ofNat 32 (v 10)))
  | 0x2C1 => some (.mzero h (Opd.ofCode (v 7)) (.ofNat 3 (v 8)) (v 13 == 1))
  | 0x2C2 => some (.mprom h (Opd.ofCode (v 7)) (.ofNat 3 (v 8)) (v 13 == 1))
  | 0x2C3 => some (.mlda h (Opd.ofCode (v 7)) (v 12 == 1) (.ofNat 6 (v 14)) (.ofNat 6 (v 16))
      (.ofNat 2 (v 18)) (v 20 == 1))
  | 0x2C4 => some (.mldb h (Opd.ofCode (v 7)) (v 12 == 1) (.ofNat 6 (v 14)) (.ofNat 6 (v 16))
      (.ofNat 2 (v 18)) (v 20 == 1))
  | 0x2C5 => some (.msta h (Opd.ofCode (v 7)) (.ofNat 3 (v 8)) (Opd.ofCode (v 9)) (Rm.ofCode
      (v 12)) (v 13 == 1) (v 14 == 1) (.ofNat 2 (v 15)) (.ofNat 6 (v 16)) (.ofNat 6 (v 18)) (Elem.ofCode (v 20)) (v 22 == 1))
  | 0x2C6 => some (.mread h (Opd.ofCode (v 7)) (.ofNat 3 (v 8)) (Opd.ofCode (v 9)) (.ofNat 12
      (v 12)))
  | 0x2C7 => some (.mwrite h (.ofNat 3 (v 8)) (Opd.ofCode (v 9)) (Opd.ofCode (v 10)) (.ofNat 12
      (v 12)))
  | 0x300 => some (.gate h (.ofNat 8 (v 11)) (.ofNat 5 (v 12)) (.ofNat 5 (v 14)))
  | 0x301 => some (.retg h (.ofNat 3 (v 11)))
  | 0x302 => some (.cpset h (Opd.ofCode (v 7)) (Opd.ofCode (v 8)) (Opd.ofCode (v 9)) (.ofNat 2
      (v 12)) (.ofNat 2 (v 13)))
  | 0x303 => some (.cpget h (Opd.ofCode (v 7)) (Opd.ofCode (v 9)) (.ofNat 2 (v 12)) (.ofNat 2
      (v 13)))
  | 0x304 => some (.tlbinv h (v 12 == 1) (Opd.ofCode (v 7)) (Opd.ofCode (v 8)) (Opd.ofCode
      (v 9)) (Opd.ofCode (v 10)))
  | 0x305 => some (.asidbind h (v 12 == 1) (v 13 == 1) (Opd.ofCode (v 7)) (Opd.ofCode (v 8))
      (Opd.ofCode (v 9)) (.ofNat 2 (v 15)))
  | 0x306 => some (.ckpt h (Opd.ofCode (v 7)))
  | 0x307 => some (.croll h (v 12 == 1) (Opd.ofCode (v 7)) (Opd.ofCode (v 8)) (Opd.ofCode (v 9)))
  | 0x308 => some (.halt h (Opd.ofCode (v 7)) (Opd.ofCode (v 8)) (Opd.ofCode (v 9)))
  | 0x309 => some (.resume h (Opd.ofCode (v 7)) (Opd.ofCode (v 8)) (Opd.ofCode (v 9)))
  | _ => none

/-! ### Encoder and decoder -/

/-- The slot of an instruction; an event has none. -/
def Instr.encode (i : Instr) : Option Slot :=
  match i.op? with
  | some op =>
    some (.ofNat 96 (joinFields (headerWidths ++ layout op) (i.hdr.vals op (fmtOf op) ++ i.vals)))
  | none => none

/-- The fields of a slot under the layout of its own opcode. -/
def slotFields (w : Slot) : List Nat := splitFields (headerWidths ++ layout (w.toNat % 1024)) w.toNat

/-- The instruction a slot's fields name, before the conditions of R102 are checked. -/
def slotBuild (w : Slot) : Option Instr :=
  build (w.toNat % 1024) (hdrOf fun k => (slotFields w).getD k 0) fun k => (slotFields w).getD k 0

/-- The instruction in a slot, none where the slot is no encoding (R102): no opcode, another format,
a reserved bit or value, a wrong operand kind. -/
def decode (w : Slot) : Option Instr :=
  match slotBuild w with
  | some i => if i.encode = some w ∧ i.wf = true then some i else none
  | none => none

/-- The host's view of the decoder: the slot whose lowest `nbits` bits are those of `w` and whose
other bits are 0. DEDUCED, unsafe (log 16). DEDUCED, unsafe (log 17). -/
def decodeTableWord (nbits w : Nat) : Option Instr := decode (.ofNat 96 (w % 2 ^ nbits))

end Sys2Proof
end

