-- ==== Sys2Proof/Config.lean ====
section
/-! DEFINITION. What the manual leaves open and the machine goes on with: values with no body, so
that nothing can be proved of them. -/

namespace Sys2Proof

/-- The n-th free value drawn by the machine. DESIGN CHOICE, safe (log 5). -/
opaque Config.freeWord : Nat → Word

/-- The result of special function `fn` (its opcode) on an FP32 operand whose result R115 bounds and
does not fix: the index, within the values R115 admits, of the one the part gives. DEDUCED, safe (log 15). -/
opaque Config.sfuChoice : Nat → Word → Nat

/-- For a special function that R115 makes monotone: at how many of the greatest operands the part gives at least
a certain result, both counted in order of value. DEDUCED, safe (log 15). -/
opaque Config.sfuCut : Nat → Nat → Nat

/-- Nanoseconds that pass in one step of the model. DESIGN CHOICE, safe (log 11). -/
opaque Config.nsStep : Nat → Nat

/-- Cycles of a core that pass in one step of the model (R461). DESIGN CHOICE, safe (log 13). -/
opaque Config.cycleStep : Nat → Nat

/-- What a counter gains in one step of the model of an event that only timing or placement decides (R372):
of the step's number and the counter's. DESIGN CHOICE, safe (log 88). -/
opaque Config.tally : Nat → Nat → Nat

/-- Whether the values an instruction leaves late (R81) are still owed after the step that issues it.
DESIGN CHOICE, safe (log 6). -/
opaque Config.late : Nat → Bool

/-- SHA-512, a function of the bytes alone (R356, R360). DESIGN CHOICE, safe (log 89). -/
opaque Config.sha512 : List Byte → List Byte

/-- The MAC address of a port, by its number in the topology table (R25). DESIGN CHOICE, safe (log 108). -/
opaque Config.portMac : Nat → BitVec 48

/-- The module's serial number (R360). -/
opaque Config.serial : Nat

/-- The signature bytes of an attestation report. -/
opaque Config.signature : List Byte → List Byte

/-- The choice among equals that a unit of the device makes where the manual gives it no rule. -/
opaque Config.choose : Nat → Nat

/-- The set of a line in a cache level, 0 L0, 1 cluster cache, 2 L2, 3 field cache, and of a region in a field
directory, 4, and a sparse directory, 5; and the ways of the caches' sets (R191): the manual gives neither.
DESIGN CHOICE, safe (log 99). -/
opaque Config.cacheSet : Nat → Nat → Nat
opaque Config.cacheWays : Nat → Nat

/-- The hashes that index the predictors of a cluster (R335, R336). DESIGN CHOICE, safe (log 85). -/
opaque Config.predictorIndex : List Nat → Nat

end Sys2Proof
end

