-- ==== Sys2Proof/Machine/NumFmt.lean ====
section
/-! DEFINITION. Number formats and arithmetic (R103 to R120): the exact values that encodings stand
for, exact operations on them, and the one rounding to a format. -/

namespace Sys2Proof.Machine

open Sys2Proof

/-! ### Formats (R103) -/

/-- A float format: width, fraction bits, bias, the greatest finite magnitude, and the infinity and
canonical NaN where the format has them, as codes without the sign bit. -/
structure Fl where
  bits : Nat
  fb : Nat
  bias : Nat
  maxEnc : Nat
  inf : Option Nat
  nan : Option Nat
  deriving DecidableEq, Repr

def fp64 : Fl := ⟨64, 52, 1023, 0x7FEFFFFFFFFFFFFF, some 0x7FF0000000000000, some 0x7FF8000000000000⟩
def fp32 : Fl := ⟨32, 23, 127, 0x7F7FFFFF, some 0x7F800000, some 0x7FC00000⟩
def fp24 : Fl := ⟨24, 15, 127, 0x7F7FFF, some 0x7F8000, some 0x7FC000⟩
def fp16 : Fl := ⟨16, 10, 15, 0x7BFF, some 0x7C00, some 0x7E00⟩
def bf16 : Fl := ⟨16, 7, 127, 0x7F7F, some 0x7F80, some 0x7FC0⟩
def e5m2 : Fl := ⟨8, 2, 15, 0x7B, some 0x7C, some 0x7E⟩
def e4m3 : Fl := ⟨8, 3, 7, 0x7E, none, some 0x7F⟩
def e2m1 : Fl := ⟨4, 1, 1, 0x7, none, none⟩

/-- The float format of a code of R163, none for an integer code. -/
def elemFl : Elem → Option Fl
  | .f32 => some fp32 | .f16 => some fp16 | .bf16 => some bf16 | .f64 => some fp64
  | .e4m3 => some e4m3 | .e5m2 => some e5m2 | .e2m1 => some e2m1
  | .s32 | .u32 | .s64 | .u64 | .s8 | .s4 | .s3 | .u8 => none

/-- Whether an integer code is two's complement. -/
def elemSigned : Elem → Bool
  | .s32 | .s64 | .s8 | .s4 | .s3 => true
  | .u32 | .u64 | .u8 | .f32 | .f16 | .bf16 | .f64 | .e4m3 | .e5m2 | .e2m1 => false

/-! ### Values -/

/-- An exact value: `num neg n d` is n / d, negated when `neg`; zero keeps a sign. -/
inductive Val where
  | nan (neg : Bool)
  | inf (neg : Bool)
  | num (neg : Bool) (n d : Nat)
  deriving DecidableEq, Repr

def Val.isNan : Val → Bool
  | .nan _ => true
  | .inf _ | .num _ _ _ => false

def Val.isInf : Val → Bool
  | .inf _ => true
  | .nan _ | .num _ _ _ => false

def Val.isZero : Val → Bool
  | .num _ n _ => n == 0
  | .nan _ | .inf _ => false

def Val.neg? : Val → Bool
  | .nan b => b
  | .inf b => b
  | .num b _ _ => b

/-- The value with its sign replaced. -/
def Val.withSign (v : Val) (b : Bool) : Val :=
  match v with
  | .nan _ => .nan b
  | .inf _ => .inf b
  | .num _ n d => .num b n d

/-- m × 2^k. -/
def Val.dyadic (neg : Bool) (m : Nat) (k : Int) : Val :=
  if 0 ≤ k then .num neg (m * 2 ^ k.toNat) 1 else .num neg m (2 ^ (-k).toNat)

def Val.ofInt (i : Int) : Val := .num (i < 0) i.natAbs 1

/-- The value of a code of a format (R103). -/
def Fl.decode (f : Fl) (x : Nat) : Val :=
  let mag := x % 2 ^ (f.bits - 1)
  let neg := x / 2 ^ (f.bits - 1) % 2 == 1
  if f.maxEnc < mag then (if f.inf = some mag then .inf neg else .nan neg)
  else
    let e := mag / 2 ^ f.fb
    let m := mag % 2 ^ f.fb
    if e = 0 then .dyadic neg m (1 - (f.bias : Int) - f.fb)
    else .dyadic neg (2 ^ f.fb + m) ((e : Int) - f.bias - f.fb)

/-- A magnitude code with its sign. -/
def Fl.code (f : Fl) (neg : Bool) (mag : Nat) : Nat := mag + if neg then 2 ^ (f.bits - 1) else 0

/-- R105: the canonical NaN of a sign; +0 in E2M1, which has none (R111). -/
def Fl.nanCode (f : Fl) (neg : Bool) : Nat :=
  match f.nan with
  | some m => f.code neg m
  | none => 0

/-! ### Rounding (R109 to R111) -/

/-- floor(log2 (n / d)) of a positive fraction. -/
def log2Frac (n d : Nat) : Int :=
  let k : Int := (n.log2 : Int) - d.log2
  if 0 ≤ k then (if n < d * 2 ^ k.toNat then k - 1 else k)
  else (if n * 2 ^ (-k).toNat < d then k - 1 else k)

/-- Whether the quotient q with remainder r of D is rounded away from zero (R109, R110). `rnd` is
the 24-bit draw of RS. -/
def roundsUp (rm : Rm) (neg : Bool) (q r dd rnd : Nat) : Bool :=
  if r = 0 then false
  else match rm with
    | .rn => dd < 2 * r || (2 * r == dd && q % 2 == 1)
    | .rz => false
    | .ru => !neg
    | .rd => neg
    | .rs => 2 ^ 24 ≤ r * 2 ^ 24 / dd + rnd

/-- The magnitude code of n / d rounded with the exponent unbounded (R109). -/
def Fl.roundMag (f : Fl) (rm : Rm) (neg : Bool) (n d rnd : Nat) : Nat :=
  let low : Int := 1 - (f.bias : Int) - f.fb
  let t : Int := if n = 0 then low else max low (log2Frac n d - f.fb)
  let nn := if 0 ≤ t then n else n * 2 ^ (-t).toNat
  let dd := if 0 ≤ t then d * 2 ^ t.toNat else d
  let q := nn / dd
  let r := nn % dd
  (q + if roundsUp rm neg q r dd rnd then 1 else 0) + (t - low).toNat * 2 ^ f.fb

/-- R111: what overflow in mode `rm` gives without SAT. -/
def Fl.overflow (f : Fl) (rm : Rm) (neg : Bool) : Nat :=
  match f.inf with
  | some i =>
    match rm with
    | .rn | .rs => f.code neg i
    | .rz => f.code neg f.maxEnc
    | .ru => f.code neg (if neg then f.maxEnc else i)
    | .rd => f.code neg (if neg then i else f.maxEnc)
  | none =>
    match f.nan with
    | some m => f.code neg m
    | none => f.code neg f.maxEnc

/-- R111: what an infinite input gives. -/
def Fl.ofInf (f : Fl) (sat neg : Bool) : Nat :=
  if sat then f.code neg f.maxEnc
  else match f.inf with
    | some i => f.code neg i
    | none =>
      match f.nan with
      | some m => f.code neg m
      | none => f.code neg f.maxEnc

/-- `round_to` of R154: one rounding to a format, then overflow, infinities and NaN. -/
def Fl.round (f : Fl) (rm : Rm) (sat : Bool) (rnd : Nat) (v : Val) : Nat :=
  match v with
  | .nan b => f.nanCode b
  | .inf b => f.ofInf sat b
  | .num b n d =>
    let m := f.roundMag rm b n d rnd
    if f.maxEnc < m then (if sat then f.code b f.maxEnc else f.overflow rm b) else f.code b m

/-- A number rounded to an integer with spacing 1 (R164, R167). -/
def roundIntMag (rm : Rm) (neg : Bool) (n d rnd : Nat) : Nat :=
  n / d + if roundsUp rm neg (n / d) (n % d) d rnd then 1 else 0

/-- R164: conversion to an integer code: NaN gives 0, everything else clamps. -/
def roundToInt (e : Elem) (rm : Rm) (rnd : Nat) (v : Val) : Nat :=
  let lo : Int := if elemSigned e then -(2 ^ (e.bits - 1) : Nat) else 0
  let hi : Int := if elemSigned e then (2 ^ (e.bits - 1) : Nat) - 1 else (2 ^ e.bits : Nat) - 1
  let i : Int :=
    match v with
    | .nan _ => 0
    | .inf b => if b then lo else hi
    | .num b n d =>
      let m : Int := roundIntMag rm b n d rnd
      max lo (min hi (if b then -m else m))
  (i % (2 ^ e.bits : Nat)).toNat

/-- The value of a code of R163. -/
def elemValue (e : Elem) (x : Nat) : Val :=
  match elemFl e with
  | some f => f.decode x
  | none =>
    let y := x % 2 ^ e.bits
    if elemSigned e && 2 ^ (e.bits - 1) ≤ y then .num true (2 ^ e.bits - y) 1 else .num false y 1

/-- Conversion of a value to any code of R163 (R164, R165). -/
def elemConv (e : Elem) (rm : Rm) (sat : Bool) (rnd : Nat) (v : Val) : Nat :=
  match elemFl e with
  | some f => f.round rm sat rnd v
  | none => roundToInt e rm rnd v

/-! ### Exact operations -/

/-- R109: the sign of an exact zero sum of operands of signs a and b. -/
def zeroSign (rm : Rm) (a b : Bool) : Bool := if a = b then a else rm == .rd

/-- The exact sum, with NaN and ∞ − ∞ by R105. -/
def Val.add (rm : Rm) (a b : Val) : Val :=
  match a, b with
  | .nan s, _ => .nan s
  | _, .nan s => .nan s
  | .inf s, .inf t => if s = t then .inf s else .nan false
  | .inf s, .num _ _ _ => .inf s
  | .num _ _ _, .inf t => .inf t
  | .num s n d, .num t m e =>
    let x : Int := (if s then -((n * e : Nat) : Int) else (n * e : Nat)) +
      (if t then -((m * d : Nat) : Int) else (m * d : Nat))
    if x = 0 then .num (if n = 0 ∧ m = 0 then zeroSign rm s t else rm == .rd) 0 1
    else .num (x < 0) x.natAbs (d * e)

/-- The exact product, with 0 × ∞ by R105. -/
def Val.mul (a b : Val) : Val :=
  match a, b with
  | .nan s, _ => .nan s
  | _, .nan s => .nan s
  | .inf s, .inf t => .inf (s != t)
  | .inf s, .num t m _ => if m = 0 then .nan false else .inf (s != t)
  | .num s n _, .inf t => if n = 0 then .nan false else .inf (s != t)
  | .num s n d, .num t m e => .num (s != t) (n * m) (d * e)

/-- a × b + c, a NaN operand before an invalid product (R155). -/
def Val.fma (rm : Rm) (a b c : Val) : Val :=
  match a, b, c with
  | .nan s, _, _ => .nan s
  | _, .nan s, _ => .nan s
  | _, _, .nan s => .nan s
  | _, _, _ => Val.add rm (Val.mul a b) c

/-- The exact quotient, with the special cases of R160. -/
def Val.div (a b : Val) : Val :=
  match a, b with
  | .nan s, _ => .nan s
  | _, .nan s => .nan s
  | .inf _, .inf _ => .nan false
  | .inf s, .num t _ _ => .inf (s != t)
  | .num s _ _, .inf t => .num (s != t) 0 1
  | .num s n d, .num t m e =>
    if m = 0 then (if n = 0 then .nan false else .inf (s != t)) else .num (s != t) (n * e) (d * m)

/-- a < b of two values neither of which is NaN, −0 equal to +0. -/
def Val.lt (a b : Val) : Bool :=
  match a, b with
  | .nan _, _ => false
  | _, .nan _ => false
  | .inf s, .inf t => s && !t
  | .inf s, .num _ _ _ => s
  | .num _ _ _, .inf t => !t
  | .num s n d, .num t m e =>
    decide ((if s then -((n * e : Nat) : Int) else (n * e : Nat)) <
      (if t then -((m * d : Nat) : Int) else (m * d : Nat)))

/-- a = b of two values neither of which is NaN, −0 equal to +0. -/
def Val.eqv (a b : Val) : Bool := !a.isNan && !b.isNan && !Val.lt a b && !Val.lt b a

/-- a before b in the order of R156, −0 below +0. -/
def Val.below (a b : Val) : Bool := Val.lt a b || (Val.eqv a b && a.neg? && !b.neg?)

/-- R156: the smaller, or the larger, operand. -/
def Val.minmax (max? : Bool) (a b : Val) : Val :=
  if a.isNan then (if b.isNan then .nan a.neg? else b)
  else if b.isNan then a
  else if max? then (if Val.below a b then b else a)
  else (if Val.below b a then b else a)

/-- The exact sum of products and addends (R117, R170): NaN of the sign of the first NaN, +∞ with
−∞ a NaN of sign 0, an exact zero by R109. -/
def Val.sum (rm : Rm) (vs : List Val) : Val :=
  match vs.find? Val.isNan with
  | some v => .nan v.neg?
  | none =>
    match vs.find? Val.isInf with
    | some v => if vs.any (fun w => w.isInf && w.neg? != v.neg?) then .nan false else .inf v.neg?
    | none => match vs with
      | [] => .num false 0 1
      | v :: r => r.foldl (Val.add rm) v

/-- R104: a subnormal of FP32 read as a zero of its sign. -/
def ftzIn (ftz : Bool) (x : Nat) : Nat :=
  if ftz && x % 2 ^ 31 < 2 ^ 23 then x / 2 ^ 31 * 2 ^ 31 else x

/-- The value of an FP32 register under FTZ. -/
def f32In (ftz : Bool) (x : Word) : Val := fp32.decode (ftzIn ftz x.toNat)

/-- R104, R154: an FP32 result, flushed when FTZ finds it subnormal. -/
def f32Out (r : Rnd) (rnd : Nat) (v : Val) : Word :=
  .ofNat 32 (ftzIn r.ftz (fp32.round r.rm r.sat rnd v))

/-! ### The stochastic generator (R112, R113) -/

/-- One round of Philox-4×32. -/
def philoxRound (c : Word × Word × Word × Word) (k0 k1 : Word) : Word × Word × Word × Word :=
  let p0 : Nat := 0xD2511F53 * c.1.toNat
  let p1 : Nat := 0xCD9E8D57 * c.2.2.1.toNat
  (.ofNat 32 (p1 / 2 ^ 32) ^^^ c.2.1 ^^^ k0, .ofNat 32 p1,
    .ofNat 32 (p0 / 2 ^ 32) ^^^ c.2.2.2 ^^^ k1, .ofNat 32 p0)

/-- `n` further rounds, the keys rising before each but the first. -/
def philox : Nat → Word → Word → Word × Word × Word × Word → Word × Word × Word × Word
  | 0, _, _, c => c
  | n + 1, k0, k1, c => philox n (k0 + 0x9E3779B9) (k1 + 0xBB67AE85) (philoxRound c k0 k1)

/-- R112: the 24 random bits of element e under seed, work identifier and issue count. -/
def stochBits (seed wid ic : Dword) (e : Nat) : Nat :=
  let out := philox 7 seed.lo seed.hi
    (wid.lo, wid.hi, ic.lo, .ofNat 32 (e / 4 * 2 ^ 20 + ic.toNat / 2 ^ 32 % 2 ^ 20))
  (match e % 4 with
    | 0 => out.1
    | 1 => out.2.1
    | 2 => out.2.2.1
    | _ => out.2.2.2).toNat / 2 ^ 8

/-! ### Packed elements (R106) -/

/-- Element i of a word of elements of `b` bits each. -/
def getEl (b : Nat) (w : Word) (i : Nat) : Nat := w.toNat / 2 ^ (b * i) % 2 ^ b

/-- The word with element i replaced. -/
def setEl (b : Nat) (w : Word) (i x : Nat) : Word :=
  .ofNat 32 (w.toNat - getEl b w i * 2 ^ (b * i) + x % 2 ^ b * 2 ^ (b * i))

/-- R107: the value of an E8M2 scale. -/
def scaleVal (x : Nat) : Val :=
  let e := x / 4 % 256
  if e = 255 then .nan false else .dyadic false (4 + x % 4) ((e : Int) - 129)

/-! ### Special functions (R115, R116): fixed-point approximations good to about 2^-180 -/

/-- The unit of the fixed-point numbers below. -/
def fixOne : Nat := 2 ^ 200

def fixMul (a b : Int) : Int := a * b / (fixOne : Int)

/-- Σ 1 / (k 2^k), k = 1 to n: ln 2. -/
def ln2Sum : Nat → Nat
  | 0 => 0
  | k + 1 => ln2Sum k + fixOne / ((k + 1) * 2 ^ (k + 1))

def fixLn2 : Int := ln2Sum 220

/-- Σ (−1)^i / ((2i+1) x^(2i+1)): the arc tangent of 1/x. -/
def atanSum (x : Nat) : Nat → Int
  | 0 => 0
  | i + 1 => atanSum x i +
    (if i % 2 = 0 then 1 else -1) * ((fixOne / ((2 * i + 1) * x ^ (2 * i + 1)) : Nat) : Int)

def fixPi : Int := 16 * atanSum 5 100 - 4 * atanSum 239 40

/-- e^x by its series, x in fixed point, from term k down. -/
def expTerms (x : Int) : Nat → Nat → Int
  | 0, _ => fixOne
  | n + 1, k => fixOne + fixMul x (expTerms x n (k + 1)) / ((k + 1 : Nat) : Int)

/-- 1 − y/((k+1)(k+2)) (1 − y/((k+3)(k+4)) (…)): the sine series over its argument for k = 1 and
the cosine series for k = 0, of y = x². -/
def trigTerms (y : Int) : Nat → Nat → Int
  | 0, _ => fixOne
  | n + 1, k => fixOne - fixMul y (trigTerms y n (k + 2)) / (((k + 1) * (k + 2) : Nat) : Int)

/-- 1 + y/3 + y²/5 + …: the inverse hyperbolic tangent over its argument. -/
def atanhTerms (y : Int) : Nat → Nat → Int
  | 0, _ => 0
  | n + 1, k => fixOne / ((2 * k + 1 : Nat) : Int) + fixMul y (atanhTerms y n (k + 1))

/-- n / d of a value as a signed fixed-point number. -/
def Val.fix : Val → Int
  | .num b n d => if b then -((n * fixOne / d : Nat) : Int) else (n * fixOne / d : Nat)
  | .nan _ | .inf _ => 0

/-- A fixed-point number times 2^k as a value. -/
def fixVal (x : Int) (k : Int) : Val :=
  if 0 ≤ k then .num (x < 0) (x.natAbs * 2 ^ k.toNat) fixOne
  else .num (x < 0) x.natAbs (fixOne * 2 ^ (-k).toNat)

/-- e^y of a fixed-point number of moderate size. -/
def fixExp (y : Int) : Val :=
  let k := y / fixLn2
  fixVal (expTerms (y - k * fixLn2) 60 0) k

/-- The natural logarithm of a positive n / d. -/
def fixLog (n d : Nat) : Val :=
  let k0 := log2Frac n d
  let big : Bool := if 0 ≤ k0 then 3 * d * 2 ^ k0.toNat < 2 * n else 3 * d < 2 * (n * 2 ^ (-k0).toNat)
  let k := if big then k0 + 1 else k0
  let nn := if 0 ≤ k then n else n * 2 ^ (-k).toNat
  let dd := if 0 ≤ k then d * 2 ^ k.toNat else d
  let z : Val := .num (nn < dd) ((nn : Int) - dd).natAbs (nn + dd)
  let y := fixMul z.fix z.fix
  if k = 0 then Val.mul z (fixVal (2 * atanhTerms y 130 0) 0)
  else fixVal (k * fixLn2 + 2 * fixMul z.fix (atanhTerms y 130 0)) 0

/-- sin π(n / d) for n / d from 0 to 1/2. -/
def sinPiCore (n d : Nat) : Val :=
  let x := fixMul fixPi (n * fixOne / d : Nat)
  Val.mul (.num false n d) (fixVal (fixMul fixPi (trigTerms (fixMul x x) 40 1)) 0)

/-- sin π(n / d) for n / d from 0 to 2. -/
def sinPiTurn (n d : Nat) : Val :=
  if 2 * n ≤ d then sinPiCore n d
  else if n ≤ d then sinPiCore (d - n) d
  else if 2 * n ≤ 3 * d then (sinPiCore (n - d) d).withSign true
  else (sinPiCore (2 * d - n) d).withSign true

/-- √(n / d) from below, with a last bit that says whether it is inexact. -/
def sqrtVal (n d : Nat) : Val :=
  let r := (n * 4 ^ 110 / d).sqrt
  .num false (2 * r + if r * r * d = n * 4 ^ 110 then 0 else 1) (2 ^ 111)

/-- The functions of the special-function unit (R172). -/
inductive Sfu where
  | rcp | rsq | sqrt | exp2 | log2 | exp | log | sinpi | cospi | tanh | sigm
  deriving DecidableEq, Repr

def Sfu.code : Sfu → Nat
  | .rcp => 0x148 | .rsq => 0x149 | .sqrt => 0x14A | .exp2 => 0x14B | .log2 => 0x14C | .exp => 0x14D
  | .log => 0x14E | .sinpi => 0x14F | .cospi => 0x150 | .tanh => 0x151 | .sigm => 0x152

/-- R115: the error bound in ulp. -/
def Sfu.ulps : Sfu → Nat
  | .rcp | .rsq | .sqrt | .exp2 | .log2 => 1
  | .exp | .log | .sinpi | .cospi | .tanh | .sigm => 2

/-- The greatest finite FP32 exponent of e, beyond which the exponentials overflow or vanish. -/
def expLimit : Nat := 160

/-- The exact result where it is representable or R116 names it, or an approximation of it. -/
def Sfu.exact (f : Sfu) (v : Val) : Val × Bool :=
  match f, v with
  | .rcp, .num s n d => (Val.div (.num false 1 1) (.num s n d), false)
  | .rcp, .inf s => (.num s 0 1, true)
  | .rsq, .num s n d =>
    if n = 0 then (.inf s, true) else if s then (.nan false, true) else (sqrtVal d n, false)
  | .rsq, .inf s => (if s then .nan false else .num false 0 1, true)
  | .sqrt, .num s n d =>
    if n = 0 then (.num s 0 1, true) else if s then (.nan false, true) else (sqrtVal n d, true)
  | .sqrt, .inf s => (if s then .nan false else .inf false, true)
  | .exp2, .num s n d =>
    if n % d = 0 ∧ n / d ≤ (if s then 149 else 127) then
      (.dyadic false 1 (if s then -((n / d : Nat) : Int) else (n / d : Nat)), true)
    else if 128 ≤ n / d ∧ !s then (.inf false, true)
    else if expLimit ≤ n / d then (.num false 0 1, true)
    else (fixExp (fixMul fixLn2 v.fix), false)
  | .exp2, .inf s => (if s then .num false 0 1 else .inf false, true)
  | .exp, .num s n d =>
    if n = 0 then (.num false 1 1, true)
    else if expLimit ≤ n / d then (if s then .num false 0 1 else .inf false, true)
    else (fixExp v.fix, false)
  | .exp, .inf s => (if s then .num false 0 1 else .inf false, true)
  | .log2, .num s n d =>
    if n = 0 then (.inf true, true) else if s then (.nan false, true)
    else if n = 2 ^ n.log2 ∧ d = 2 ^ d.log2 then (.ofInt ((n.log2 : Int) - d.log2), true)
    else (Val.div (fixLog n d) (fixVal fixLn2 0), false)
  | .log2, .inf s => (if s then .nan false else .inf false, true)
  | .log, .num s n d =>
    if n = 0 then (.inf true, true) else if s then (.nan false, true)
    else if n = d then (.num false 0 1, true) else (fixLog n d, false)
  | .log, .inf s => (if s then .nan false else .inf false, true)
  | .sinpi, .num s n d =>
    if n % d = 0 then (.num s 0 1, true)
    else if 2 * n % d = 0 then (.num (s != (2 * n / d % 4 == 3)) 1 1, true)
    else
      let r := sinPiTurn (n % (2 * d)) d
      (r.withSign (s != r.neg?), false)
  | .sinpi, .inf _ => (.nan false, true)
  | .cospi, .num _ n d =>
    if n % d = 0 then (.num (n / d % 2 == 1) 1 1, true)
    else if 2 * n % d = 0 then (.num false 0 1, true)
    else (sinPiTurn ((2 * n + d) % (4 * d)) (2 * d), false)
  | .cospi, .inf _ => (.nan false, true)
  | .tanh, .num s n d =>
    if n = 0 then (.num s 0 1, true)
    else if 16 ≤ n / d then (.num s (2 ^ 60 - 1) (2 ^ 60), false)
    else if n * 2 ^ 30 ≤ d then (.num s (n * (3 * d * d - n * n)) (3 * d * d * d), false)
    else
      let e := fixExp (2 * (n * fixOne / d : Nat))
      ((Val.div (Val.add .rn e (.num true 1 1)) (Val.add .rn e (.num false 1 1))).withSign s, false)
  | .tanh, .inf s => (.num s 1 1, true)
  | .sigm, .num s n d =>
    if n = 0 then (.num false 1 2, true)
    else if expLimit ≤ n / d then
      (if s then .num false 1 (2 ^ 200) else .num false (2 ^ 60 - 1) (2 ^ 60), false)
    else
      let e := fixExp v.fix
      (Val.div e (Val.add .rn e (.num false 1 1)), false)
  | .sigm, .inf s => (.num false (if s then 0 else 1) 1, true)
  | _, .nan s => (.nan s, true)

/-! ### The results that R115 admits -/

/-- R115: the functions that rise with their operand. -/
def Sfu.monotone : Sfu → Bool
  | .exp2 | .log2 | .exp | .log | .tanh | .sigm => true
  | .rcp | .rsq | .sqrt | .sinpi | .cospi => false

/-- R115: the functions that give one of the two values around the exact result. -/
def Sfu.faithful : Sfu → Bool
  | .rcp | .rsq | .sqrt => true
  | .exp2 | .log2 | .exp | .log | .sinpi | .cospi | .tanh | .sigm => false

/-- The FP32 magnitude at or below, and at or above, a number. -/
def floorCode (n d : Nat) : Nat := fp32.roundMag .rz false n d 0
def ceilCode (n d : Nat) : Nat := fp32.roundMag .ru false n d 0

/-- The FP32 magnitude of 2^k. -/
def powCode (k : Int) : Nat := if 0 ≤ k then floorCode (2 ^ k.toNat) 1 else floorCode 1 (2 ^ (-k).toNat)

/-- The least and the greatest FP32 magnitude within the bound of an exact result n / d, in units of the FP32
spacing there. -/
def Sfu.window (f : Sfu) (n d : Nat) : Nat × Nat :=
  let (lo, hi) :=
    if f.faithful then (floorCode n d, ceilCode n d)
    else
      let e := max (log2Frac n d) (-126) - 23
      let un := if 0 ≤ e then f.ulps * 2 ^ e.toNat else f.ulps
      let ud := if 0 ≤ e then 1 else 2 ^ (-e).toNat
      (if n * ud ≤ un * d then 0 else ceilCode (n * ud - un * d) (d * ud), floorCode (n * ud + un * d) (d * ud))
  (min lo 0x7F800000, min hi 0x7F800000)

/-- The exact results nearest to one of magnitude n / d, below and above it, of a function that rises with its
operand (R115, R116). -/
def Sfu.around (f : Sfu) (operandNeg : Bool) (n d : Nat) : Nat × Nat :=
  let one : Nat := 0x3F800000
  let inf : Nat := 0x7F800000
  match f with
  | .exp2 =>
    let k := log2Frac n d
    (powCode k, min inf (powCode (k + 1)))
  | .log2 => (floorCode (n / d) 1, floorCode (n / d + 1) 1)
  | .exp => if operandNeg then (0, one) else (one, inf)
  | .log => (0, inf)
  | .tanh => (0, one)
  | .sigm => if operandNeg then (0, 0x3F000000) else (0x3F000000, one)
  | .rcp | .rsq | .sqrt | .sinpi | .cospi => (0, inf)

/-- FP32 codes counted in order of value. -/
def orderKey (x : Nat) : Nat := if x < 2 ^ 31 then 2 ^ 31 + x else 2 ^ 32 - 1 - x
def keyCode (k : Nat) : Nat := if 2 ^ 31 ≤ k then k - 2 ^ 31 else 2 ^ 32 - 1 - k

/-- Two neighbouring places between which a property changes. -/
def bisect (p : Nat → Bool) : Nat → Nat → Nat → Nat × Nat
  | 0, a, b => (a, b)
  | n + 1, a, b =>
    let m := (a + b) / 2
    if p m = p a then bisect p n m b else bisect p n a m

/-- A magnitude below 2^k. -/
def belowPow (n d : Nat) (k : Int) : Bool :=
  if 0 ≤ k then decide (n < d * 2 ^ k.toNat) else decide (n * 2 ^ (-k).toNat < d)

/-- What a rising function's result at an operand of the binade next nearer to zero binds that of a later one to:
its least admitted magnitude. `s` is the sign of the results. -/
def Sfu.beside (f : Sfu) (s : Bool) (key : Nat) (k : Int) : Nat :=
  let at_ (y : Nat) : Val × Bool := f.exact (fp32.decode (keyCode y))
  let nearer (y : Nat) : Bool :=
    match (at_ y).1 with
    | .nan _ => true
    | .inf t => t != s
    | .num t n d => t != s || belowPow n d k
  let y := if s then (bisect nearer 33 key (2 ^ 32 - 1)).2 else (bisect nearer 33 0 key).1
  match at_ y with
  | (.num t n d, false) => if t = s then (f.window n d).1 else 0
  | (.num t n d, true) => if t = s then ceilCode n d else 0
  | (.inf _, _) | (.nan _, _) => 0

/-- R115: of the results between two bounds, in order of value, the greatest that the part gives from this operand
on, so that its results rise with their operands. -/
def Sfu.rising (f : Sfu) (key lo : Nat) : Nat → Nat
  | 0 => lo
  | n + 1 => if 2 ^ 32 ≤ key + Config.sfuCut f.code (lo + n + 1) then lo + n + 1 else f.rising key lo n

/-- The FP32 result. Where R115 and R116 fix it, that; elsewhere the part's own choice among the codes that R115
admits. DEDUCED, safe (log 15). -/
def sfuResult (f : Sfu) (x : Word) : Word :=
  match f.exact (fp32.decode x.toNat) with
  | (v, true) => .ofNat 32 (fp32.round .rn false 0 v)
  | (.num s n d, false) =>
    if (f == .exp2 || f == .exp) && n * 2 ^ 150 < d then .ofNat 32 (fp32.code s 0)
    else
      let (a, b) := f.window n d
      if !f.monotone then .ofNat 32 (fp32.code s (a + Config.sfuChoice f.code x % (b - a + 1)))
      else
        let k := log2Frac n d
        let around := f.around (decide (2 ^ 31 ≤ x.toNat)) n d
        let key := orderKey x.toNat
        let a := max a around.1
        -- the window widens where the binade of the results changes
        let a := if -126 ≤ k ∧ a < powCode k then max a (f.beside s key k) else a
        let b := max a (min b around.2)
        let lo := orderKey (fp32.code s (if s then b else a))
        .ofNat 32 (keyCode (f.rising key lo (b - a)))
  | (v, false) => .ofNat 32 (fp32.round .rn false 0 v)

end Sys2Proof.Machine
end

