-- ==== Sys2Proof/Machine/Flags.lean ====
section
/-! DEFINITION. Predicates, carries and comparisons: the guard (R71), the predicate file (R84), the carry
and borrow of IADDC and ISUBB (R140), and the compare codes of R144 and R158. The ZW48 keeps no other
flags. -/

namespace Sys2Proof.Machine

open Sys2Proof

/-- R84: p0 reads true. -/
def predOf (p : BitVec 16) (n : Nat) : Bool := n == 0 || p.getLsbD n

/-- R84: a write to p0 is discarded. -/
def setPred (p : BitVec 16) (n : Nat) (v : Bool) : BitVec 16 :=
  if n = 0 then p
  else if v then p ||| BitVec.ofNat 16 (2 ^ n) else p &&& ~~~ BitVec.ofNat 16 (2 ^ n)

/-- R71: the guard. -/
def guardOf (h : Hdr) (p : BitVec 16) : Bool := predOf p h.gp.toNat != h.gn

/-- R140: sum and carry. -/
def addCarry (a b : Word) (cin : Bool) : Word × Bool :=
  let t := a.toNat + b.toNat + cin.toNat
  (.ofNat 32 t, 2 ^ 32 ≤ t)

/-- R140: difference and borrow. -/
def subBorrow (a b : Word) (cin : Bool) : Word × Bool :=
  let t : Int := (a.toNat : Int) - b.toNat - cin.toNat
  (.ofInt 32 t, t < 0)

/-- R144. -/
def icmp {n : Nat} (c : ICmp) (a b : BitVec n) : Bool :=
  match c with
  | .eq => a == b
  | .ne => a != b
  | .lt => a.toInt < b.toInt
  | .le => a.toInt ≤ b.toInt
  | .gt => b.toInt < a.toInt
  | .ge => b.toInt ≤ a.toInt
  | .ltu => a.toNat < b.toNat
  | .leu => a.toNat ≤ b.toNat
  | .gtu => b.toNat < a.toNat
  | .geu => b.toNat ≤ a.toNat

/-- R144: codes 0 to 5 sign-extend an immediate, 6 to 9 zero-extend it. -/
def icmpSigned : ICmp → Bool
  | .eq | .ne | .lt | .le | .gt | .ge => true
  | .ltu | .leu | .gtu | .geu => false

end Sys2Proof.Machine
end

