-- ==== Sys2Proof/Machine/Lane.lean ====
section
/-! DEFINITION. Cross-lane results over the participants of a rendezvous (R147 to R149). -/

namespace Sys2Proof.Machine

open Sys2Proof

/-- R147: the source lane of SHFL. -/
def shflSource (mode : ShflMode) (wid width lane d : Nat) : Nat :=
  let w := min (2 ^ (6 - wid)) width
  let seg := lane - lane % w
  match mode with
  | .idx => seg + d % w
  | .up => if lane < seg + d then lane else lane - d
  | .down => if seg + w ≤ lane + d then lane else lane + d
  | .xor => seg + (lane ^^^ d) % w

/-- R148: a mask of the lanes that satisfy f. -/
def laneMask (l : List (Nat × Bool)) : Dword :=
  l.foldl (fun m e => if e.2 then m ||| BitVec.ofNat 64 (2 ^ e.1) else m) 0

/-- R148: VOTE for the lane `lane`, over participants in increasing lane order. -/
def voteResult (mode : VoteMode) (ps : List (Nat × Bool)) (lane : Nat) : Bool :=
  match mode with
  | .any => ps.any (·.2)
  | .all => ps.all (·.2)
  | .uni => ps.all (·.2) || ps.all (fun e => !e.2)
  | .elect => (ps.head?.map (·.1)) == some lane

/-- R149: the identity of an operation. -/
def ropIdentity : Rop → Word
  | .add | .maxu | .or | .xor => 0
  | .min => 0x7FFFFFFF
  | .max => 0x80000000
  | .minu | .and => 0xFFFFFFFF

/-- R119, R149: one combination. -/
def ropApply (r : Rop) (a b : Word) : Word :=
  match r with
  | .add => a + b
  | .min => if a.toInt ≤ b.toInt then a else b
  | .max => if a.toInt ≤ b.toInt then b else a
  | .minu => if a.toNat ≤ b.toNat then a else b
  | .maxu => if a.toNat ≤ b.toNat then b else a
  | .and => a &&& b
  | .or => a ||| b
  | .xor => a ^^^ b

def reduxResult (r : Rop) (ps : List (Nat × Word)) : Word :=
  ps.foldl (fun x e => ropApply r x e.2) (ropIdentity r)

/-- R149: SCAN for a lane, over participants in increasing lane order. -/
def scanResult (r : Rop) (excl : Bool) (ps : List (Nat × Word)) (lane : Nat) : Word :=
  reduxResult r (ps.filter fun e => if excl then e.1 < lane else e.1 ≤ lane)

end Sys2Proof.Machine
end

