-- ==== Sys2Proof/Machine/Tab.lean ====
section
/-! DEFINITION. Sparse tables in one canonical form: keys strictly rising, and no entry equal to
what an unlisted key reads as. Memory, register files, tile tables and every numbered set of units
are tables, so equal contents are equal data. -/

namespace Sys2Proof.Machine

/-- A sparse table from Nat keys. The value an unlisted key reads as is an argument of its reads
and writes. -/
abbrev Tab (α : Type) := List (Nat × α)

/-- The value at key `k`, `d` when the key is not listed. -/
def Tab.get {α : Type} (d : α) : Tab α → Nat → α
  | [], _ => d
  | (j, x) :: m, k => if j = k then x else Tab.get d m k

/-- The entry at key `k`, if one is listed. -/
def Tab.find {α : Type} : Tab α → Nat → Option α
  | [], _ => none
  | (j, x) :: m, k => if j = k then some x else Tab.find m k

/-- The table without key `k`. -/
def Tab.erase {α : Type} : Tab α → Nat → Tab α
  | [], _ => []
  | (j, x) :: m, k => if j = k then Tab.erase m k else (j, x) :: Tab.erase m k

/-- The table with `x` listed at `k`, before the first greater key. -/
def Tab.insert {α : Type} : Tab α → Nat → α → Tab α
  | [], k, x => [(k, x)]
  | (j, y) :: m, k, x =>
    if k < j then (k, x) :: (j, y) :: m
    else if j = k then (k, x) :: m
    else (j, y) :: Tab.insert m k x

/-- Writes `x` at `k`; writing what an unlisted key reads as removes the entry. -/
def Tab.set {α : Type} [DecidableEq α] (d : α) (m : Tab α) (k : Nat) (x : α) : Tab α :=
  if x = d then Tab.erase m k else Tab.insert m k x

/-- Lists `x` at `k`, whatever it is: for tables of units. -/
def Tab.put {α : Type} (m : Tab α) (k : Nat) (x : α) : Tab α := Tab.insert m k x

/-- Changes the value at `k` by `f`. -/
def Tab.mod {α : Type} [DecidableEq α] (d : α) (m : Tab α) (k : Nat) (f : α → α) : Tab α :=
  Tab.set d m k (f (Tab.get d m k))

/-- The listed keys, in increasing order. -/
def Tab.keys {α : Type} (m : Tab α) : List Nat := m.map (·.1)

/-- The listed values. -/
def Tab.vals {α : Type} (m : Tab α) : List α := m.map (·.2)

/-- Changes every listed value, keeping the keys. -/
def Tab.mapVals {α β : Type} (m : Tab α) (f : Nat → α → β) : Tab β := m.map fun e => (e.1, f e.1 e.2)

/-- Keeps the entries that satisfy `f`. -/
def Tab.keep {α : Type} (m : Tab α) (f : Nat → α → Bool) : Tab α := m.filter fun e => f e.1 e.2

/-- Writes a run of values at consecutive keys from `k`. -/
def Tab.setRun {α : Type} [DecidableEq α] (d : α) : Tab α → Nat → List α → Tab α
  | m, _, [] => m
  | m, k, x :: xs => Tab.setRun d (Tab.set d m k x) (k + 1) xs

/-- Reads `n` values at consecutive keys from `k`. -/
def Tab.getRun {α : Type} (d : α) (m : Tab α) (k n : Nat) : List α :=
  (List.range n).map fun i => Tab.get d m (k + i)

/-- The canonical form: keys strictly rising and no entry equal to `d`. -/
def Tab.wf {α : Type} [DecidableEq α] (d : α) : Tab α → Bool
  | [] => true
  | [(_, x)] => x != d
  | (j, x) :: (k, y) :: m => x != d && decide (j < k) && Tab.wf d ((k, y) :: m)

end Sys2Proof.Machine
end

