-- ==== Sys2Proof/Machine/State.lean ====
section
/-! DEFINITION. The state of the ZW48 as plain data: threads, skeins, blocks, activations, cores and
their compartment slots, contexts, virtual functions, partitions, memory and its caches, the fabric,
the windows, the launches and the boot record. Numbered sets of units are sparse tables. -/

namespace Sys2Proof.Machine

open Sys2Proof

/-! ### Waits -/

/-- What a thread waits to do in a rendezvous of its skein (R37, R75). Sources are read when the
thread reaches the instruction. -/
inductive Rdv where
  /-- Write of an s register, or of an s pair (R75), with the PC that follows, the rejoin register
  of an ENR (R76) and the predicate an IADDC or ISUBB also writes (R140). -/
  | sreg (d : Opd) (w64 : Bool) (v : Dword) (to_ : Dword) (enr : Option Nat)
      (pw : Option (BitVec 4 × Bool))
  /-- SWRITE of SR.HVEC or SR.UPEND (R136). -/
  | special (r : SReg) (v : Dword)
  | umask (v : Bool)
  | shfl (d : Opd) (mode : ShflMode) (wid : BitVec 3) (pv : BitVec 4) (a b : Word)
  | vote (d : Opd) (mode : VoteMode) (v : Bool)
  | ballot (d : Opd) (v : Bool)
  | matchL (d : Opd) (v : Dword)
  | redux (d : Opd) (rop : Rop) (v : Word)
  | scan (d : Opd) (rop : Rop) (excl : Bool) (v : Word)
  | gate (n : BitVec 8) (args res : BitVec 5)
  deriving DecidableEq, Repr

/-- Tile states (R242). -/
inductive TileState where
  | empty | filling | ready | draining
  deriving DecidableEq, Repr

/-- Why a thread is not eligible and will issue its instruction again (R82, R83, R244, R246, R275,
R343, R447): `empty` lists the full/empty bits it waits on, `tile` names the tile and the state it waits in,
`room` the engine context, `pass` the pass still going on, `heldAt` the line at whose home writes are held. -/
inductive Retry where
  | empty (l : List Nat) | tile (t : Nat) (st : TileState) | room (tc : Nat) | pass (p : Nat) | lag | heldLine | heldAt (pa : Nat)
  deriving DecidableEq, Repr

/-- What the operation of an instruction waits for before it completes: that a block or an activation asked to
park has done so (R302), or that an earlier access has been performed (R305): one of a queue pair, which a peer
answers, or a write held at a line's home. -/
inductive Await where
  | parked (b : Nat)
  | actParked (a : Nat)
  | answered (qpn psn : Nat)
  /-- No write of the line is held at its home (R447). -/
  | homed (loc : Nat)
  deriving DecidableEq, Repr

/-- An issued instruction of R302, R227 or R316: where its result goes, what it writes there once its operation
completes, what that waits for, the slot word that a CPGET reads then (core, slot and word), whether the wait is
a park point (R41), and whether the thread stands at one just after it, as it does when a HALT names its own
block (R308). -/
structure OpWait where
  d : Opd
  w64 : Bool
  v : Dword
  await : List Await
  get : Option (Nat × Nat × Nat)
  parks : Bool
  halts : Bool
  deriving DecidableEq, Repr

/-- The kinds of wait of a thread (R37, R39, R41, R49, R129 to R133, R234, R256, R302, R316, R447). -/
inductive Wait where
  | rdv (r : Rdv)
  | join (j : Nat)
  | bar
  | barg
  | barw
  /-- WAITTL: counter and threshold. -/
  | tl (tc : Nat) (thr : Nat) (scope : Scope)
  /-- WAITW: window, counter, threshold and, with a timeout, the SR.TIME at which it elapses. -/
  | win (w : Nat) (sent : Bool) (thr : Dword) (deadline : Option Nat) (d : Opd)
  /-- WAITPH: barrier address and phase left behind. -/
  | phase (addr : Nat) (ph : Nat)
  | nap (until_ : Nat)
  /-- An issued instruction whose operation has not completed (R227, R302, R316). -/
  | op (o : OpWait)
  /-- Standing before an interval-ending instruction, until the block's checkpoint (R54). -/
  | interval (i : Instr)
  /-- Standing before a store or atomic held for a pressure checkpoint (R203). -/
  | pressure
  | retry (why : Retry)
  deriving DecidableEq, Repr

/-- Where a thread stands. -/
inductive Status where
  /-- No thread of this number, or one that has executed EXIT. -/
  | gone
  | running
  | waiting (w : Wait)
  /-- Inside the activation of this number (R297). -/
  | inAct (a : Nat)
  deriving DecidableEq, Repr

/-- A value owed to a register, issued and not landed: g register 0 to 127, or predicate 128 + i
(R81, R83). -/
structure Owed where
  reg : Nat
  val : Word
  deriving DecidableEq, Repr

/-- An event of an instruction: trap, fault or abort, with the fields R416, R417 and R437 give its
record. -/
structure Ev where
  code : Nat
  arg : Nat
  addr : Nat
  synd : Nat
  deriving DecidableEq, Repr

/-- The state of a thread (R30), with the bookkeeping of yields, interrupts, traps and issue. -/
structure Thread where
  st : Status
  pc : Dword
  g : Tab Word
  empty : Tab Bool
  owed : List Owed
  p : BitVec 16
  yc : Nat
  icount : Dword
  lasty : Dword
  epc : Dword
  gtsel : BitVec 10
  clamp : Bool
  /-- Counted in `inside` of its skein and not yet vectored (R49). -/
  due : Bool
  /-- Counted in `inside` and vectored. -/
  vectored : Bool
  intrap : Bool
  /-- Directly after a YIELD whose guard was true (R41). -/
  yielded : Bool
  /-- Stopped at its boundary with this event, until the block resumes (R408, R414). -/
  stop : Option Ev
  /-- The next instruction does not hit the breakpoint at its own PC (R375). -/
  skipBp : Bool
  /-- Read position in each queue (R51). -/
  qpos : Tab Nat
  /-- QFENCEs performed (R52). -/
  qfences : Nat
  /-- Cycle at which it became ready, and cycle before which GAP holds it (R70, R324). -/
  ready : Nat
  gapUntil : Nat
  gaveWay : Bool
  /-- PC of its EXIT (R368). -/
  exitPc : Dword
  /-- SR.TIME and issue count at which its present or last wait began (R365). -/
  waitAt : Nat
  waitIc : Dword
  /-- Bytes that peers have answered for the instruction it stands at (R352). -/
  peer : Tab Byte
  /-- It stands before an instruction that it issues before any vectoring (R49). -/
  mustIssue : Bool
  deriving DecidableEq, Repr

/-- A thread number that names no thread. -/
def Thread.none : Thread :=
  { st := .gone, pc := 0, g := [], empty := [], owed := [], p := 0, yc := 0, icount := 0,
    lasty := 0, epc := 0, gtsel := 0, clamp := false, due := false, vectored := false,
    intrap := false, yielded := false, stop := Option.none, skipBp := false, qpos := [],
    qfences := 0, ready := 0, gapUntil := 0, gaveWay := false, exitPc := 0,
    waitAt := 0, waitIc := 0, peer := [], mustIssue := false }

/-- A thread at its block's start (R30). -/
def Thread.start (kpc : Dword) : Thread :=
  { Thread.none with st := .running, pc := kpc, yc := 4095 }

/-! ### Skeins -/

/-- One queue of a skein (R51): entries filled so far, and the lane values of each entry. -/
structure Queue where
  filled : Nat
  data : Tab (Tab Word)
  deriving DecidableEq, Repr

def Queue.none : Queue := { filled := 0, data := [] }

/-- The access slice of a skein (R50 to R53). -/
structure Slice where
  active : Bool
  pc : Dword
  s : Tab Word
  p : BitVec 16
  qfences : Nat
  /-- Standing at a QFENCE not yet met. -/
  fenceWait : Bool
  stop : Option Ev
  deriving DecidableEq, Repr

def Slice.none : Slice :=
  { active := false, pc := 0, s := [], p := 0, qfences := 0, fenceWait := false,
    stop := Option.none }

/-- The state of a skein (R30, R38, R48, R49, R51). -/
structure Skein where
  s : Tab Word
  enrolled : Tab (BitVec 64)
  arrived : Tab (BitVec 64)
  hvec : Dword
  upend : BitVec 4
  masked : Bool
  inside : Nat
  /-- SR.UPEND at the last delivery (R377). -/
  delivered : BitVec 4
  queues : Tab Queue
  slice : Slice
  deriving DecidableEq, Repr

/-- A skein at its block's start (R30): user interrupts masked, all else zero. -/
def Skein.start : Skein :=
  { s := [], enrolled := [], arrived := [], hvec := 0, upend := 0, masked := true, inside := 0, delivered := 0,
    queues := [], slice := Slice.none }

/-! ### Tiles, tensor identifiers, the matrix engine, engine commands -/

/-- The stamp accumulator of a tile (R365). -/
structure Stamp where
  fills : Option Nat
  fille : Option Nat
  waits : Option Nat
  comps : Option Nat
  compe : Option Nat
  drns : Option Nat
  drne : Option Nat
  bytes : Nat
  ksteps : Nat
  refused : Bool
  kept : Bool
  moved : Bool
  deriving DecidableEq, Repr

def Stamp.clear : Stamp :=
  { fills := none, fille := none, waits := none, comps := none, compe := none, drns := none,
    drne := none, bytes := 0, ksteps := 0, refused := false, kept := false, moved := false }

/-- A tile entry (R242). `readers` counts the commands that read it and hold off its retirement
(R268, R343); `taken` is the delivery an armed tile has accepted. -/
structure Tile where
  st : TileState
  rx : Bool
  swz : Nat
  gen : Nat
  vrows : Nat
  base : Nat
  rows : Nat
  pitch : Nat
  readers : Nat
  taken : Bool
  stamp : Stamp
  deriving DecidableEq, Repr

def Tile.none : Tile :=
  { st := .empty, rx := false, swz := 0, gen := 0, vrows := 0, base := 0, rows := 0, pitch := 0,
    readers := 0, taken := false, stamp := Stamp.clear }

/-- A tensor identifier entry (R239): its 64-byte image, whether XDEF found it valid, and the code
of the last XDEF. -/
structure Tid where
  img : BitVec 512
  valid : Bool
  code : Nat
  deriving DecidableEq, Repr

def Tid.none : Tid := { img := 0, valid := false, code := 0 }

/-- A matrix buffer record (R260), with the tile and generation its last fill came from (R365). -/
structure BufRec where
  rows : Nat
  pitch : Nat
  src : Option (Nat × Nat)
  deriving DecidableEq, Repr

def BufRec.none : BufRec := { rows := 0, pitch := 0, src := Option.none }

/-- The k-steps accumulated into an accumulator since its last MSTA, MZERO or block start (R365). -/
structure AccRec where
  comps : Option Nat
  compe : Option Nat
  ksteps : Nat
  deriving DecidableEq, Repr

def AccRec.none : AccRec := { comps := Option.none, compe := Option.none, ksteps := 0 }

/-- The region group of a shuttle command (R247): start coordinates and box extents. -/
structure Region where
  c : List Int
  b : List Nat
  deriving DecidableEq, Repr

/-- What an engine command does (R204, R219, R233, R236, R246, R266 to R272, R343). -/
inductive CmdKind where
  | tload (mode : LoadMode) (tile : Nat) (tid : BitVec 512) (r : Region) (bar : Option Nat)
      (idx : List Word)
  | tstore (keep : Bool) (tile : Nat) (tid : BitVec 512) (r : Region)
  | tloadb (buf : Nat) (tid : BitVec 512) (r : Region) (bar : Option Nat)
  | tmcast (tile : Nat) (tid : BitVec 512) (r : Region) (mask : Dword) (bar : Option Nat)
  | rsum (pass : Nat) (stop : Nat) (src res : Nat)
  /-- The parameter block, its address, and the tensor identifiers of A and B as found at issue. -/
  | mma (addr : Nat) (pb ta tb : BitVec 512)
  | mzero (acc : Nat)
  | mprom (acc : Nat)
  | mlda (tile : Nat) (scale : Option Nat) (buf : Nat)
  | mldb (tile : Nat) (scale : Option Nat) (buf : Nat)
  | msta (acc : Nat) (nr nc : Nat) (rm : Rm) (sat : Bool) (swz : Nat) (tile : Nat)
      (scale : Option Nat) (ofmt : Elem)
  | mread (acc idx : Nat) (reg : Nat)
  | mwrite (acc idx : Nat) (v : Word)
  | fetchpg (loc : Nat) (leafPa : Nat) (leaf : Dword)
  | put (sig ord : Bool) (src : Nat) (off len : Nat) (win : Nat)
  | get (ord : Bool) (dst : Nat) (off len : Nat) (win : Nat)
  | postc (src : Nat) (k : Nat) (win : Nat)
  deriving DecidableEq, Repr

/-- A destination of a multicast (R252): the block, the generation noted at its first landing, and
whether it has refused. -/
structure McDest where
  blk : Nat
  gen : Option Nat
  refused : Bool
  landed : Nat
  deriving DecidableEq, Repr

/-- An engine command that has not completed, issued on a context of a slot of a core. `beat` is an MMA's
progress in k-steps; `fresh` says that it was
issued since the block's last checkpoint, `heldCommit` that it starts at the next commit (R252,
R344); `msum` holds the in-array sums of a captured MMA between promotions (R276), or the sectors a
multicast has read (R252). -/
structure Cmd where
  tc : Nat
  num : Nat
  kind : CmdKind
  thr : Nat
  pc : Dword
  wid : Dword
  icount : Dword
  ctx : Nat
  core : Nat
  slot : Nat
  /-- Issued inside an activation (R298). -/
  inner : Bool
  nt : Bool
  beat : Nat
  /-- Landings not yet performed, by number. -/
  left : List Nat
  started : Bool
  fresh : Bool
  heldCommit : Bool
  sent : Bool
  mc : List McDest
  msum : Tab Word
  /-- Bytes that peers have answered for it: a GET's by remote offset, others at
  2^64 + 2^40 × window + offset (R352). -/
  got : Tab Byte
  deriving DecidableEq, Repr

/-- The status of a block's commands on one context (R245). -/
structure CtxStat where
  refused : Nat
  status : Nat
  deriving DecidableEq, Repr

def CtxStat.none : CtxStat := { refused := 0, status := 0 }

/-! ### Blocks and activations -/

/-- The state of a block that checkpoints, saves and rollbacks carry (R30, R55, R238, R259). -/
structure Body where
  threads : Tab Thread
  skeins : Tab Skein
  scratch : Tab Byte
  tiles : Tab Tile
  tids : Tab Tid
  /-- Accumulator element e of aN at key 4096 N + e. -/
  acc : Tab Word
  /-- Buffer bytes: data of buffer n at 2^16 n, its scales at 2^16 n + 2^15 + 2^12. -/
  bufs : Tab Byte
  bufRecs : Tab BufRec
  accRecs : Tab AccRec
  cmds : List Cmd
  ctxStat : Tab CtxStat
  deriving DecidableEq, Repr

def Body.none : Body :=
  { threads := [], skeins := [], scratch := [], tiles := [], tids := [], acc := [], bufs := [],
    bufRecs := [], accRecs := [], cmds := [], ctxStat := [] }

/-- A timeline counter (R132, R204): commands numbered so far, the completed prefix, and the numbers
completed beyond it. -/
structure Tc where
  issued : Nat
  done : Nat
  extra : List Nat
  deriving DecidableEq, Repr

def Tc.none : Tc := { issued := 0, done := 0, extra := [] }

/-- Where a block stands. -/
inductive BlockState where
  | absent | resident | saved | ended
  deriving DecidableEq, Repr

/-- Why a block is asked to park (R41, R54, R308, R326): `leave` is to halt and then to be saved. -/
inductive ParkWhy where
  | none | interval | period | pressure | halt | save | leave
  deriving DecidableEq, Repr

/-- A block. Provisional bytes are keyed by location: 2^55 × ASID + address (R175, R202). -/
structure Block where
  st : BlockState
  body : Body
  launch : Nat
  ident : Dword
  index : Nat
  core : Nat
  slot : Nat
  regs : Nat
  spBase : Nat
  prov : Tab Byte
  /-- Provisional bytes landed since the last checkpoint by commands issued before it, which a rollback
  keeps (R55). -/
  keep : Tab Byte
  /-- Lines a CWB has marked to be written through at the commit (R226). -/
  marked : List Nat
  ckpt : Body
  park : ParkWhy
  /-- The block's state has been captured and its checkpoint has not been committed yet. -/
  captured : Bool
  halted : Bool
  /-- A HALT has named the block and it has not halted yet, whatever moves it meanwhile (R308). -/
  haltNext : Bool
  /-- Fault records of this block that wait for room in the hold (R411). -/
  pending : List (List Byte)
  /-- Trace records that wait for the block's commit (R363). -/
  traces : List (List Byte)
  /-- A RESUME kept until they have entered it (R411). -/
  resumeNext : Bool
  /-- A CROLL kept likewise, with its STAY. -/
  crollNext : Option Bool
  /-- A HALT instruction's stop that is still to be recorded (R375). -/
  dbgHalt : Bool
  /-- The timeline counters of its slot when it left it (R204). -/
  tcs : Tab Tc
  hang : Nat
  /-- Running time in ns since its last checkpoint, and the period in µs in force for it (R291, R326). -/
  runTime : Nat
  period : Nat
  rolled : Bool
  homeAt : Nat
  /-- The fields whose DRAM holds its checkpoint image or halt image, and that every copy is lost (R452, R466). -/
  images : List Nat
  imageLost : Bool
  deriving DecidableEq, Repr

def Block.none : Block :=
  { st := .absent, body := Body.none, launch := 0, ident := 0, index := 0, core := 0, slot := 0,
    regs := 0, spBase := 0, prov := [], keep := [], marked := [], ckpt := Body.none, park := .none,
    captured := false, halted := false, haltNext := false, pending := [], traces := [], resumeNext := false, crollNext := Option.none,
    dbgHalt := false, tcs := [],
    hang := 0, runTime := 0, period := 0, rolled := false, homeAt := 0, images := [], imageLost := false }

/-- What the caller of an activation gets back (R299). -/
structure Caller where
  retPc : Dword
  deriving DecidableEq, Repr

/-- An activation (R297 to R300): the callee's threads keep the caller's thread numbers. -/
structure Act where
  live : Bool
  /-- Admitted: its register entries are held (R297). -/
  entered : Bool
  blk : Nat
  skein : Nat
  ctx : Nat
  core : Nat
  slot : Nat
  gate : Nat
  args : Nat
  res : Nat
  frame : Nat
  entry : Dword
  spBase : Nat
  spLen : Nat
  threads : Tab Thread
  callers : Tab Caller
  sk : Skein
  halted : Bool
  /-- Its entry transfer has been made. -/
  begun : Bool
  /-- A park asked of it (R300). -/
  park : ParkWhy
  deriving DecidableEq, Repr

def Act.none : Act :=
  { live := false, entered := false, blk := 0, skein := 0, ctx := 0, core := 0, slot := 0,
    gate := 0, args := 0, res := 0, frame := 0, entry := 0, spBase := 0, spLen := 0, threads := [],
    callers := [], sk := Skein.start, halted := false, begun := false, park := .none }

/-! ### Cores, slots, contexts -/

/-- A compartment slot (R290) with its engine contexts, and the scratchpad bytes of its space outside its
blocks', by bank and row (R193, R298). -/
structure CSlot where
  w0 : Dword
  w1 : Dword
  w2 : Dword
  w3 : Dword
  tcs : Tab Tc
  starve : Nat
  spad : Tab Byte
  /-- SR.TIME at which its present slice began (R326). -/
  since : Nat
  /-- The context it gives way to (R326), 0 for none. -/
  next : Nat
  deriving DecidableEq, Repr

def CSlot.none : CSlot := { w0 := 0, w1 := 0, w2 := 0, w3 := 0, tcs := [], starve := 0, spad := [], since := 0, next := 0 }

/-- A core (R12, R14): its slots, fetched lines (R67) and sampling rotation. -/
structure Core where
  slots : Tab CSlot
  /-- Fetched lines, keyed by 2^51 × ASID + line number. -/
  lines : Tab (BitVec 512)
  /-- Those of them that failed their check twice (R422). -/
  failed : List Nat
  lastServed : Nat
  /-- Samples taken, by virtual function (R367). -/
  sampleRot : Tab Nat
  /-- SR.TIME of its uncorrectable errors (R465). -/
  errs : List Nat
  /-- The slot from which the next access slice is looked for, and in each slot the first slice looked at, as
  64 × block + skein (R325). -/
  sliceSlot : Nat
  sliceRot : Tab Nat
  /-- SR.TIME of the last step in which a block was resident on it (R282). -/
  busyAt : Nat
  deriving DecidableEq, Repr

def Core.none : Core :=
  { slots := [], lines := [], failed := [], lastServed := 0, sampleRot := [], errs := [], sliceSlot := 0, sliceRot := [], busyAt := 0 }

/-- A snapshot range (R206, R287): the ASID and the lines it covers. -/
structure Range where
  asid : Nat
  base : Nat
  len : Nat
  deriving DecidableEq, Repr

/-- An open snapshot level (R206, R228). -/
structure Level where
  scope : Scope
  ranges : List Range
  deriving DecidableEq, Repr

/-- A debug entry (R373). -/
structure Dbg where
  addr : Dword
  w1 : Dword
  deriving DecidableEq, Repr

def Dbg.none : Dbg := { addr := 0, w1 := 0 }

/-- A context (R285, R288, R290, R373, R376, R461). -/
structure Ctx where
  live : Bool
  vf : Nat
  part : Nat
  priv : Nat
  maxsc : Nat
  drain : Bool
  ckper : Nat
  /-- ASID held by each address-space slot; slots 1 to 3 are bound when their `av` bit is set. -/
  asids : Tab Nat
  av : BitVec 3
  aro : BitVec 3
  levels : List Level
  dbg : Tab Dbg
  bken : Bool
  logMode : Nat
  logBase : Nat
  logLen : Nat
  hangExp : Nat
  /-- The slot template kept by Tolquel: words 1 and 2 of R290 (R322). -/
  tmpl1 : Dword
  tmpl2 : Dword
  /-- The engine contexts of the slots it has left, by core (R204), and the scratchpad bytes of its parked
  activations there (R300). -/
  tcs : Tab (Tab Tc)
  spads : Tab (Tab Byte)
  deriving DecidableEq, Repr

def Ctx.none : Ctx :=
  { live := false, vf := 0, part := 0, priv := 0, maxsc := 0, drain := false, ckper := 0,
    asids := [], av := 0, aro := 0, levels := [], dbg := [], bken := false, logMode := 0,
    logBase := 0, logLen := 0, hangExp := 0, tmpl1 := 0, tmpl2 := 0, tcs := [], spads := [] }

/-- An ASID table entry (R286). -/
structure AsidEnt where
  root : Nat
  live : Bool
  shared : Bool
  part : Nat
  vf : Nat
  owner : Nat
  deriving DecidableEq, Repr

def AsidEnt.none : AsidEnt :=
  { root := 0, live := false, shared := false, part := 0, vf := 0, owner := 0 }

/-! ### Virtual functions, windows, queue pairs, partitions -/

/-- A window of a virtual function (R205, R310, R350) with its counters. -/
structure Win where
  w0 : Dword
  w1 : Dword
  w2 : Dword
  w3 : Dword
  w4 : Dword
  w5 : Dword
  landed : Dword
  sent : Dword
  consumed : Dword
  post : Dword
  /-- A WIN-FREE waits for the window's commands (R353). -/
  closing : Bool
  deriving DecidableEq, Repr

def Win.none : Win :=
  { w0 := 0, w1 := 0, w2 := 0, w3 := 0, w4 := 0, w5 := 0, landed := 0, sent := 0, consumed := 0,
    post := 0, closing := false }

/-- A trace or fault ring (R362, R363, R411). `state` is the STATE of the header. -/
structure Ring where
  base : Nat
  n : Nat
  wr : Nat
  drop : Nat
  state : Nat
  deriving DecidableEq, Repr

def Ring.none : Ring := { base := 0, n := 0, wr := 0, drop := 0, state := 0 }

/-- A virtual function (R284, R319, R326, R362, R411). DESIGN CHOICE, safe (log 4). -/
structure Vf where
  live : Bool
  part : Nat
  steward : Nat
  weight : Nat
  quantum : Nat
  period : Nat
  wins : Tab Win
  trace : Ring
  enables : Nat
  sampleK : Nat
  fault : Ring
  /-- Fault records that wait for room (R411). -/
  hold : List (List Byte)
  /-- Launches accepted since creation (R319). -/
  launches : Nat
  vtime : Nat
  /-- Requests landed at Tolquel and not performed (R288), and requests replied to. -/
  requests : List (List Byte)
  replies : Nat
  deriving DecidableEq, Repr

def Vf.none : Vf :=
  { live := false, part := 0, steward := 0, weight := 0, quantum := 0, period := 0, wins := [],
    trace := Ring.none, enables := 0, sampleK := 0, fault := Ring.none, hold := [], launches := 0,
    vtime := 0, requests := [], replies := 0 }

/-- An outstanding operation of a queue pair (R347). -/
structure OutOp where
  psn : Nat
  blk : Nat
  num : Nat
  /-- 0 write of a window command, 1 read of a GET, 2 record of the launch in `num`, 3 thread load, 4
  thread store, 5 queue lane, 7 thread atomic, 8 fetch of a page, 9 nothing waits, 10 read and 11 write of
  an engine command in a remote window, 12 read for the instruction a thread stands at, 13 read or
  atomic and 14 write for the inbound request in `num`. -/
  kind : Nat
  thr : Nat
  reg : Nat
  deriving DecidableEq, Repr

/-- A RoCEv2 queue pair (R347, R353). -/
structure Qp where
  live : Bool
  vf : Nat
  port : Nat
  prio : Nat
  ip : BitVec 128
  peer : Nat
  sendPsn : Nat
  recvPsn : Nat
  err : Bool
  tries : Nat
  rnr : Nat
  /-- Sending rate as a fraction of the port's, in 1/1024ths. -/
  rate : Nat
  out : List OutOp
  deriving DecidableEq, Repr

def Qp.none : Qp :=
  { live := false, vf := 0, port := 0, prio := 0, ip := 0, peer := 0, sendPsn := 0, recvPsn := 0,
    err := false, tries := 0, rnr := 0, rate := 1024, out := [] }

/-- A counter of a partition (R370, R371). -/
structure Ctr where
  cfg : Dword
  val : Dword
  deriving DecidableEq, Repr

def Ctr.none : Ctr := { cfg := 0, val := 0 }

def PartField.none : PartField :=
  { clus := 0, clusm := 0, clush := 0, bank := 0, bankm := 0, bankh := 0, chsh := 0, fcsh := 0,
    fstore := 0, shadow := 0, ethsh := 0 }

/-- A hard partition (R278 to R281, R295, R370). Gate word w of entry n stands at key 4n + w. -/
structure Partition where
  live : Bool
  lendTo : Nat
  borrow : Nat
  gen : Dword
  fields : Tab PartField
  gates : Tab Dword
  ctrs : Tab Ctr
  /-- The fields of a resize that waits for the blocks on the units it gives up. -/
  goal : Option (List (Nat × PartField))
  deriving DecidableEq, Repr

def Partition.none : Partition :=
  { live := false, lendTo := 0xFF, borrow := 0xFF, gen := 0, fields := [], gates := [], ctrs := [], goal := Option.none }

/-! ### Launches -/

/-- An accepted packet (R311, R312, R318, R469): its journal entry, and the progress of its
dispatch. -/
structure Launch where
  live : Bool
  /-- The packet as sixteen 64-bit words. -/
  pkt : List Dword
  vf : Nat
  win : Nat
  ctx : Nat
  seq : Nat
  lnum : Nat
  landed : Bool
  /-- 0 accepted, 1 dispatched, 2 complete, 3 record landed. -/
  state : Nat
  status : Nat
  detail : Nat
  failed : List Dword
  tacc : Nat
  tend : Nat
  /-- Core and slot of the LAUNCH, for timeline dependences (R314). -/
  core : Nat
  slot : Nat
  /-- Blocks placed so far, in linear index order, and blocks ended. -/
  placed : Nat
  ended : Nat
  recorded : Bool
  acked : Bool
  postK : Nat
  /-- Fields whose barrier unit has reported for BARW, and the barrier number held (R340). -/
  barw : BitVec 48
  barNum : Nat
  /-- 0 no log, 1 recording, 2 replaying (R376), with the log's base, length and entry count. -/
  logOn : Nat
  logBase : Nat
  logLen : Nat
  logN : Nat
  /-- Atomics applied so far to each 32-byte sector, by location / 32 (R377). -/
  logSeq : Tab Nat
  /-- Entries of the replayed log not yet matched (R378). -/
  replay : List (List Byte)
  /-- Launches of the window that this fence holds have been released (R313). -/
  met : Bool
  /-- Blocks not yet started that a HALT has named (R308). -/
  haltIds : List Dword
  /-- A HALT has named all that have not started, and the blocks a RESUME has named since. -/
  haltRest : Bool
  haltNot : List Dword
  /-- The fields whose DRAM holds a copy of its journal entry (R311). -/
  journal : List Nat
  deriving DecidableEq, Repr

def Launch.none : Launch :=
  { live := false, pkt := [], vf := 0, win := 0, ctx := 0, seq := 0, lnum := 0, landed := false,
    state := 0, status := 0, detail := 0, failed := [], tacc := 0, tend := 0, core := 0, slot := 0,
    placed := 0, ended := 0, recorded := false, acked := false, postK := 0, barw := 0, barNum := 0,
    logOn := 0, logBase := 0, logLen := 0, logN := 0, logSeq := [], replay := [], met := false,
    haltIds := [], haltRest := false, haltNot := [], journal := [] }

/-! ### Memory, caches, fabric -/

/-- Memory as cells (R180): an unlisted byte of storage reads zero. -/
abbrev Memory := List Host.Cell

/-- A line copy in a cluster cache (R331): 0 S, 1 E, 2 M; its dirty bytes, a sector being dirty when one of
its bytes is; the replacement priority (R191) and the step of its last use; the self-invalidating loads that
read it, as block, thread and scope (R187); the bytes of a class 0 copy; and the predictor counter of the
atomic that acquired it, until a second one is performed on it (R336). DEDUCED, unsafe (log 25). -/
structure CLine where
  st : Nat
  dirty : BitVec 128
  prio : Nat
  used : Nat
  selfInv : List (Nat × Nat × Nat)
  data : Option (List Byte)
  forAtom : Option Nat
  deriving DecidableEq, Repr

def CLine.none : CLine :=
  { st := 3, dirty := 0, prio := 0, used := 0, selfInv := [], data := Option.none, forAtom := Option.none }

/-- A line held in an L0, an L2 slice or a field cache (R182): its replacement priority (R191), the step of
its last use, and the bytes of a class 0 line. -/
structure Copy where
  prio : Nat
  used : Nat
  data : Option (List Byte)
  deriving DecidableEq, Repr

def Copy.none : Copy := { prio := 0, used := 0, data := Option.none }

/-- A field directory entry (R332): OWN i as 64 + cluster in `own`, 0 when not valid. -/
structure FDir where
  shr : BitVec 48
  own : Tab Nat
  sec : BitVec 3
  gr : BitVec 4
  /-- The step of its last use: entries are replaced least recently used first. -/
  used : Nat
  deriving DecidableEq, Repr

def FDir.none : FDir := { shr := 0, own := [], sec := 0, gr := 0, used := 0 }

/-- A sparse directory entry at the home slice (R332). -/
structure SDir where
  fsh : BitVec 48
  fown : Tab Nat
  used : Nat
  deriving DecidableEq, Repr

def SDir.none : SDir := { fsh := 0, fown := [], used := 0 }

/-- A peer predictor entry (R335). -/
structure PeerPred where
  valid : Bool
  cluster : Nat
  conf : Nat
  deriving DecidableEq, Repr

def PeerPred.none : PeerPred := { valid := false, cluster := 0, conf := 0 }

/-- The fabric: line copies, directories, predictors, route tables and
the granule access counts of the placement engines (R182, R328 to R337). Cluster lines are keyed by
2^64 × wafer cluster + line location / 128. -/
structure Fabric where
  clines : Tab CLine
  /-- L0 lines, by 2^64 × (4 × core + slot) + line: the cluster filter's mask is read off them (R331). -/
  l0 : Tab Copy
  /-- L2 lines, by 2^64 × (24 × field + slice) + line (R330). -/
  l2 : Tab Copy
  /-- Field-cache lines, by 2^64 × field + line (R195). -/
  fcache : Tab Copy
  fdir : Tab FDir
  sdir : Tab SDir
  peer : Tab PeerPred
  atom : Tab Nat
  /-- Direction 1 N, 2 E, 3 S, 4 W of the route from field a to b at 48 a + b; 0 none. -/
  route : Tab Nat
  hops : Tab Nat
  access : Tab Nat
  /-- SR.TIME of the uncorrectable errors of a cluster's cache (R465), by wafer cluster. -/
  errs : Tab (List Nat)
  deriving DecidableEq, Repr

def Fabric.none : Fabric :=
  { clines := [], l0 := [], l2 := [], fcache := [], fdir := [], sdir := [], peer := [], atom := [],
    route := [], hops := [], access := [], errs := [] }

/-- A frame of the frame table (R184, R453): its canonical address, whether it is retired, and
whether a page holds it. -/
structure Frame where
  canon : Option Nat
  retired : Bool
  used : Bool
  deriving DecidableEq, Repr

def Frame.none : Frame := { canon := Option.none, retired := false, used := false }

/-- A write held at a home for lack of shadow room, or behind one that is (R447): the line, the
bytes by offset within it, the open level that needs the shadow and the writer. -/
structure Held where
  pa : Nat
  loc : Nat
  bytes : List (Nat × Byte)
  owner : Nat
  level : Nat
  field : Nat
  ctx : Nat
  blk : Option Nat
  thr : Nat
  deriving DecidableEq, Repr

/-- A shadow of a line (R207): the home field whose pool holds it, the line's address and its
contents. -/
structure Shadow where
  field : Nat
  pa : Nat
  bytes : List Byte
  deriving DecidableEq, Repr

/-- A TLB entry (R183): the leaf, its level and where it stands. -/
structure TlbEnt where
  leaf : Dword
  lvl : Nat
  epa : Nat
  deriving DecidableEq, Repr

/-- A granule's placement (R181, R183, R337, R339). -/
structure Granule where
  home : Nat
  pinned : Bool
  migrating : Bool
  lastMove : Nat
  deriving DecidableEq, Repr

/-- A 512 MiB leaf that a walk has used: the field its granules were first homed in, and its FRAME, whose
offsets are reserved in every field that homes a granule of it (R181, R337). -/
structure BigLeaf where
  home : Nat
  frame : Nat
  deriving DecidableEq, Repr

/-- A ring-sum packet in flight (R343). -/
structure RPacket where
  q : Nat
  stop : Nat
  /-- On the return leg to `stop`. -/
  ret : Bool
  words : List Word
  deriving DecidableEq, Repr

/-- One stop of a pass: its block and command once it has issued, and the packets it has sent on and
landed. -/
structure RStop where
  issued : Bool
  blk : Nat
  num : Nat
  digest : Word
  sentq : Nat
  landq : Nat
  done : Bool
  deriving DecidableEq, Repr

def RStop.none : RStop :=
  { issued := false, blk := 0, num := 0, digest := 0, sentq := 0, landq := 0, done := false }

/-- A ring-sum pass (R343, R344). `live` is false once it is broken and its cancellation is due. -/
structure Pass where
  live : Bool
  ctx : Nat
  addr : Nat
  num : Word
  desc : List Byte
  stops : List RStop
  packets : List RPacket
  deriving DecidableEq, Repr

def Pass.none : Pass :=
  { live := false, ctx := 0, addr := 0, num := 0, desc := [], stops := [], packets := [] }

/-! ### The module -/

/-- A field as the topology table publishes it (R23, R483), with its throttle (R29). -/
structure Field where
  state : Nat
  cores : BitVec 192
  clusters : BitVec 48
  linkUp : BitVec 4
  linkFailed : BitVec 4
  chan : BitVec 8
  sect : BitVec 3
  slices : BitVec 24
  banks : BitVec 192
  frames : Nat
  fcache : Nat
  retired : Nat
  throttled : Bool
  deriving DecidableEq, Repr

/-- A field before its start. -/
def Field.none : Field :=
  { state := 2, cores := 0, clusters := 0, linkUp := 0, linkFailed := 0, chan := 0, sect := 0,
    slices := 0, banks := 0, frames := 0, fcache := 0, retired := 0, throttled := false }

/-- An empty image slot. -/
def Image.none : Image := { bytes := [], key := [], version := 0, signed := [] }

/-- What the module sends out: a frame of a queue pair (R347), or a report to the operator. -/
inductive OutMsg where
  | write (qpn psn : Nat) (key : Word) (addr : Nat) (data : List Byte) (imm : Option Nat)
  | read (qpn psn : Nat) (key : Word) (addr : Nat) (len : Nat)
  | atomic (qpn psn : Nat) (key : Word) (addr : Nat) (swap : Bool) (v cmp : Dword)
  | reply (qpn : Nat) (data : List Byte)
  | ack (qpn : Nat)
  | nak (qpn : Nat)
  | cnp (qpn : Nat)
  | attest (report : List Byte)
  deriving DecidableEq, Repr

/-- An Ethernet port (R25, R484) with the priorities its peer has paused, and the messages that wait for them
(R346). IEEE 802.3 PAUSE, on a management port, is priority 0. -/
structure Port where
  lanes : BitVec 8
  up : Bool
  failed : Bool
  paused : BitVec 8
  mac : BitVec 48
  queued : List (Nat × OutMsg)
  deriving DecidableEq, Repr

def Port.none : Port := { lanes := 0, up := false, failed := false, paused := 0, mac := 0, queued := [] }

/-- A device event record (R468). -/
structure DevEvent where
  time : Nat
  gen : Dword
  unit : UnitId
  code : Nat
  nroll : Nat
  nfail : Nat
  nret : Nat
  deriving DecidableEq, Repr

/-- The boot record in the external flash (R357). -/
structure Boot where
  magic : Word
  attempts : Nat
  mode : Nat
  cause : Nat
  cfield : Nat
  imgsel : Nat
  imgok : Nat
  steps : BitVec 16
  tstart : Dword
  tdone : Dword
  pkgid : Nat
  deriving DecidableEq, Repr

/-- The boot record at its reset values (R357). -/
def Boot.fresh : Boot :=
  { magic := 0x5A425231, attempts := 0, mode := 0, cause := 0, cfield := 0xFF, imgsel := 0,
    imgok := 0xFF, steps := 0, tstart := 0, tdone := 0, pkgid := 0 }

/-- The execution group a pick issues from: a block, an activation, or a skein's access slice. -/
inductive Grp where
  | blk (b : Nat)
  | act (a : Nat)
  | slice (b k : Nat)
  deriving DecidableEq, Repr

/-- The unit of which two slots of a co-issue group may not both need the same one (R64). -/
inductive CoUnit where
  | none | memory | engine | sfu
  deriving DecidableEq, Repr

/-- What the first slot of a co-issue group has written, against which the second is checked (R64): registers by
number, predicates at 128, queue positions at 256 and s registers at 512; and its unit. -/
structure CoWrite where
  keys : List Nat
  unit : CoUnit
  deriving DecidableEq, Repr

/-- How a pick issues (R64): one slot, the first slot of a co-issue group, or its second. -/
inductive CoMode where
  | single | first | second (w : CoWrite)
  deriving DecidableEq, Repr

/-- The pick that issues (R35): its group and its threads by number 64 × skein + lane, in the order
of R212; the threads of other activations of the block that issue with it, and its mode. -/
structure Pick where
  grp : Grp
  thrs : List Nat
  more : List (Grp × List Nat) := []
  co : CoMode := .single
  deriving DecidableEq, Repr

def Pick.none : Pick := { grp := .blk 0, thrs := [] }

/-- The operations of a responder (R347). -/
inductive ReqKind where
  | write | writeImm | read | add | swap
  deriving DecidableEq, Repr

/-- An inbound request whose service is not over (R348, R352, R447): whether it has been performed but for what is
held at a home or asked of peers, the bytes at hand, and those that peers have answered. -/
structure Served where
  kind : ReqKind
  r : InReq
  sent : Bool
  data : List Byte
  got : Tab Byte
  deriving DecidableEq, Repr

/-- The whole device. -/
structure State where
  /-- The supply is on and a start has completed. -/
  powered : Bool
  running : Bool
  /-- The BMC holds the module off until the operator clears ATTEMPTS (R475). -/
  lockedOff : Bool
  /-- A start is under way and has not come to its end (R355). -/
  starting : Bool
  /-- The module runs in minimal mode: MODE of the topology table (R22, R474). -/
  minimal : Bool
  boot : Boot
  imageA : Image
  imageB : Image
  /-- The image that runs, none where none has verified (R356, R474). -/
  image : Option Image
  /-- The fuses of the 48 fields, none before the module's first start. -/
  fuses : List Fuse
  lead : Nat
  topoGen : Dword
  topoTime : Nat
  fields : Tab Field
  ports : Tab Port
  mgmt : Tab Port
  /-- SR.TIME (R354), and the steps the model has taken. -/
  time : Nat
  cycle : Nat
  /-- SR.CLOCK (R86): the cycles of the cores since the start-up. -/
  clock : Dword
  ptpLocked : Bool
  /-- Correction still to be slewed into SR.TIME (R354). -/
  slew : Int
  parts : Tab Partition
  /-- Margin units being revoked, with the SR.TIME of the start (R283): 512 × field + cluster, or
  512 × field + 256 + bank. -/
  revokes : Tab Nat
  vfs : Tab Vf
  ctxs : Tab Ctx
  asids : Tab AsidEnt
  cores : Tab Core
  blocks : Tab Block
  acts : Tab Act
  launches : Tab Launch
  qps : Tab Qp
  passes : Tab Pass
  mem : Memory
  /-- Write-generation of a 128-byte line, keyed by PA / 128 (R11). -/
  wgen : Tab Nat
  /-- Shadows: 2^96 × context + 2^93 × level + line location / 128 gives the line's shadow. -/
  shadows : Tab Shadow
  held : List Held
  /-- TLB entries: 2^39 × ASID + page number gives the leaf (R183). -/
  tlb : Tab TlbEnt
  frames : Tab Frame
  granules : Tab Granule
  /-- 512 MiB leaves walked, by 2^26 × ASID + address / 512 MiB. -/
  leaves : Tab BigLeaf
  /-- Pages whose contents a channel or field has lost, by 2^39 × ASID + page number, with the address of
  the frame lost (R455, R467). -/
  lost : Tab Nat
  fab : Fabric
  events : List DevEvent
  out : List OutMsg
  /-- Inbound requests being served, by number (R348). -/
  served : Tab Served
  /-- Steps of units outside the pick former that come next, in order. -/
  inputs : List Instr
  pick : Pick
  /-- The model's own: the values that the present step leaves late (R81) stay owed, and land by
  DATA-RESPONSE. -/
  lag : Bool
  /-- The model's own: the number of free values drawn so far. -/
  draws : Nat
  /-- The model's own: the instruction being performed has reached service space. -/
  svc : Bool
  deriving DecidableEq, Repr

/-- Why the machine stops. -/
inductive Fault where
  /-- Raised by an instruction or an internal access at an address of service space (R180, R286,
  R469), whose layout the manual does not give. Safe: nothing is concluded beyond it. -/
  | serviceSpace
  deriving DecidableEq, Repr

/-- Why a step is refused. -/
inductive Refusal where
  /-- No meaning yet: raised only by the dispatcher's arm of that mnemonic. Safe. -/
  | notModelled (mnemonic : String)
  deriving DecidableEq, Repr

/-- The machine as it stands unpowered, before step 1 of its first start (R28, R355, R357): nothing
runs, memory lists nothing, and the boot record holds its reset values.
DESIGN CHOICE, unsafe (log 2). DESIGN CHOICE, safe (log 3). -/
def State.reset : State :=
  { powered := false, running := false, lockedOff := false, starting := false, minimal := false, boot := Boot.fresh, imageA := Image.none,
    imageB := Image.none, image := none, fuses := [], lead := 0, topoGen := 0, topoTime := 0, fields := [], ports := [], mgmt := [],
    time := 0, cycle := 0, clock := 0, ptpLocked := false, slew := 0, parts := [], revokes := [], vfs := [], ctxs := [], asids := [],
    cores := [], blocks := [], acts := [], launches := [], qps := [], passes := [], mem := [],
    wgen := [], shadows := [], held := [], tlb := [], frames := [], granules := [], leaves := [], lost := [],
    fab := Fabric.none, events := [], out := [], served := [], inputs := [], pick := Pick.none, lag := false,
    draws := 0, svc := false }

end Sys2Proof.Machine
end

