-- ==== Sys2Proof/Machine/Base.lean ====
section
/-! DEFINITION. Reading and writing the parts of the state by number, the fields of a launch packet
(R312), identifiers (R32 to R34) and the arithmetic of program counters (R62). -/

namespace Sys2Proof.Machine

open Sys2Proof

/-! ### Parts by number -/

def State.blk (s : State) (b : Nat) : Block := Tab.get Block.none s.blocks b
def State.setBlk (s : State) (b : Nat) (x : Block) : State := { s with blocks := Tab.put s.blocks b x }
def State.modBlk (s : State) (b : Nat) (f : Block → Block) : State := s.setBlk b (f (s.blk b))

def State.actv (s : State) (a : Nat) : Act := Tab.get Act.none s.acts a
def State.setAct (s : State) (a : Nat) (x : Act) : State := { s with acts := Tab.put s.acts a x }
def State.modAct (s : State) (a : Nat) (f : Act → Act) : State := s.setAct a (f (s.actv a))

def State.core (s : State) (c : Nat) : Core := Tab.get Core.none s.cores c
def State.setCore (s : State) (c : Nat) (x : Core) : State := { s with cores := Tab.put s.cores c x }
def State.modCore (s : State) (c : Nat) (f : Core → Core) : State := s.setCore c (f (s.core c))

def State.ctx (s : State) (c : Nat) : Ctx := Tab.get Ctx.none s.ctxs c
def State.setCtx (s : State) (c : Nat) (x : Ctx) : State := { s with ctxs := Tab.put s.ctxs c x }
def State.modCtx (s : State) (c : Nat) (f : Ctx → Ctx) : State := s.setCtx c (f (s.ctx c))

def State.vf (s : State) (v : Nat) : Vf := Tab.get Vf.none s.vfs v
def State.setVf (s : State) (v : Nat) (x : Vf) : State := { s with vfs := Tab.put s.vfs v x }
def State.modVf (s : State) (v : Nat) (f : Vf → Vf) : State := s.setVf v (f (s.vf v))

def State.part (s : State) (p : Nat) : Partition := Tab.get Partition.none s.parts p
def State.setPart (s : State) (p : Nat) (x : Partition) : State := { s with parts := Tab.put s.parts p x }
def State.modPart (s : State) (p : Nat) (f : Partition → Partition) : State := s.setPart p (f (s.part p))

def State.launch (s : State) (l : Nat) : Launch := Tab.get Launch.none s.launches l
def State.setLaunch (s : State) (l : Nat) (x : Launch) : State := { s with launches := Tab.put s.launches l x }
def State.modLaunch (s : State) (l : Nat) (f : Launch → Launch) : State := s.setLaunch l (f (s.launch l))

def State.field (s : State) (f : Nat) : Field := Tab.get Field.none s.fields f
def State.setField (s : State) (f : Nat) (x : Field) : State := { s with fields := Tab.put s.fields f x }
def State.modField (s : State) (f : Nat) (g : Field → Field) : State := s.setField f (g (s.field f))

def State.qp (s : State) (q : Nat) : Qp := Tab.get Qp.none s.qps q
def State.setQp (s : State) (q : Nat) (x : Qp) : State := { s with qps := Tab.put s.qps q x }

def State.pass (s : State) (p : Nat) : Pass := Tab.get Pass.none s.passes p
def State.setPass (s : State) (p : Nat) (x : Pass) : State := { s with passes := Tab.put s.passes p x }

def State.port (s : State) (p : Nat) : Port := Tab.get Port.none s.ports p
def State.setPort (s : State) (p : Nat) (x : Port) : State := { s with ports := Tab.put s.ports p x }

def State.asid (s : State) (a : Nat) : AsidEnt := Tab.get AsidEnt.none s.asids a
def State.setAsid (s : State) (a : Nat) (x : AsidEnt) : State := { s with asids := Tab.put s.asids a x }

/-- Window `w` of virtual function `v` (R205, R350). -/
def State.win (s : State) (v w : Nat) : Win := Tab.get Win.none (s.vf v).wins w
def State.setWin (s : State) (v w : Nat) (x : Win) : State :=
  s.modVf v fun f => { f with wins := Tab.put f.wins w x }
def State.modWin (s : State) (v w : Nat) (f : Win → Win) : State := s.setWin v w (f (s.win v w))

/-- Compartment slot `i` of a core (R290). -/
def State.cslot (s : State) (c i : Nat) : CSlot := Tab.get CSlot.none (s.core c).slots i
def State.setCslot (s : State) (c i : Nat) (x : CSlot) : State :=
  s.modCore c fun k => { k with slots := Tab.put k.slots i x }

/-- The next free value (R115 and every result the manual calls undefined). -/
def State.draw (s : State) : Word × State := (Config.freeWord s.draws, { s with draws := s.draws + 1 })

/-- SR.TIME (R354). -/
def State.now (s : State) : Nat := s.time

/-! ### Bits -/

/-- Bits lo to lo + n − 1 of a word as a number. -/
def bitsOf (x : Dword) (lo n : Nat) : Nat := x.toNat / 2 ^ lo % 2 ^ n

def bitOf (x : Dword) (i : Nat) : Bool := x.toNat / 2 ^ i % 2 == 1

/-- The word with bits lo to lo + n − 1 replaced. -/
def setBits (x : Dword) (lo n v : Nat) : Dword :=
  .ofNat 64 (x.toNat - bitsOf x lo n * 2 ^ lo + v % 2 ^ n * 2 ^ lo)

/-- The n low bits of x as two's complement. -/
def signed (n x : Nat) : Int := if x % 2 ^ n < 2 ^ (n - 1) then (x % 2 ^ n : Nat) else (x % 2 ^ n : Nat) - (2 ^ n : Nat)

/-- i mod 2^n. -/
def wrapNat (n : Nat) (i : Int) : Nat := (i % (2 ^ n : Nat)).toNat

/-- Bytes of a number, little-endian. -/
def toBytes : Nat → Nat → List Byte
  | 0, _ => []
  | n + 1, x => .ofNat 8 x :: toBytes n (x / 256)

/-- The number of little-endian bytes. -/
def ofBytes : List Byte → Nat
  | [] => 0
  | b :: bs => b.toNat + 256 * ofBytes bs

/-- Position of the k-th set bit of m, from bit i up, looking at n bits (R193, R280). -/
def nthSetBit (m : Nat) : Nat → Nat → Nat → Option Nat
  | 0, _, _ => none
  | n + 1, i, k =>
    if m / 2 ^ i % 2 = 1 then (if k = 0 then some i else nthSetBit m n (i + 1) (k - 1))
    else nthSetBit m n (i + 1) k

/-- Number of set bits among the n low bits. -/
def popcount (m : Nat) : Nat → Nat
  | 0 => 0
  | n + 1 => m % 2 + popcount (m / 2) n

/-! ### Program counters (R62) -/

/-- A PC names a slot. -/
def namesSlot (pc : Dword) : Bool := pc.toNat < 2 ^ 57 && pc.toNat / 8 % 8 == 0 && pc.toNat % 8 ≤ 4

def slotNumber (pc : Dword) : Nat := pc.toNat / 64 * 5 + pc.toNat % 8

/-- The PC of a slot number; 2^64 − 1, which names no slot, for a number that has none. -/
def slotPc (n : Int) : Dword :=
  if 0 ≤ n ∧ n.toNat / 5 * 64 < 2 ^ 57 then .ofNat 64 (n.toNat / 5 * 64 + n.toNat % 5) else .allOnes 64

def nextPc (pc : Dword) : Dword := slotPc (slotNumber pc + 1)

def branchTarget (pc : Dword) (d : BitVec 32) : Dword := slotPc (slotNumber pc + d.toInt)

/-- The address of the line a PC lies in. -/
def lineOf (pc : Dword) : Nat := pc.toNat / 64 * 64

/-! ### The launch packet (R312) -/

/-- Word i, at offset 8i. -/
def Launch.word (l : Launch) (i : Nat) : Dword := l.pkt.getD i 0

def Launch.fence (l : Launch) : Bool := bitsOf (l.word 0) 0 4 == 1
def Launch.det (l : Launch) : Bool := bitOf (l.word 0) 4
def Launch.resident (l : Launch) : Bool := bitOf (l.word 0) 5
def Launch.drain (l : Launch) : Bool := bitOf (l.word 0) 6
def Launch.replays (l : Launch) : Bool := bitOf (l.word 0) 7
def Launch.prio (l : Launch) : Nat := bitsOf (l.word 0) 8 2
def Launch.hrule (l : Launch) : Nat := bitsOf (l.word 0) 10 2
def Launch.hlvl (l : Launch) : Nat := bitsOf (l.word 0) 12 3
def Launch.matx (l : Launch) : Bool := bitOf (l.word 0) 15
def Launch.ndep (l : Launch) : Nat := bitsOf (l.word 0) 16 2
def Launch.pin (l : Launch) : Bool := bitOf (l.word 0) 18
def Launch.g (l : Launch) : Nat := bitsOf (l.word 0) 32 8
def Launch.prod (l : Launch) : Nat := bitsOf (l.word 0) 40 7
def Launch.tiles (l : Launch) : Nat := bitsOf (l.word 0) 48 7
def Launch.xids (l : Launch) : Nat := bitsOf (l.word 0) 55 9
/-- R238: a block claims tiles or tensor identifiers. -/
def Launch.claims (l : Launch) : Bool := l.tiles != 0 || l.xids != 0
def Launch.levels (l : Launch) : Nat := bitsOf (l.word 1) 0 48
def Launch.scr (l : Launch) : Nat := bitsOf (l.word 1) 48 16
def Launch.lastWid (l : Launch) : Dword := l.word 2
def Launch.kpc (l : Launch) : Dword := l.word 3
def Launch.apc (l : Launch) : Dword := l.word 4
def Launch.seed (l : Launch) : Dword := l.word 6
def Launch.tlBase (l : Launch) : Dword := l.word 7
def Launch.tlSize (l : Launch) : Nat := bitsOf (l.word 8) 0 24
def Launch.cwin (l : Launch) : Nat := bitsOf (l.word 8) 24 10
def Launch.cen (l : Launch) : Bool := bitOf (l.word 8) 34
def Launch.ctxid (l : Launch) : Nat := bitsOf (l.word 8) 48 16
def Launch.haddr (l : Launch) : Dword := l.word 9
/-- The two words of dependence d (R314). -/
def Launch.dep (l : Launch) (d : Nat) : Dword × Dword := (l.word (10 + 2 * d), l.word (11 + 2 * d))

/-- Width of level i. -/
def Launch.w (l : Launch) (i : Nat) : Nat := bitsOf (l.word 1) (7 * i) 7
/-- Block level B. -/
def Launch.b (l : Launch) : Nat := bitsOf (l.word 1) 42 3
/-- Gang level K, 0 when there is none. -/
def Launch.k (l : Launch) : Nat := bitsOf (l.word 1) 45 3
/-- Lowest bit of level i. -/
def Launch.lo (l : Launch) (i : Nat) : Nat := ((List.range i).map l.w).sum
/-- R32: the value of level i in a work identifier. -/
def Launch.levelValue (l : Launch) (wid : Dword) (i : Nat) : Nat := bitsOf wid (l.lo i) (l.w i)
/-- R32, R312: the extent of level i. -/
def Launch.ext (l : Launch) (i : Nat) : Nat := l.levelValue l.lastWid i + 1
/-- The product of the extents of levels i to j − 1. -/
def Launch.extProd (l : Launch) (i j : Nat) : Nat :=
  ((List.range (j - i)).map fun n => l.ext (i + n)).foldl (· * ·) 1
/-- R177: the linear index of a thread. -/
def Launch.linearIndex (l : Launch) (wid : Dword) : Nat :=
  ((List.range 6).map fun i => l.levelValue wid i * l.extProd 0 i).sum
/-- Logical lanes that hold a thread. -/
def Launch.e0 (l : Launch) : Nat := l.ext 0
/-- Declared skein width W. -/
def Launch.width (l : Launch) : Nat := 2 ^ l.w 0
/-- Skeins per block. -/
def Launch.skeins (l : Launch) : Nat := if l.b = 2 then l.ext 1 else 1
/-- Blocks of the launch. -/
def Launch.blocks (l : Launch) : Nat := l.extProd l.b 6
/-- Blocks per gang, 1 when no gang is declared. -/
def Launch.gang (l : Launch) : Nat := if l.k = 0 then 1 else l.extProd l.b l.k
/-- R34: the logical block identifier of the block of linear index i. -/
def Launch.blockIdent (l : Launch) (i : Nat) : Dword :=
  .ofNat 64 (((List.range 6).map fun k =>
    if k < l.b then 0 else i / l.extProd l.b k % l.ext k * 2 ^ l.lo k).sum)

/-! ### The parts a pick acts on -/

/-- The block an execution group belongs to. -/
def Grp.block (s : State) : Grp → Nat
  | .blk b => b
  | .act a => (s.actv a).blk
  | .slice b _ => b

/-- The number by which events and outstanding operations name a group: an activation's lies beyond every
block's. -/
def Grp.name : Grp → Nat
  | .blk b => b
  | .act a => 2 ^ 40 + a
  | .slice b _ => b

def nameGrp (n : Nat) : Grp := if 2 ^ 40 ≤ n then .act (n - 2 ^ 40) else .blk n

/-- The launch of a group's block. -/
def Grp.launch (s : State) (g : Grp) : Launch := s.launch (s.blk (g.block s)).launch

/-- The core a group runs on. -/
def Grp.core (s : State) : Grp → Nat
  | .blk b => (s.blk b).core
  | .act a => (s.actv a).core
  | .slice b _ => (s.blk b).core

/-- The compartment slot a group runs under. -/
def Grp.slot (s : State) : Grp → Nat
  | .blk b => (s.blk b).slot
  | .act a => (s.actv a).slot
  | .slice b _ => (s.blk b).slot

/-- The slot registers that govern a group (R290, R298). -/
def Grp.cslot (s : State) (g : Grp) : CSlot := s.cslot (g.core s) (g.slot s)

/-- The context that runs a group. -/
def Grp.ctx (s : State) : Grp → Nat
  | .blk b => (s.launch (s.blk b).launch).ctx
  | .act a => (s.actv a).ctx
  | .slice b _ => (s.launch (s.blk b).launch).ctx

def Grp.isAct : Grp → Bool
  | .act _ => true
  | .blk _ | .slice _ _ => false

def Grp.isSlice : Grp → Bool
  | .slice _ _ => true
  | .blk _ | .act _ => false

/-- Registers per thread: G of the launch, or FRAME of the gate inside an activation. -/
def Grp.regs (s : State) : Grp → Nat
  | .blk b => (s.blk b).regs
  | .act a => (s.actv a).frame
  | .slice _ _ => 0

/-- R57: field of a core number 192f + 4c + k. -/
def coreField (c : Nat) : Nat := c / 192
/-- Wafer cluster number of a core. -/
def coreCluster (c : Nat) : Nat := c / 4

/-- Slot register fields (R290). -/
def CSlot.ctxid (c : CSlot) : Nat := bitsOf c.w0 0 16
def CSlot.valid (c : CSlot) : Bool := bitOf c.w0 16
def CSlot.priv (c : CSlot) : Nat := bitsOf c.w0 17 2
def CSlot.maxsc (c : CSlot) : Nat := bitsOf c.w0 19 2
def CSlot.drain (c : CSlot) : Bool := bitOf c.w0 21
def CSlot.gres (c : CSlot) : Bool := bitOf c.w0 22
def CSlot.av (c : CSlot) (s : Nat) : Bool := s == 0 || bitOf c.w0 (22 + s)
def CSlot.aro (c : CSlot) (s : Nat) : Bool := s != 0 && bitOf c.w0 (25 + s)
def CSlot.ckper (c : CSlot) : Nat := bitsOf c.w0 32 10
def CSlot.vf (c : CSlot) : Nat := bitsOf c.w0 42 6
def CSlot.part (c : CSlot) : Nat := bitsOf c.w0 48 5
def CSlot.rfBase (c : CSlot) : Nat := bitsOf c.w1 0 8
def CSlot.rfSize (c : CSlot) : Nat := bitsOf c.w1 8 9
def CSlot.spMask (c : CSlot) : Nat := bitsOf c.w1 32 32
def CSlot.l0Ways (c : CSlot) : Nat := bitsOf c.w2 0 16
def CSlot.ttBase (c : CSlot) : Nat := bitsOf c.w2 16 6
def CSlot.ttCnt (c : CSlot) : Nat := bitsOf c.w2 22 7
def CSlot.xBase (c : CSlot) : Nat := bitsOf c.w2 32 8
def CSlot.xCnt (c : CSlot) : Nat := bitsOf c.w2 40 9
def CSlot.engMask (c : CSlot) : Nat := bitsOf c.w2 56 8
def CSlot.eng (c : CSlot) (n : Nat) : Bool := c.engMask / 2 ^ n % 2 == 1
def CSlot.asid (c : CSlot) (s : Nat) : Nat := bitsOf c.w3 (16 * s) 16

/-- Rollback mode: the DRAIN bit of the slot that runs the group is clear (R54). -/
def Grp.rollback (s : State) (g : Grp) : Bool := !(g.cslot s).drain

/-- A thread of an execution group. -/
structure Cx where
  grp : Grp
  n : Nat
  deriving DecidableEq, Repr

/-- Thread numbers are 64 × skein + lane. -/
def Cx.skein (c : Cx) : Nat := c.n / 64
def Cx.lane (c : Cx) : Nat := c.n % 64

/-- The skein state an execution group's thread sees (R30, R50, R298). -/
def State.sk (s : State) (g : Grp) (k : Nat) : Skein :=
  match g with
  | .blk b => Tab.get Skein.start (s.blk b).body.skeins k
  | .act a => (s.actv a).sk
  | .slice b j => Tab.get Skein.start (s.blk b).body.skeins j

def State.modBody (s : State) (b : Nat) (f : Body → Body) : State :=
  s.modBlk b fun k => { k with body := f k.body }

def State.setSk (s : State) (g : Grp) (k : Nat) (x : Skein) : State :=
  match g with
  | .blk b => s.modBody b fun y => { y with skeins := Tab.put y.skeins k x }
  | .act a => s.modAct a fun y => { y with sk := x }
  | .slice b j => s.modBody b fun y => { y with skeins := Tab.put y.skeins j x }

def State.modSk (s : State) (g : Grp) (k : Nat) (f : Skein → Skein) : State :=
  s.setSk g k (f (s.sk g k))

/-- What a slice of a skein shows as a thread: its PC and predicates, and a yield counter that never
runs out (R41, R50). -/
def sliceThread (sl : Slice) : Thread :=
  { Thread.none with
    st := if sl.active && !sl.fenceWait && sl.stop.isNone then .running else .gone
    pc := sl.pc, p := sl.p, yc := 4095, stop := sl.stop }

/-- A thread of an execution group. -/
def State.thr (s : State) (c : Cx) : Thread :=
  match c.grp with
  | .blk b => Tab.get Thread.none (s.blk b).body.threads c.n
  | .act a => Tab.get Thread.none (s.actv a).threads c.n
  | .slice b k => sliceThread (Tab.get Skein.start (s.blk b).body.skeins k).slice

def State.setThr (s : State) (c : Cx) (t : Thread) : State :=
  match c.grp with
  | .blk b => s.modBody b fun y => { y with threads := Tab.put y.threads c.n t }
  | .act a => s.modAct a fun y => { y with threads := Tab.put y.threads c.n t }
  | .slice b k =>
    s.modSk (.blk b) k fun y => { y with slice := { y.slice with pc := t.pc, p := t.p, stop := t.stop } }

def State.modThr (s : State) (c : Cx) (f : Thread → Thread) : State := s.setThr c (f (s.thr c))

/-- Uniform register n of a group's skein; the access slice has its own (R50, R84). -/
def State.sreg (s : State) (g : Grp) (k n : Nat) : Word :=
  if g.isSlice then Tab.get 0 (s.sk g k).slice.s n else Tab.get 0 (s.sk g k).s n

def State.setSreg (s : State) (g : Grp) (k n : Nat) (v : Word) : State :=
  s.modSk g k fun y =>
    if g.isSlice then { y with slice := { y.slice with s := Tab.set 0 y.slice.s n v } }
    else { y with s := Tab.set 0 y.s n v }

/-- R32: the work identifier of a thread. -/
def wid (s : State) (c : Cx) : Dword :=
  let b := s.blk (c.grp.block s)
  let l := s.launch b.launch
  let lane := if c.grp.isSlice then 0 else c.lane
  let k := match c.grp with | .slice _ k => k | .blk _ | .act _ => c.skein
  .ofNat 64 (b.ident.toNat + lane + if l.b = 2 then k * 2 ^ l.w 0 else 0)

/-- The threads of a group that have not exited, by number. -/
def State.live (s : State) (g : Grp) : List Nat :=
  match g with
  | .blk b => ((s.blk b).body.threads.filter fun e => e.2.st != .gone).map (·.1)
  | .act a => ((s.actv a).threads.filter fun e => e.2.st != .gone).map (·.1)
  | .slice _ _ => []

/-- The threads of a group's skein that have not exited. -/
def State.liveSk (s : State) (g : Grp) (k : Nat) : List Nat := (s.live g).filter (· / 64 == k)

end Sys2Proof.Machine
end

