-- ==== Sys2Proof/Machine/Pages.lean ====
section
/-! DEFINITION. The read-only pages the device shows in slot 0 of every context: the topology table
(R20 to R25, R483, R484), the partition's record (R281), the launch view (R317) and the counter page
(R370). Each byte is computed from the state it publishes. -/

namespace Sys2Proof.Machine

open Sys2Proof

/-- The read-only pages and the offset of a byte within them. -/
inductive RoPage where
  | topology | partition | launchView | counters
  deriving DecidableEq, Repr

/-! ### Geometry (R10 to R16) -/

def fieldX (f : Nat) : Nat := f % 8
def fieldY (f : Nat) : Nat := f / 8

/-- The neighbour of a field in direction 0 N, 1 E, 2 S, 3 W; N is increasing y (R10). -/
def neighbour (f d : Nat) : Option Nat :=
  match d with
  | 0 => if fieldY f = 5 then none else some (f + 8)
  | 1 => if fieldX f = 7 then none else some (f + 1)
  | 2 => if fieldY f = 0 then none else some (f - 8)
  | 3 => if fieldX f = 0 then none else some (f - 1)
  | _ => none

/-- LINKPRES (R23). -/
def linkPres (f : Nat) : Nat :=
  ((List.range 4).map fun d => if (neighbour f d).isSome then 2 ^ d else 0).sum

/-- R16: the data port i of a field, if it has one. -/
def portOf (f i : Nat) : Option Nat :=
  if 3 ≤ i then none
  else if fieldY f = 0 then some (3 * fieldX f + i)
  else if fieldY f = 5 then some (24 + 3 * fieldX f + i)
  else none

/-- R16: the field and index of port entry n; 48 and 49 are the management ports. -/
def portField (n : Nat) : Nat :=
  if n < 24 then n / 3 else if n < 48 then 40 + (n - 24) / 3 else if n = 48 then 0 else 47

def portIndex (n : Nat) : Nat := if n < 48 then n % 3 else 3

/-- R19: the cluster to use for nominal cluster c of a field, by its mask of enabled clusters. -/
def subst (clus : BitVec 48) (c : Nat) : Nat :=
  let k := c / 16
  let seq := ((List.range 16).map fun i => 16 * k + (c + i) % 16) ++
    ((List.range 16).map fun i => 16 * ((k + 1) % 3) + i) ++
    ((List.range 16).map fun i => 16 * ((k + 2) % 3) + i)
  match seq.find? fun x => clus.getLsbD x with
  | some x => if x = c then c else 0x40 + x
  | none => 0x80

def countBits {n : Nat} (m : BitVec n) : Nat := popcount m.toNat n

/-! ### The topology table -/

/-- R23, R483: the 128 bytes of a field entry. -/
def fieldEntry (s : State) (f : Nat) : List Byte :=
  let e := s.field f
  let fenced := e.state == 4
  let z (n : Nat) : Nat := if fenced then 0 else n
  let eth := ((List.range 3).map fun i =>
    match portOf f i with
    | some p => 2 ^ i + if (s.port p).up && !fenced then 2 ^ (3 + i) else 0
    | none => 0).sum
  let mg := if f = 0 ∨ f = 47 then
    0x40 + if (Tab.get Port.none s.mgmt (if f = 0 then 0 else 1)).up && !fenced then 0x80 else 0 else 0
  toBytes 1 e.state ++ toBytes 1 (z (countBits e.cores)) ++ toBytes 1 (z (countBits e.clusters)) ++
  toBytes 1 (z e.linkUp.toNat + 16 * linkPres f) ++ toBytes 1 (z e.chan.toNat) ++
  toBytes 1 (z e.sect.toNat) ++ toBytes 1 (eth + mg) ++ toBytes 1 0 ++
  toBytes 8 (z e.clusters.toNat) ++ toBytes 24 (z e.cores.toNat) ++ toBytes 4 (z e.slices.toNat) ++
  toBytes 4 (z e.frames) ++ toBytes 24 (z e.banks.toNat) ++
  (List.range 48).map (fun c => .ofNat 8 (if fenced then 0x80 else subst e.clusters c)) ++
  toBytes 2 (z e.fcache) ++ toBytes 2 0 ++ toBytes 4 e.retired

/-- R22: the 64 bytes of the header. -/
def topoHeader (s : State) : List Byte :=
  let fs := List.range 48
  let cores := (fs.map fun f => if (s.field f).state == 4 then 0 else countBits (s.field f).cores).sum
  toBytes 4 0x5A573438 ++ toBytes 2 1 ++ toBytes 2 0xA2 ++ toBytes 8 s.topoGen.toNat ++
  toBytes 8 s.topoTime ++ toBytes 2 cores ++
  toBytes 1 ((fs.filter fun f => (s.field f).state < 2).length) ++ toBytes 1 s.lead ++
  toBytes 1 s.minimal.toNat ++ List.replicate 35 0

/-- R25, R484: the 16 bytes of a port entry. -/
def portEntry (s : State) (n : Nat) : List Byte :=
  let p := if n < 48 then s.port n else Tab.get Port.none s.mgmt (n - 48)
  let fenced := (s.field (portField n)).state == 4
  let st := if p.failed then 2 else if p.up && !fenced then 1 else 0
  toBytes 1 (portField n) ++ toBytes 1 (portIndex n) ++ toBytes 1 st ++
  toBytes 1 (if n < 48 then 0 else 1) ++
  toBytes 2 (if fenced && !p.failed then 0 else p.lanes.toNat) ++ toBytes 2 0 ++
  toBytes 6 p.mac.toNat ++ toBytes 2 0

def topoByte (s : State) (o : Nat) : Byte :=
  if o < 0x40 then (topoHeader s).getD o 0
  else if o < 0x1840 then (fieldEntry s ((o - 0x40) / 128)).getD ((o - 0x40) % 128) 0
  else if o < 0x2140 then
    let a := (o - 0x1840) / 48
    let b := (o - 0x1840) % 48
    .ofNat 8 (Tab.get (if a = b then 0 else 0xFF) s.fab.hops (48 * a + b))
  else if o < 0x2460 then (portEntry s ((o - 0x2140) / 16)).getD ((o - 0x2140) % 16) 0
  else 0

/-! ### The partition record (R281) -/

def partFieldBytes (p : PartField) : List Byte :=
  toBytes 8 p.clus.toNat ++ toBytes 8 p.clusm.toNat ++ toBytes 8 p.clush.toNat ++
  toBytes 24 p.bank.toNat ++ toBytes 24 p.bankm.toNat ++ toBytes 24 p.bankh.toNat ++
  toBytes 8 p.chsh.toNat ++ toBytes 2 p.fcsh ++ toBytes 2 p.fstore ++ toBytes 4 p.shadow ++
  toBytes 3 p.ethsh.toNat

def partByte (s : State) (n o : Nat) : Byte :=
  let p := s.part n
  let vfs := ((List.range 64).map fun v => if (s.vf v).live && (s.vf v).part == n then 2 ^ v else 0).sum
  if o < 0x40 then
    (toBytes 1 n ++ toBytes 1 p.lendTo ++ toBytes 1 p.borrow ++ List.replicate 5 0 ++
      toBytes 8 p.gen.toNat ++ toBytes 8 vfs).getD o 0
  else if o < 0x40 + 128 * 48 then
    (partFieldBytes (Tab.get PartField.none p.fields ((o - 0x40) / 128))).getD ((o - 0x40) % 128) 0
  else 0

/-! ### The launch view (R317) and the counter page (R370) -/

def launchViewByte (l : Launch) (o : Nat) : Byte :=
  if o < 128 then (toBytes 8 (l.word (o / 8)).toNat).getD (o % 8) 0
  else (toBytes 8 l.seq).getD (o - 128) 0

/-- R370: a counter reads zero to a virtual function that does not own it. -/
def counterByte (s : State) (part vf o : Nat) : Byte :=
  let c := Tab.get Ctr.none (s.part part).ctrs (o / 8 % 128)
  if o < 0x800 ∧ bitsOf c.cfg 8 6 = vf then
    (toBytes 8 (if o < 0x400 then c.val else c.cfg).toNat).getD (o % 8) 0
  else 0

/-- The read-only page a slot-0 address lies in, with the offset. -/
def roPageOf (va : Nat) : Option (RoPage × Nat) :=
  let o := va % 2 ^ 16
  if va / 2 ^ 16 = 0x007FFF000000 then some (.topology, o)
  else if va / 2 ^ 16 = 0x007FFF000001 then some (.partition, o)
  else if va / 2 ^ 16 = 0x007FFF000002 then some (.launchView, o)
  else if va / 2 ^ 16 = 0x007FFF000003 then some (.counters, o)
  else none

/-- A byte of a read-only page as the virtual function `vf` of partition `part` reads it. -/
def roByte (s : State) (part vf : Nat) (l : Launch) (p : RoPage) (o : Nat) : Byte :=
  match p with
  | .topology => topoByte s o
  | .partition => partByte s part o
  | .launchView => launchViewByte l o
  | .counters => counterByte s part vf o

/-! ### Counting (R371, R372) -/

/-- Adds n to every enabled counter of the partition that counts `event` for this virtual function
(none for a partition event) on a unit of this field. -/
def State.count (s : State) (part : Nat) (vf : Option Nat) (field event n : Nat) : State :=
  if (s.part part).ctrs = [] then s
  else s.modPart part fun p => { p with
    ctrs := p.ctrs.map fun e =>
      let c := e.2
      if bitOf c.cfg 15 && bitsOf c.cfg 0 8 == event && bitOf c.cfg (16 + field) &&
          (bitOf c.cfg 14 || vf == some (bitsOf c.cfg 8 6)) then
        (e.1, { c with val := c.val + .ofNat 64 n })
      else e }

end Sys2Proof.Machine
end

