-- ==== Sys2Proof/Machine/Walk.lean ====
section
/-! DEFINITION. Bytes of storage, address checks, the page-table walk and the homes of granules (R175 to
R184, R337). -/

namespace Sys2Proof.Machine

open Sys2Proof

/-- Who makes an access: the context it is checked as (R183, R292), the thread-local window it may use
(R177), the core and slot it runs on, and the rollback-mode block whose provisional bytes it reads and
writes. -/
structure Agent where
  ctx : Nat
  vf : Nat
  part : Nat
  asids : List Nat
  av : Nat
  aro : Nat
  launch : Nat
  wid : Option Dword
  core : Nat
  slot : Nat
  /-- The cluster whose caches it goes through; the device itself goes to the homes. -/
  cluster : Option Nat
  blk : Option Nat
  /-- Block and thread that wait for a write held at a home (R447). -/
  own : Option Nat
  thr : Nat
  /-- A write of the device's own, which takes provisional room beyond the limit. -/
  force : Bool
  deriving DecidableEq, Repr

/-- The kind of an access: what the leaf must grant, and for an atomic whether R352 allows it through
a remote window. -/
structure Acc where
  r : Bool
  w : Bool
  x : Bool
  remoteOk : Bool
  deriving DecidableEq, Repr

def Acc.read : Acc := { r := true, w := false, x := false, remoteOk := true }
def Acc.write : Acc := { r := false, w := true, x := false, remoteOk := true }
def Acc.fetch : Acc := { r := false, w := false, x := true, remoteOk := false }

/-! ### Faults of translation (R437 to R439) -/

def transEv (va lvl reason idx asid : Nat) : Ev :=
  { code := 0x201, arg := 0, addr := va, synd := lvl + 4 * reason + 256 * idx + 2 ^ 21 * asid }

def protEv (va bits asid : Nat) : Ev :=
  { code := 0x202, arg := 0, addr := va, synd := bits + 2 ^ 21 * asid }

/-- R437: SYNONYM names the canonical location. -/
def synEv (va canon : Nat) : Ev :=
  { code := 0x203, arg := 0, addr := va,
    synd := canon % 2 ^ 55 / 2 ^ 16 + 2 ^ 39 * (canon / 2 ^ 55) }

/-! ### Storage -/

/-- The canonical form of memory: addresses strictly rising, no listed byte zero. -/
def Memory.wf (m : Memory) : Bool := Tab.wf 0 m

/-- Bytes of storage at a physical address. DESIGN CHOICE, unsafe (log 1). -/
def State.bytes (s : State) (pa n : Nat) : List Byte := Tab.getRun 0 s.mem pa n

def State.load64 (s : State) (pa : Nat) : Dword := .ofNat 64 (ofBytes (s.bytes pa 8))

def State.store (s : State) (pa : Nat) (bs : List Byte) : State :=
  { s with mem := Tab.setRun 0 s.mem pa bs }

/-- Stores bytes at offsets within a line. -/
def State.storeAt (s : State) (pa : Nat) : List (Nat × Byte) → State
  | [] => s
  | (o, b) :: r => State.storeAt { s with mem := Tab.set 0 s.mem (pa + o) b } pa r

/-- R180: an offset with storage behind it, for an MK. DESIGN CHOICE, safe (log 9). -/
def hasStorage (s : State) (part pa mk : Nat) : Bool :=
  let f := pa / 2 ^ 46
  let o := pa % 2 ^ 46
  if f < 48 then
    (mk == 0 && o < 0x1800000000) ||
    (mk == 1 && 0x300000000000 ≤ o &&
      o < 0x300000000000 + (Tab.get PartField.none (s.part part).fields f).fstore * 2 ^ 20)
  else if f < 63 then mk == 2
  else part == 0

/-- Where the bytes of a physical address stand: the field store of each partition is its own (R196), though
its offsets in a field run from the same number (R180). DESIGN CHOICE, unsafe (log 100). -/
def storePa (part pa mk : Nat) : Nat := if mk = 1 then pa + part * 2 ^ 32 else pa

/-- The physical address whose bytes stand at a place. -/
def namedPa (at_ : Nat) : Nat :=
  if 0x300000000000 ≤ at_ % 2 ^ 46 ∧ at_ / 2 ^ 46 < 48 then
    at_ / 2 ^ 46 * 2 ^ 46 + 0x300000000000 + at_ % 2 ^ 32 else at_

/-! ### The walk (R178 to R181) -/

inductive Walk where
  | bad (lvl reason idx : Nat)
  | leaf (lvl epa : Nat) (e : Dword)
  deriving DecidableEq, Repr

def leafKind (e : Dword) : Nat := bitsOf e 0 2
def leafFrame (e : Dword) : Nat := bitsOf e 16 36
def leafCc (e : Dword) : Nat := bitsOf e 8 2
def leafMk (e : Dword) : Nat := bitsOf e 10 2

/-- log2 of the bytes a leaf of a level maps. -/
def leafSpan (lvl : Nat) : Nat := 16 + 13 * (3 - lvl)

def tableIndex (va lvl : Nat) : Nat := va / 2 ^ leafSpan lvl % 2 ^ 13

/-- R455, R465, R483: storage behind a channel that has failed, or of a field that serves no memory. -/
def homeDown (s : State) (pa : Nat) : Bool :=
  match Tab.find s.fields (pa / 2 ^ 46) with
  | some x => x.state == 4 || !x.chan.getLsbD (pa / 2 ^ 16 % 8)
  | none => false

def walkFrom (s : State) (va : Nat) : Nat → Nat → Nat → Walk
  | 0, lvl, _ => .bad lvl 5 0
  | n + 1, lvl, frame =>
    let i := tableIndex va lvl
    let epa := frame * 2 ^ 16 + 8 * i
    let e := s.load64 epa
    if homeDown s epa then .bad lvl 4 i
    else if leafKind e = 0 then .bad lvl (if bitsOf e 52 12 = 0xF1D then 4 else 3) i
    else if leafKind e = 1 then
      if lvl = 3 ∨ bitsOf e 2 14 ≠ 0 then .bad lvl 5 i else walkFrom s va n (lvl + 1) (leafFrame e)
    else .leaf lvl epa e

/-- R438, reasons 6 to 10: the checks of a leaf's own fields, lowest first. -/
def leafReason (s : State) (part lvl : Nat) (e : Dword) : Option Nat :=
  let fr := leafFrame e
  let pa := fr * 2 ^ 16
  if fr % 2 ^ (leafSpan lvl - 16) ≠ 0 then some 6
  else if bitOf e 3 && !bitOf e 2 then some 7
  else if leafCc e = 3 ∨ bitsOf e 12 4 ≠ 0 then some 8
  else if leafKind e = 3 then
    (if leafMk e ≠ 0 then some 9
     else if lvl = 1 ∨ (lvl = 2 ∧ pa / 2 ^ 46 ≠ 0) then some 10 else none)
  else if leafMk e = 3 ∨ !hasStorage s part pa (leafMk e) then some 9
  else if (lvl = 1 ∧ leafMk e ≠ 2) ∨ (lvl = 2 ∧ leafMk e = 1) ∨
      (lvl = 2 ∧ leafMk e = 0 ∧ pa / 2 ^ 46 ≠ 0) then some 10
  else none

/-- The leaf that maps an address of an ASID, as memory holds it. -/
def State.walk (s : State) (asid va : Nat) : Walk :=
  match walkFrom s va 3 1 (s.asid asid).root with
  | .bad l r i => .bad l r i
  | .leaf l epa e =>
    match leafReason s (s.asid asid).part l e with
    | some r => .bad l r (tableIndex va l)
    | none => .leaf l epa e

/-! ### Homes (R181, R337) -/

def granuleKey (asid va : Nat) : Nat := asid * 2 ^ 34 + va % 2 ^ 55 / 2 ^ 21

def Granule.first (f : Nat) : Granule := { home := f, pinned := false, migrating := false, lastMove := 0 }

/-- R27: a field that may home a granule for accesses from a field: not STATE 3 or 4, and with a route. -/
def mayHome (s : State) (from_ f : Nat) : Bool :=
  decide ((s.field f).state < 3) && (from_ == f || Tab.get 0xFF s.fab.hops (48 * from_ + f) != 0xFF)

/-- The field in which a first access from a core homes a granule: the core's own (R337), else the one with
the fewest hops that may (R27), the lower number first. DEDUCED, unsafe (log 101). -/
def firstHome (s : State) (core : Nat) : Nat :=
  let a := coreField core
  if mayHome s a a then a
  else
    let hops (f : Nat) : Nat := Tab.get 0xFF s.fab.hops (48 * a + f)
    (((List.range 48).filter (mayHome s a)).foldl (fun (m : Option Nat) f => match m with
      | none => some f
      | some x => if hops f < hops x then some f else some x) none).getD a

def bigLeafKey (asid va : Nat) : Nat := asid * 2 ^ 26 + va % 2 ^ 55 / 2 ^ 29

/-- The placement map's home of a granule with no entry of its own: that of its 512 MiB leaf, else where a
first access from the core homes it. -/
def State.granHome (s : State) (core asid va : Nat) : Nat :=
  match Tab.find s.granules (granuleKey asid va) with
  | some g => g.home
  | none => match Tab.find s.leaves (bigLeafKey asid va) with
    | some l => l.home
    | none => firstHome s core

/-- Enters a granule in the placement map with this home. -/
def State.homeGranule (s : State) (asid va f : Nat) : State :=
  match Tab.find s.granules (granuleKey asid va) with
  | some _ => s
  | none => { s with granules := Tab.put s.granules (granuleKey asid va) (Granule.first f) }

/-- Whether the home of a page comes from the placement map (R181). -/
def mapHomed (ent : TlbEnt) : Bool :=
  leafKind ent.leaf == 3 || (ent.lvl == 2 && leafMk ent.leaf == 0)

/-- The physical address of a virtual address under a leaf (R178, R181), as the place of its bytes. -/
def leafPa (s : State) (core asid va : Nat) (ent : TlbEnt) : Nat :=
  let base := leafFrame ent.leaf * 2 ^ 16 + va % 2 ^ leafSpan ent.lvl
  if ent.lvl = 2 ∧ leafMk ent.leaf = 0 then s.granHome core asid va * 2 ^ 46 + base % 2 ^ 46
  else storePa (s.asid asid).part base (leafMk ent.leaf)

/-- The home field of an address under a leaf. -/
def homeField (s : State) (core asid va : Nat) (ent : TlbEnt) : Nat :=
  if mapHomed ent then s.granHome core asid va else leafFrame ent.leaf / 2 ^ 30

/-- What a walk enters in the placement map (R181, R337): the granule of a page with a home, at the field of a
resident 64 KiB leaf, else where the map or a first access homes it; and a 512 MiB leaf's first home. -/
def State.noteGranule (s : State) (core asid va : Nat) (ent : TlbEnt) : State :=
  if leafMk ent.leaf = 2 then s
  else
    let s := if ent.lvl = 2 ∧ leafKind ent.leaf = 2 then
        let home := (Tab.find s.leaves (bigLeafKey asid va)).map (·.home)
        let l : BigLeaf := { home := home.getD (firstHome s core), frame := leafFrame ent.leaf % 2 ^ 30 }
        { s with leaves := Tab.put s.leaves (bigLeafKey asid va) l }
      else s
    s.homeGranule asid va (homeField s core asid va ent)

/-- R181: a frame within the offsets that a 512 MiB leaf reserves in a field homing one of its granules. -/
def frameReserved (s : State) (fr : Nat) : Bool :=
  s.leaves.any fun e =>
    let n := fr % 2 ^ 30
    decide (e.2.frame ≤ n ∧ n < e.2.frame + 8192) &&
      (e.2.home == fr / 2 ^ 30 ||
        s.granules.any fun g => g.1 / 2 ^ 8 == e.1 && g.2.home == fr / 2 ^ 30)

/-! ### Checks of one page (R183, R184, R438, R439) -/

/-- A stretch of an access within one page, resolved. -/
structure Piece where
  va : Nat
  len : Nat
  asid : Nat
  pa : Nat
  leaf : Dword
  ro : Option (RoPage × Nat)
  deriving DecidableEq, Repr

def Piece.loc (p : Piece) : Nat := p.asid * 2 ^ 55 + p.va % 2 ^ 55
def Piece.absent (p : Piece) : Bool := leafKind p.leaf == 3
def Piece.remote (p : Piece) : Bool := p.ro.isNone && leafKind p.leaf == 2 && leafMk p.leaf == 2

/-- Window and offset of a remote physical address (R352). -/
def remoteWin (pa : Nat) : Nat := 64 * (pa / 2 ^ 46 - 48) + pa / 2 ^ 40 % 64
def remoteOff (pa : Nat) : Nat := pa % 2 ^ 40

/-- R352, R439 bit 5: a window that is free or not a data window has no length. -/
def remoteLen (s : State) (vf w : Nat) : Nat :=
  let x := s.win vf w
  if bitsOf x.w0 0 2 = 1 then bitsOf x.w5 0 40 else 0

/-- R439: the bits lacking for an access under a leaf; bit 6 has no case. DEDUCED, unsafe (log 31). -/
def lacking (s : State) (ag : Agent) (a : Acc) (slot pa len : Nat) (e : Dword) : Nat :=
  (if a.r && !bitOf e 2 then 1 else 0) + (if a.w && !bitOf e 3 then 2 else 0) +
  (if a.x && !bitOf e 4 then 4 else 0) + (if a.w && ag.aro / 2 ^ slot % 2 == 1 then 8 else 0) +
  (if leafKind e = 2 ∧ leafMk e = 2 ∧
      (!a.remoteOk ∨ remoteLen s ag.vf (remoteWin pa) < remoteOff pa + len) then 32 else 0)

/-- The entries of a table frame that memory lists, in increasing order. -/
def tableEntries (s : State) (frame : Nat) : List (Nat × Dword) :=
  ((s.mem.filterMap fun c => if c.1 / 2 ^ 16 = frame then some (c.1 % 2 ^ 16 / 8) else none).eraseDups).map fun i =>
    (i, s.load64 (frame * 2 ^ 16 + 8 * i))

/-- The leaves under a table, with the addresses they map. -/
def leavesFrom (s : State) : Nat → Nat → Nat → Nat → List (Nat × Nat × Dword)
  | 0, _, _, _ => []
  | n + 1, lvl, frame, va =>
    (tableEntries s frame).flatMap fun x =>
      let va := va + x.1 * 2 ^ leafSpan lvl
      if leafKind x.2 = 1 then leavesFrom s n (lvl + 1) (leafFrame x.2) va
      else if leafKind x.2 = 2 then [(va, lvl, x.2)] else []

/-- R184: a mapping of a frame of memory with W set, in some live address space. -/
def writableMapping (s : State) (fr : Nat) : Bool :=
  s.asids.any fun a => a.2.live && (leavesFrom s 3 1 a.2.root 0).any fun x =>
    bitOf x.2.2 3 && leafMk x.2.2 != 2 &&
      if x.2.1 = 2 ∧ leafMk x.2.2 = 0 then
        decide (leafFrame x.2.2 ≤ fr % 2 ^ 30 ∧ fr % 2 ^ 30 < leafFrame x.2.2 + 8192) &&
          s.granHome 0 a.1 (x.1 + (fr % 2 ^ 30 - leafFrame x.2.2) * 2 ^ 16) == fr / 2 ^ 30
      else storePa a.2.part (leafFrame x.2.2 * 2 ^ 16) (leafMk x.2.2) / 2 ^ 16 == fr

/-- R184: the fault of a leaf whose frame has another canonical address: a writable one, or any while some
mapping of the frame is writable. -/
def synonym (s : State) (asid va pa : Nat) (e : Dword) : Option Ev :=
  if leafKind e ≠ 2 ∨ leafMk e = 2 then none
  else match (Tab.get Frame.none s.frames (pa / 2 ^ 16)).canon with
  | none => none
  | some c =>
    if c = asid * 2 ^ 55 + va % 2 ^ 55 / 2 ^ 16 * 2 ^ 16 then none
    else if bitOf e 3 || writableMapping s (pa / 2 ^ 16) then some (synEv va c) else none

/-- Records the canonical address of a frame that has none yet. DEDUCED, unsafe (log 28). -/
def State.noteFrame (s : State) (asid va pa : Nat) (e : Dword) : State :=
  if leafKind e ≠ 2 ∨ leafMk e = 2 then s
  else
    let f := Tab.get Frame.none s.frames (pa / 2 ^ 16)
    if f.canon.isSome then s
    else
      let f := { f with canon := some (asid * 2 ^ 55 + va % 2 ^ 55 / 2 ^ 16 * 2 ^ 16), used := true }
      { s with frames := Tab.put s.frames (pa / 2 ^ 16) f }

def tlbKey (asid va : Nat) : Nat := asid * 2 ^ 39 + va % 2 ^ 55 / 2 ^ 16

/-- R179: sets bits of a leaf where it stands, with an atomic OR. -/
def State.orLeaf (s : State) (epa bit : Nat) : State :=
  let e := s.load64 epa
  if bitOf e bit then s else s.store epa (toBytes 8 (e.toNat + 2 ^ bit))

/-- R455, R467: the event of a page whose contents are lost. -/
def lostEv (pa : Nat) : Ev := { code := 0x405, arg := 0, addr := pa, synd := 0 }

/-- A walk that fills: the leaf's own checks, then permissions, then the synonym check (R413 step 6). -/
def fillPiece (s : State) (ag : Agent) (a : Acc) (slot asid va len : Nat) : State × Except Ev Piece :=
  match s.walk asid va with
  | .bad l r i =>
    (s, .error (match (if r = 4 then Tab.find s.lost (tlbKey asid va) else none) with
      | some pa => lostEv pa
      | none => transEv va l r i asid))
  | .leaf l epa e =>
    let ent : TlbEnt := { leaf := e, lvl := l, epa := epa }
    let s := s.orLeaf epa 5
    let s := s.noteGranule ag.core asid va ent
    let pa := leafPa s ag.core asid va ent
    let no := lacking s ag a slot pa len e
    if leafKind e = 2 ∧ leafMk e ≠ 2 ∧ homeDown s pa = true then (s, .error (lostEv pa))
    else if no ≠ 0 then (s, .error (protEv va no asid))
    else match synonym s asid va pa e with
    | some ev => (s, .error ev)
    | none =>
      let s := s.noteFrame asid va pa e
      let s := if leafKind e = 2 then { s with tlb := Tab.put s.tlb (tlbKey asid va) ent } else s
      (s, .ok { va := va, len := len, asid := asid, pa := pa, leaf := e, ro := none })

/-- R175 to R184 for one stretch within a page. DEDUCED, unsafe (log 29). -/
def resolvePiece (s : State) (ag : Agent) (a : Acc) (va len : Nat) : State × Except Ev Piece :=
  let slot := va / 2 ^ 55 % 4
  let asid := ag.asids.getD slot 0
  if 2 ^ 57 ≤ va then (s, .error (transEv va 0 1 0 0))
  else if slot ≠ 0 ∧ ag.av / 2 ^ slot % 2 = 0 then (s, .error (transEv va 0 2 0 0))
  else if !(s.asid asid).live then (s, .error (transEv va 0 2 0 asid))
  else match (if slot = 0 then roPageOf va else none) with
  | some (p, o) =>
    let no := (if a.w then 2 else 0) + (if a.x then 4 else 0) +
      (if p = .launchView ∧ 136 < o + len then 16 else 0)
    if no ≠ 0 then (s, .error (protEv va no asid))
    else (s, .ok { va := va, len := len, asid := asid, pa := 0, leaf := 2, ro := some (p, o) })
  | none =>
    match Tab.find s.tlb (tlbKey asid va) with
    | some ent =>
      let pa := leafPa s ag.core asid va ent
      if lacking s ag a slot pa len ent.leaf = 0 then
        (s, .ok { va := va, len := len, asid := asid, pa := pa, leaf := ent.leaf, ro := none })
      else fillPiece s ag a slot asid va len
    | none => fillPiece s ag a slot asid va len

/-! ### Accesses -/

/-- Cuts [va, va + n) at multiples of m. -/
def cutsAt (m : Nat) : Nat → Nat → Nat → List (Nat × Nat)
  | 0, _, _ => []
  | k + 1, va, n =>
    if n = 0 then []
    else
      let c := min n (m - va % m)
      (va, c) :: cutsAt m k (va + c) (n - c)

/-- Cuts at page boundaries; addresses are taken mod 2^64. -/
def pageCuts (va n : Nat) : List (Nat × Nat) :=
  (cutsAt (2 ^ 16) (n / 2 ^ 16 + 2) va n).map fun c => (c.1 % 2 ^ 64, c.2)

def lineCuts (va n : Nat) : List (Nat × Nat) := cutsAt 128 (n / 128 + 2) va n

def inTlWindow (va : Nat) : Bool := va / 2 ^ 40 == 0x7FFE
def inLaunchView (va : Nat) : Bool := va / 2 ^ 16 == 0x007FFF000002

/-- R177: the stretch of an access that lies in the thread-local window, at the slot-0 address it names. -/
def relocated (s : State) (ag : Agent) (va n : Nat) : Except Ev Nat :=
  let l := s.launch ag.launch
  let asid := ag.asids.getD 0 0
  match ag.wid with
  | none => .error (protEv va 16 asid)
  | some w =>
    let o := va % 2 ^ 40
    let t := (l.tlBase.toNat + l.linearIndex w * l.tlSize + o) % 2 ^ 64
    if l.tlSize < o + n ∨ inTlWindow t ∨ inTlWindow (t + n - 1) ∨ inLaunchView t ∨ inLaunchView (t + n - 1)
    then .error (protEv va 16 asid) else .ok t

/-- How many bytes of an access come before the thread-local window. -/
def beforeWindow (va n : Nat) : Nat := if inTlWindow va then 0 else min n (0x7FFE * 2 ^ 40 - va)

/-- R177: an access as the stretches it is performed at: its bytes in the thread-local window are replaced by
those they name, whatever comes before them stands. -/
def relocate (s : State) (ag : Agent) (va n : Nat) : Except Ev (List (Nat × Nat)) :=
  let before := beforeWindow va n
  if before = n ∨ !inTlWindow (va + before) then .ok [(va, n)]
  else match relocated s ag (va + before) (n - before) with
  | .error e => .error e
  | .ok t => .ok ((if before = 0 then [] else [(va, before)]) ++ [(t, n - before)])

/-- Every stretch of a list checked in increasing order; the first failure is the one reported. -/
def resolveAll (s : State) (ag : Agent) (a : Acc) : List (Nat × Nat) → State × Except Ev (List Piece)
  | [] => (s, .ok [])
  | (va, n) :: r =>
    match resolvePiece s ag a va n with
    | (s, .error e) => (s, .error e)
    | (s, .ok p) =>
      match resolveAll s ag a r with
      | (s, .error e) => (s, .error e)
      | (s, .ok ps) => (s, .ok (p :: ps))

/-- R188: an access of n bytes, with both pages of a page-crossing one checked. -/
def resolve (s : State) (ag : Agent) (a : Acc) (va n : Nat) : State × Except Ev (List Piece) :=
  match relocate s ag va n with
  | .error e =>
    match resolveAll s ag a (pageCuts va (beforeWindow va n)) with
    | (s, .error e') => (s, .error e')
    | (s, .ok _) => (s, .error e)
  | .ok l => resolveAll s ag a (l.flatMap fun x => pageCuts x.1 x.2)

end Sys2Proof.Machine
end

