-- ==== Sys2Proof/Machine/Coherence.lean ====
section
/-! DEFINITION. Which copies of a line exist (R182, R280, R328 to R337): the slices of a line, the lines held
at each cache level and their priorities, the directories, the predictors, and what a request of a cluster
does to them. Bytes of lines of classes 1 and 2 stand at their homes in this model, so these steps change no
value of theirs; copies of class 0 lines hold bytes of their own. -/

namespace Sys2Proof.Machine

open Sys2Proof

/-! ### The slices of a line (R280, R330) -/

/-- h of R280, for a line by its location. -/
def bankHash (loc : Nat) : Nat :=
  let va := loc % 2 ^ 55
  (loc / 2 ^ 55 * 0x9E37 ^^^ va / 2 ^ 7 ^^^ va / 2 ^ 20 ^^^ va / 2 ^ 33) % 2 ^ 32

/-- R280: the bank of a mask that holds a line; none of an empty mask. -/
def bankBy (mask loc : Nat) : Option Nat :=
  if popcount mask 192 = 0 then none else nthSetBit mask 192 0 (bankHash loc % popcount mask 192)

/-- slice_by of R330. -/
def sliceBy (mask loc : Nat) : Option Nat := (bankBy mask loc).map (· / 8)

/-- H(f) of R330: the banks that the line's partition holds in a field. -/
def heldBanks (s : State) (loc f : Nat) : Nat :=
  (Tab.get PartField.none (s.part (s.asid (loc / 2 ^ 55)).part).fields f).bankh.toNat

/-- field_point of R330; in the home field it is home_slice. -/
def fieldPoint (s : State) (loc f : Nat) : Option Nat := sliceBy (heldBanks s loc f) loc

/-- sector_slice of R330. -/
def sectorSlice (s : State) (loc f k : Nat) : Option Nat :=
  let m := heldBanks s loc f / 2 ^ (64 * k) % 2 ^ 64 * 2 ^ (64 * k)
  if m = 0 then fieldPoint s loc f else sliceBy m loc

/-! ### Lines held at the cache levels (R182, R191) -/

/-- The ways of the sets of a level: those of the slot in an L0 (R290). -/
def setWays (s : State) (level key : Nat) : Nat :=
  if level = 0 then popcount (s.cslot (key / 2 ^ 66) (key / 2 ^ 64 % 4)).l0Ways 16 else Config.cacheWays level + 1

/-- Two lines of one cache whose set is the same. -/
def sameSet (level a b : Nat) : Bool :=
  a / 2 ^ 64 == b / 2 ^ 64 && Config.cacheSet level (a % 2 ^ 64) == Config.cacheSet level (b % 2 ^ 64)

/-- The first line that a replacement takes, of those given by key, priority and last use: evict-first before
normal before evict-last, then the least recently used. -/
def firstOut : List (Nat × Nat × Nat) → Option Nat
  | [] => none
  | x :: r =>
    let rank (e : Nat × Nat × Nat) : Nat := if e.2.1 = 1 then 0 else if e.2.1 = 2 then 2 else 1
    some (r.foldl (fun m e => if rank e < rank m ∨ (rank e = rank m ∧ e.2.2 < m.2.2) then e else m) x).1

/-- R182, R191: the line that the set of a key gives up when it holds more lines than it has ways. -/
def victim (ways level key : Nat) (l : List (Nat × Nat × Nat)) : Option Nat :=
  if l.length ≤ ways then none
  else
    let set := l.filter fun e => sameSet level e.1 key
    if set.length ≤ ways then none else firstOut set

/-- R191: the evict-last line of a set that an evict-last line beyond half of the ways demotes: the least recently
used. -/
def demoted (ways level key : Nat) (l : List (Nat × Nat × Nat)) : Option Nat :=
  let set := l.filter fun e => e.2.1 == 2 && sameSet level e.1 key
  if ways / 2 < set.length then firstOut set else none

def Copy.entries (t : Tab Copy) : List (Nat × Nat × Nat) := t.map fun e => (e.1, e.2.prio, e.2.used)

/-- R191: a level's line at a key takes a priority. -/
def prioCopy (ways level now key prio : Nat) (t : Tab Copy) : Tab Copy :=
  match Tab.find t key with
  | none => t
  | some x =>
    let t := Tab.put t key { x with prio := prio, used := now }
    if prio ≠ 2 then t
    else match demoted ways level key (Copy.entries t) with
    | some k => Tab.mod Copy.none t k fun y => { y with prio := 0 }
    | none => t

/-- A level's line is used, or filled at normal priority in place of another where its set is full (R191). -/
def useCopy (ways level now key : Nat) (data : Option (List Byte)) (t : Tab Copy) : Tab Copy :=
  match Tab.find t key with
  | some x => Tab.put t key { x with used := now }
  | none =>
    let t := Tab.put t key { prio := 0, used := now, data := data }
    match victim ways level key (Copy.entries t) with
    | some k => Tab.erase t k
    | none => t

def l0Key (core slot loc : Nat) : Nat := (4 * core + slot) * 2 ^ 64 + loc / 128
def l2Key (f slice loc : Nat) : Nat := (24 * f + slice) * 2 ^ 64 + loc / 128
def fcKey (f loc : Nat) : Nat := f * 2 ^ 64 + loc / 128

def clineKey (core loc : Nat) : Nat := coreCluster core * 2 ^ 64 + loc / 128

def State.cline (s : State) (core loc : Nat) : CLine := Tab.get CLine.none s.fab.clines (clineKey core loc)

def State.setCline (s : State) (core loc : Nat) (c : CLine) : State :=
  { s with fab := { s.fab with clines := Tab.put s.fab.clines (clineKey core loc) c } }

/-- A line by its ASID and number, as a location. -/
def lineAt (asid line : Nat) : Nat := asid * 2 ^ 55 + line * 128 % 2 ^ 55

/-- A cluster's copy of a line. -/
def State.copyAt (s : State) (cl loc : Nat) : CLine := s.cline (4 * cl) loc

def State.setCopy (s : State) (cl loc : Nat) (c : CLine) : State := s.setCline (4 * cl) loc c

/-- R331: the cores of a cluster that hold a line in their L0, as the cluster filter has it. -/
def l0Mask (s : State) (cl loc : Nat) : BitVec 4 :=
  .ofNat 4 ((List.range 4).map fun k =>
    if (List.range 4).any fun i => (Tab.find s.fab.l0 (l0Key (4 * cl + k) i loc)).isSome then 2 ^ k else 0).sum

/-- The L0 copies of a line go, but those of one core. -/
def dropL0 (s : State) (cl loc : Nat) (keep : Option Nat) : State :=
  { s with fab := { s.fab with l0 := s.fab.l0.filter fun e =>
      !(e.1 % 2 ^ 64 == loc / 128 && e.1 / 2 ^ 68 == cl && keep != some (e.1 / 2 ^ 66)) } }

/-- Evicting a cluster's line invalidates its L0 copies (R331). -/
def State.dropCline (s : State) (core loc : Nat) : State :=
  dropL0 { s with fab := { s.fab with clines := Tab.erase s.fab.clines (clineKey core loc) } } (coreCluster core) loc none

/-- A core's L0 holds the line (R182). -/
def fillL0 (s : State) (core slot loc : Nat) : State :=
  let k := l0Key core slot loc
  { s with fab := { s.fab with l0 := useCopy (setWays s 0 k) 0 s.cycle k none s.fab.l0 } }

/-- A slice holds the line. -/
def fillL2 (s : State) (f : Nat) (slice : Option Nat) (loc : Nat) (data : Option (List Byte)) : State :=
  match slice with
  | some l =>
    let k := l2Key f l loc
    { s with fab := { s.fab with l2 := useCopy (setWays s 2 k) 2 s.cycle k data s.fab.l2 } }
  | none => s

/-- The field cache of the home holds the line (R195). -/
def fillFcache (s : State) (home loc : Nat) : State :=
  let k := fcKey home loc
  { s with fab := { s.fab with fcache := useCopy (setWays s 3 k) 3 s.cycle k none s.fab.fcache } }

/-! ### Directories (R332) -/

def fdirKey (f loc : Nat) : Nat := f * 2 ^ 64 + loc / 512

def State.fdirAt (s : State) (f loc : Nat) : FDir := Tab.get FDir.none s.fab.fdir (fdirKey f loc)
def State.sdirAt (s : State) (loc : Nat) : SDir := Tab.get SDir.none s.fab.sdir (loc / 512)

def State.setFdir (s : State) (f loc : Nat) (d : FDir) : State :=
  { s with fab := { s.fab with fdir := Tab.put s.fab.fdir (fdirKey f loc) { d with used := s.cycle } } }

def State.setSdir (s : State) (loc : Nat) (d : SDir) : State :=
  { s with fab := { s.fab with sdir := Tab.put s.fab.sdir (loc / 512) { d with used := s.cycle } } }

/-- The line within its region. -/
def inRegion (loc : Nat) : Nat := loc / 128 % 4

/-- The clusters that hold a copy of a line. -/
def holders (s : State) (loc : Nat) : List Nat :=
  (s.fab.clines.filter fun e => e.1 % 2 ^ 64 == loc / 128).map fun e => e.1 / 2 ^ 64

/-- The field a directory entry names for a line's ownership, the home's own entry first. -/
def ownField (s : State) (home loc : Nat) : Option Nat :=
  let i := inRegion loc
  if Tab.get 0 (s.fdirAt home loc).own i ≠ 0 then some home
  else match Tab.get 0 (s.sdirAt loc).fown i with
    | 0 => none
    | n => some (n - 64)

/-- The cluster recorded as the owner of a line. -/
def ownerOf (s : State) (home loc : Nat) : Option Nat :=
  (ownField s home loc).bind fun f => match Tab.get 0 (s.fdirAt f loc).own (inRegion loc) with
    | 0 => none
    | n => some (48 * f + (n - 64))

/-- Bits lo to lo + n − 1 set. -/
def bitRun (w lo n : Nat) : BitVec w := .ofNat w ((2 ^ n - 1) * 2 ^ lo)

/-- OWN, FOWN and GR of a line are clear. -/
def clearOwner (s : State) (home loc : Nat) : State :=
  match ownField s home loc with
  | none => s
  | some f =>
    let i := inRegion loc
    let d := s.fdirAt f loc
    let s := s.setFdir f loc { d with own := Tab.erase d.own i, gr := d.gr &&& ~~~(bitRun 4 i 1) }
    let h := s.sdirAt loc
    if f = home then s else s.setSdir loc { h with fown := Tab.erase h.fown i }

/-- OWN, FOWN and GR name a cluster. -/
def setOwner (s : State) (home loc cl : Nat) : State :=
  let i := inRegion loc
  let f := cl / 48
  let d := s.fdirAt f loc
  let s := s.setFdir f loc { d with
    own := Tab.put d.own i (64 + cl % 48), shr := d.shr ||| bitRun 48 (cl % 48) 1
    gr := if f = home then d.gr else d.gr ||| bitRun 4 i 1 }
  if f = home then s
  else
    let h := s.sdirAt loc
    s.setSdir loc { h with fown := Tab.put h.fown i (64 + f), fsh := h.fsh ||| bitRun 48 f 1 }

/-- R333: SHR, and FSH when the field is not the home, gain a reader. -/
def addSharer (s : State) (home loc cl : Nat) : State :=
  let f := cl / 48
  let d := s.fdirAt f loc
  let s := s.setFdir f loc { d with shr := d.shr ||| bitRun 48 (cl % 48) 1 }
  if f = home then s
  else
    let h := s.sdirAt loc
    s.setSdir loc { h with fsh := h.fsh ||| bitRun 48 f 1 }

/-- A field's L2 holds some line of a region, beside the copies at its field point. -/
def sectorHolds (s : State) (f k loc : Nat) : Bool :=
  s.fab.l2.any fun e => e.1 / 2 ^ 64 / 8 == 3 * f + k && e.1 % 2 ^ 64 / 4 == loc / 512 &&
    fieldPoint s (e.1 % 2 ^ 64 * 128) f != some (e.1 / 2 ^ 64 % 24)

/-- A cluster holds some line of a region. -/
def clusterHolds (s : State) (cl loc : Nat) : Bool :=
  s.fab.clines.any fun e => e.1 / 2 ^ 64 == cl && e.1 % 2 ^ 64 / 4 == loc / 512

/-- The bits of SHR and SEC of a field's entry, and of FSH, for what has acknowledged that it holds no line
of the region any more (R332, R333). -/
def clearBits (s : State) (home loc f : Nat) : State :=
  let d := s.fdirAt f loc
  let shr := (List.range 48).foldl (fun (m : BitVec 48) c =>
    if d.shr.getLsbD c && clusterHolds s (48 * f + c) loc then m ||| bitRun 48 c 1 else m) 0
  let sec := (List.range 3).foldl (fun (m : BitVec 3) k =>
    if d.sec.getLsbD k && sectorHolds s f k loc then m ||| bitRun 3 k 1 else m) 0
  if shr = d.shr ∧ sec = d.sec then s
  else
    let s := s.setFdir f loc { d with shr := shr, sec := sec }
    let h := s.sdirAt loc
    if f = home ∨ shr ≠ 0 ∨ sec ≠ 0 ∨ !h.fsh.getLsbD f then s
    else s.setSdir loc { h with fsh := h.fsh &&& ~~~(bitRun 48 f 1) }

/-- The L2 lines whose keys satisfy f stay. -/
def keepL2 (s : State) (f : Nat → Bool) : State :=
  if s.fab.l2 = [] then s else { s with fab := { s.fab with l2 := s.fab.l2.filter fun e => f e.1 } }

/-- Fields that the directories say may hold the line's region. -/
def regionFields (s : State) (loc : Nat) : List Nat :=
  (s.fab.fdir.filter fun e => e.1 % 2 ^ 64 == loc / 512).map fun e => e.1 / 2 ^ 64

/-- R333: every copy of a line goes but one cluster's: the clusters' with their L0 copies, the sector slices'
and those of other fields. -/
def invalidateLine (s : State) (home loc : Nat) (keep : Option Nat) : State :=
  let s := ((holders s loc).filter fun c => keep != some c).foldl (fun s c => s.dropCline (4 * c) loc) s
  let at_ := (fieldPoint s loc home).map fun l => l2Key home l loc
  let s := keepL2 s fun k => k % 2 ^ 64 != loc / 128 || at_ == some k
  (regionFields s loc).foldl (fun s f => clearBits s home loc f) s

/-! ### Predictors (R335, R336) -/

def peerKey (cl loc : Nat) : Nat := 1024 * cl + Config.predictorIndex [0, loc / 128] % 1024

def setPeer (s : State) (cl loc : Nat) (p : PeerPred) : State :=
  { s with fab := { s.fab with peer := Tab.put s.fab.peer (peerKey cl loc) p } }

/-- A response that names a supplier of the same sector. -/
def trainPeer (s : State) (cl loc supplier : Nat) : State :=
  if supplier / 16 = cl / 16 then setPeer s cl loc { valid := true, cluster := supplier % 48, conf := 3 } else s

/-- R336: the counter of a context's line in a cluster's atomic predictor. -/
def atomKey (cl ctx loc : Nat) : Nat := 4096 * cl + Config.predictorIndex [1, ctx, loc / 128] % 4096

def setAtom (s : State) (k n : Nat) : State :=
  { s with fab := { s.fab with atom := Tab.set 0 s.fab.atom k n } }

/-- R336: a line acquired for an atomic is recalled before a second atomic on it. -/
def trainUp (s : State) (c : CLine) : State :=
  match c.forAtom with
  | some k => setAtom s k (min 7 (Tab.get 0 s.fab.atom k + 1))
  | none => s

/-! ### Accesses that reach the home (R337) -/

/-- An access of a field reaches the home slice. DESIGN CHOICE, safe (log 84). -/
def countAccess (s : State) (f loc : Nat) : State :=
  let k := 64 * granuleKey (loc / 2 ^ 55) loc + f
  { s with fab := { s.fab with access := Tab.put s.fab.access k (Tab.get 0 s.fab.access k + 1) } }

/-- R179: sets D of the page a home write is performed on, or ownership is granted for. -/
def State.markDirty (s : State) (loc : Nat) : State :=
  match s.walk (loc / 2 ^ 55) (loc % 2 ^ 55) with
  | .leaf _ epa _ => s.orLeaf epa 6
  | .bad _ _ _ => s

/-! ### Requests (R333) -/

/-- The recorded owner, if it still holds the line, writes back; with `keep` it drops to S. -/
def recallOwner (s : State) (home loc : Nat) (keep : Bool) : State :=
  match ownerOf s home loc with
  | none => clearOwner s home loc
  | some x =>
    let c := s.copyAt x loc
    let s := clearOwner s home loc
    if 2 < c.st then s
    else
      let s := trainUp s c
      if keep then s.setCopy x loc { c with st := 0, dirty := 0, forAtom := none } else s.dropCline (4 * x) loc

/-- Another copy may exist, as the directories know it. -/
def othersMay (s : State) (home loc cl : Nat) : Bool :=
  let d := s.fdirAt (cl / 48) loc
  d.shr &&& ~~~(bitRun 48 (cl % 48) 1) != 0 || (s.fdirAt home loc).shr &&& ~~~(if cl / 48 = home then bitRun 48 (cl % 48) 1 else 0) != 0 ||
    (s.sdirAt loc).fsh &&& ~~~(bitRun 48 (cl / 48) 1) != 0

/-- A cluster's new copy of a line. -/
def newCopy (s : State) (st : Nat) : CLine := { CLine.none with st := st, used := s.cycle }

/-- A read leaves copies in the slices on its way, tracked by SEC (R330, R332). -/
def fillSlices (s : State) (home loc cl : Nat) (data : Option (List Byte)) : State :=
  let f := cl / 48
  let k := cl % 48 / 16
  let here := fieldPoint s loc f
  let near := sectorSlice s loc f k
  let s := fillL2 (fillFcache (fillL2 s home (fieldPoint s loc home) loc none) home loc) f near loc data
  let s := if f = home then s else fillL2 s f here loc data
  if near = here ∨ data.isSome = true then s
  else
    let d := s.fdirAt f loc
    s.setFdir f loc { d with sec := d.sec ||| bitRun 3 k 1 }

/-- The slices of a cluster's own field hold the line, so that a read need not reach the home. -/
def nearSlice (s : State) (home loc cl : Nat) : Bool :=
  let f := cl / 48
  let has (l : Option Nat) : Bool := l.any fun l => (Tab.find s.fab.l2 (l2Key f l loc)).isSome
  (sectorSlice s loc f (cl % 48 / 16) != fieldPoint s loc f && has (sectorSlice s loc f (cl % 48 / 16))) ||
    (f != home && has (fieldPoint s loc f))

/-- A read of a line of class 1 or 2 by a cluster that does not hold it, at the field point and the home;
without `fill` it leaves no copy in the cluster (R191). -/
def readLineFor (s : State) (cl loc home : Nat) (fill : Bool) : State :=
  let owner := ownerOf s home loc
  let s := if nearSlice s home loc cl && owner.isNone then s else countAccess s (cl / 48) loc
  let live := owner.filter fun x => x != cl && decide ((s.copyAt x loc).st ≤ 2)
  let s := match live with
    | some x => trainPeer (recallOwner s home loc true) cl loc x
    | none => clearOwner s home loc
  let alone := live.isNone && !othersMay s home loc cl
  let s := fillSlices s home loc cl none
  if !fill then s
  else
    let s := addSharer s home loc cl
    if alone then (setOwner s home loc cl).setCopy cl loc (newCopy s 1) else s.setCopy cl loc (newCopy s 0)

/-- R335: what a probe of the named peer comes to: the peer's data, or a miss, which lowers the confidence. -/
def probePeer (s : State) (cl loc home : Nat) (p : PeerPred) : State × Bool :=
  let peer := cl / 48 * 48 + p.cluster
  let c := s.copyAt peer loc
  if c.st ≤ 1 ∧ peer ≠ cl then
    let s := if c.st = 1 then clearOwner s home loc else s
    let s := s.setCopy peer loc { c with st := 0 }
    let s := addSharer (addSharer (setPeer s cl loc { p with conf := min 3 (p.conf + 1) }) home loc peer) home loc cl
    (s.setCopy cl loc (newCopy s 0), true)
  else (setPeer s cl loc { p with conf := p.conf - 1 }, false)

/-- A read miss of a cluster: a probe of a peer where its predictor has confidence, else the slice (R333,
R335). -/
def readMiss (s : State) (cl loc home : Nat) : State :=
  let p := Tab.get PeerPred.none s.fab.peer (peerKey cl loc)
  if p.valid && decide (2 ≤ p.conf) then
    match probePeer s cl loc home p with
    | (s, true) => s
    | (s, false) => readLineFor s cl loc home true
  else readLineFor s cl loc home true

/-- R333: ownership of a line for a cluster, for an owned write or a near atomic; a line held E needs no
message (R331). -/
def acquireLine (s : State) (cl loc home : Nat) (dirty : BitVec 128) (forAtom : Option Nat) : State :=
  let c := s.copyAt cl loc
  if c.st = 1 ∨ c.st = 2 then
    s.setCopy cl loc { c with
      st := 2, dirty := c.dirty ||| dirty, used := s.cycle
      forAtom := if c.st = 2 ∧ forAtom.isSome = true then none else if forAtom.isSome then forAtom else c.forAtom }
  else
    let s := if (s.fdirAt (cl / 48) loc).gr.getLsbD (inRegion loc) then s else countAccess s (cl / 48) loc
    let s := invalidateLine (recallOwner s home loc false) home loc (some cl)
    let s := (setOwner s home loc cl).markDirty loc
    s.setCopy cl loc { newCopy s 2 with dirty := dirty, prio := c.prio, selfInv := c.selfInv, forAtom := forAtom }

/-- R333: a read at the home that leaves no copy. -/
def readUncached (s : State) (f loc home : Nat) : State :=
  fillFcache (recallOwner (countAccess s f loc) home loc true) home loc

/-- R333: a write performed at the home: the owner is recalled, and every copy goes but that of the writer
of a write-through. -/
def writeAtHome (s : State) (f loc home : Nat) (keep : Option Nat) : State :=
  let s := countAccess s f loc
  let own := ownerOf s home loc
  let s := recallOwner s home loc (own.isSome && own == keep)
  fillFcache (invalidateLine s home loc keep) home loc

/-! ### Accesses of an agent to a line of class 1 or 2 -/

/-- A read by an agent: `keep` when it may fill the L0 and the cluster cache. -/
def cohRead (s : State) (cl : Option Nat) (core slot loc home ty : Nat) (keep : Bool) : State :=
  match cl with
  | none => readUncached s home loc home
  | some c =>
    if ty = 3 then readUncached s (c / 48) loc home
    else
      let x := s.copyAt c loc
      let s := if x.st ≤ 2 then s.setCopy c loc { x with used := s.cycle }
        else if keep then readMiss s c loc home else readLineFor s c loc home false
      if keep then fillL0 s core slot loc else s

/-- A write by an agent (R187, R331, R333): a store reaches the L0 of its core and then its cluster, whose
filter invalidates the other L0 copies. -/
def cohWrite (s : State) (cl : Option Nat) (core slot loc home ty : Nat) (keep : Bool) (mask : BitVec 128) : State :=
  match cl with
  | none => writeAtHome s home loc home none
  | some c =>
    if ty = 0 ∧ (keep ∨ (s.copyAt c loc).st = 2) then
      fillL0 (dropL0 (acquireLine s c loc home mask none) c loc (some core)) core slot loc
    else if ty = 3 then writeAtHome s (c / 48) loc home none
    else dropL0 (writeAtHome s (c / 48) loc home (some c)) c loc (some core)

/-- R223, R336: an atomic of a cluster: near, where the line is held M, or where the counter is below 4 or the
scope is the block's; else far. -/
def cohAtomic (s : State) (cl ctx loc home : Nat) (wide : Bool) (mask : BitVec 128) : State :=
  let k := atomKey cl ctx loc
  let n := Tab.get 0 s.fab.atom k
  if (s.copyAt cl loc).st = 2 then dropL0 (acquireLine (setAtom s k (n - 1)) cl loc home mask (some k)) cl loc none
  else if wide ∧ 4 ≤ n then writeAtHome s (cl / 48) loc home none
  else dropL0 (acquireLine s cl loc home mask (some k)) cl loc none

/-! ### Replacement of directory entries (R332) -/

/-- A field's copies of a line are written back and invalidated. -/
def dropField (s : State) (f home loc : Nat) : State :=
  let s := if ownField s home loc = some f then recallOwner s home loc false else s
  ((holders s loc).filter fun c => c / 48 == f).foldl (fun s c => s.dropCline (4 * c) loc) s

/-- The copies that a field's entry tracks are written back and invalidated, and the entry goes. -/
def dropEntry (s : State) (f loc home : Nat) : State :=
  let s := [0, 1, 2, 3].foldl (fun s i => dropField s f home (loc / 512 * 512 + 128 * i)) s
  let s := keepL2 s fun k => !(k % 2 ^ 64 / 4 == loc / 512 && k / 2 ^ 64 / 24 == f && f != home)
  let s := { s with fab := { s.fab with fdir := Tab.erase s.fab.fdir (fdirKey f loc) } }
  let h := s.sdirAt loc
  if f != home && h.fsh.getLsbD f then s.setSdir loc { h with fsh := h.fsh &&& ~~~(bitRun 48 f 1) } else s

/-- The least recently used of entries, as key and step. -/
def oldest : List (Nat × Nat) → Option Nat
  | [] => none
  | e :: r => some (r.foldl (fun m x => if x.2 < m.2 then x else m) e).1

/-- R332: an entry for a region beyond the 16 ways of its set in its slice replaces the least recently
used. -/
def fitFdir (s : State) (f loc home : Nat) : State :=
  if s.fab.fdir.length ≤ 16 then s
  else
    let same := s.fab.fdir.filter fun e => e.1 / 2 ^ 64 == f && e.1 != fdirKey f loc &&
      fieldPoint s (e.1 % 2 ^ 64 * 512) f == fieldPoint s loc f &&
      Config.cacheSet 4 (e.1 % 2 ^ 64) == Config.cacheSet 4 (loc / 512)
    if same.length < 16 then s
    else match oldest (same.map fun e => (e.1, e.2.used)) with
    | some k => dropEntry s f (k % 2 ^ 64 * 512) home
    | none => s

/-- R332: the same for the sparse directory of the home. -/
def fitSdir (s : State) (loc home : Nat) : State :=
  if s.fab.sdir.length ≤ 16 then s
  else
    let same := s.fab.sdir.filter fun e => e.1 != loc / 512 &&
      fieldPoint s (e.1 * 512) home == fieldPoint s loc home &&
      Config.cacheSet 5 e.1 == Config.cacheSet 5 (loc / 512)
    if same.length < 16 then s
    else match oldest (same.map fun e => (e.1, e.2.used)) with
    | some k =>
      let fs := (List.range 48).filter fun f => f != home && (s.sdirAt (k * 512)).fsh.getLsbD f
      let s := fs.foldl (fun s f => dropEntry s f (k * 512) home) s
      { s with fab := { s.fab with sdir := Tab.erase s.fab.sdir k } }
    | none => s

/-- After a request: the entries it has made fit their sets. -/
def fitDirs (s : State) (f loc home : Nat) : State := fitSdir (fitFdir (fitFdir s f loc home) home loc home) loc home

/-! ### Whole lines -/

/-- R185, R208, R280, R338: every copy of a line goes from every level of the wafer, tracked or not. The bytes
of dirty class 0 copies are written back by the caller. -/
def forgetLine (s : State) (loc : Nat) : State :=
  let l := loc / 128
  { s with fab := { s.fab with
    clines := s.fab.clines.filter fun e => e.1 % 2 ^ 64 != l
    l0 := s.fab.l0.filter fun e => e.1 % 2 ^ 64 != l
    l2 := s.fab.l2.filter fun e => e.1 % 2 ^ 64 != l
    fcache := s.fab.fcache.filter fun e => e.1 % 2 ^ 64 != l
    fdir := s.fab.fdir.mapVals fun k d => if k % 2 ^ 64 = loc / 512 then
      { d with own := Tab.erase d.own (inRegion loc), gr := d.gr &&& ~~~(bitRun 4 (inRegion loc) 1) } else d
    sdir := s.fab.sdir.mapVals fun k d => if k = loc / 512 then { d with fown := Tab.erase d.fown (inRegion loc) } else d } }

/-- R280: the bank mask of a partition in a field changes: lines whose bank changes leave the field's L2. -/
def rebank (s : State) (part f old new : Nat) : State :=
  keepL2 s fun k =>
    let loc := k % 2 ^ 64 * 128
    !(k / 2 ^ 64 / 24 == f && (s.asid (loc / 2 ^ 55)).part == part && bankBy old loc != bankBy new loc)

end Sys2Proof.Machine
end

