-- ==== Sys2Proof/Machine/Record.lean ====
section
/-! DEFINITION. The 64-byte records of the device: fault records (R412), debug records (R375), samples
(R369), tile stamp records (R366) and completion records (R318). -/

namespace Sys2Proof.Machine

open Sys2Proof

/-- R361: the logical name. -/
def nameBytes (wid lnum ctx : Nat) : List Byte := toBytes 8 wid ++ toBytes 4 lnum ++ toBytes 2 ctx

/-- The codes of debug stops, beyond the fault codes: cause × 256 + entry above 0x10000 (R375). -/
def debugCode (cause index : Nat) : Nat := 0x10000 + 256 * cause + index

def Ev.isDebug (e : Ev) : Bool := 0x10000 ≤ e.code

/-- R403, R416: the class of a fault code. -/
def codeClass (code : Nat) : Nat :=
  if code < 0x110 then 0 else if code < 0x300 then 1 else if code < 0x400 then 2 else 3

/-- The flags of a fault record (R412). -/
structure RecFlags where
  async : Bool := false
  rolled : Bool := false
  replaced : Bool := false
  double : Bool := false
  ended : Bool := false
  deriving DecidableEq, Repr

def RecFlags.byte (f : RecFlags) : Nat :=
  f.async.toNat + 2 * f.rolled.toNat + 4 * f.replaced.toNat + 8 * f.double.toNat + 16 * f.ended.toNat

def unitKindNum : UnitKind → Nat
  | .none => 0 | .core => 1 | .cluster => 2 | .sector => 3 | .slice => 4 | .link => 5
  | .channel => 6 | .port => 7 | .line => 8

def unitWord (u : UnitId) : Nat := u.field % 64 + 64 * unitKindNum u.kind + 1024 * (u.num % 64)

/-- No unit. -/
def UnitId.none : UnitId := { field := 0, kind := .none, num := 0, k := 0 }

/-- A fault record (R412). -/
structure FaultRec where
  wid : Nat
  lnum : Nat
  ctx : Nat
  flags : RecFlags := {}
  nthr : Nat := 0
  pc : Nat
  core : Nat
  unit : UnitId := UnitId.none
  deriving DecidableEq, Repr

def faultBytes (r : FaultRec) (e : Ev) (time : Nat) : List Byte :=
  nameBytes r.wid r.lnum r.ctx ++ toBytes 1 (codeClass e.code) ++ toBytes 1 r.flags.byte ++
  toBytes 2 e.code ++ toBytes 2 r.nthr ++ toBytes 4 e.arg ++ toBytes 8 r.pc ++ toBytes 8 e.addr ++
  toBytes 8 e.synd ++ toBytes 8 time ++ toBytes 2 r.core ++ toBytes 2 (unitWord r.unit) ++
  toBytes 2 r.unit.k ++ toBytes 1 4 ++ toBytes 1 0

/-- R375: a debug record. -/
def debugBytes (wid lnum ctx : Nat) (e : Ev) (pc time nhit : Nat) : List Byte :=
  nameBytes wid lnum ctx ++ toBytes 1 (e.code / 256) ++ toBytes 1 e.code ++ toBytes 8 pc ++
  toBytes 8 e.addr ++ toBytes 8 time ++ toBytes 2 nhit ++ toBytes 20 0 ++ toBytes 1 3 ++ toBytes 1 0

/-- R369: a sample. -/
def sampleBytes (wid lnum ctx code pc time icount core : Nat) : List Byte :=
  nameBytes wid lnum ctx ++ toBytes 1 code ++ toBytes 1 0 ++ toBytes 8 pc ++ toBytes 8 time ++
  toBytes 8 icount ++ toBytes 2 core ++ toBytes 20 0 ++ toBytes 1 2 ++ toBytes 1 0

/-- The seven event times of a stamp, in the order of R366. -/
def Stamp.times (t : Stamp) : List (Option Nat) :=
  [t.fills, t.fille, t.waits, t.comps, t.compe, t.drns, t.drne]

/-- R366: a tile stamp record. -/
def stampBytes (ident lnum ctx tile gen : Nat) (t : Stamp) (tfree : Bool) : List Byte :=
  let evs := t.times.filterMap id
  let base := evs.foldl min (evs.headD 0)
  nameBytes ident lnum ctx ++ toBytes 1 tile ++ toBytes 1 gen ++ toBytes 8 base ++
  (t.times.flatMap fun o => toBytes 4 (match o with
    | some x => min (x - base) 0xFFFFFFFE
    | none => 0xFFFFFFFF)) ++
  toBytes 4 (min t.bytes 0xFFFFFFFF) ++ toBytes 4 (min t.ksteps 0xFFFFFFFF) ++
  toBytes 2 (t.refused.toNat + 2 * tfree.toNat + 4 * t.kept.toNat + 8 * t.moved.toNat) ++
  toBytes 1 1 ++ toBytes 1 0

/-- R318: a completion record. -/
def completionBytes (l : Launch) : List Byte :=
  toBytes 8 l.seq ++ toBytes 4 (if l.fence then 0 else l.lnum) ++
  toBytes 1 (l.status + 128 * l.landed.toNat) ++ toBytes 1 l.detail ++
  toBytes 2 (min l.failed.length 65535) ++ toBytes 8 l.tacc ++ toBytes 8 l.tend ++
  (List.range 4).flatMap fun i => toBytes 8 ((l.failed.map (·.toNat)).getD i 0)

/-- R468: a device event record, the n-th since start-up. -/
def eventBytes (n : Nat) (e : DevEvent) : List Byte :=
  toBytes 8 n ++ toBytes 8 e.time ++ toBytes 8 e.gen.toNat ++ toBytes 2 (unitWord e.unit) ++ toBytes 2 e.code ++
  toBytes 4 e.nroll ++ toBytes 4 e.nfail ++ toBytes 4 e.nret ++ toBytes 1 (e.unit.k % 4) ++ toBytes 21 0 ++
  toBytes 1 5 ++ toBytes 1 0

/-- R469: a journal entry. -/
def journalBytes (l : Launch) : List Byte :=
  (l.pkt.flatMap fun w => toBytes 8 w.toNat) ++ toBytes 8 l.seq ++
  toBytes 8 (l.win + 2 ^ 10 * l.vf + 2 ^ 16 * l.ctx + 2 ^ 32 * l.state + 2 ^ 36 * l.landed.toNat) ++
  toBytes 4 l.lnum ++ toBytes 12 0 ++ (if 2 ≤ l.state then completionBytes l else List.replicate 64 0) ++ List.replicate 32 0

/-- R357: the boot record as the flash holds it. -/
def bootBytes (b : Boot) : List Byte :=
  toBytes 4 b.magic.toNat ++ toBytes 1 b.attempts ++ toBytes 1 b.mode ++ toBytes 1 b.cause ++ toBytes 1 b.cfield ++
  toBytes 1 b.imgsel ++ toBytes 1 b.imgok ++ toBytes 2 b.steps.toNat ++ toBytes 4 0 ++ toBytes 8 b.tstart.toNat ++
  toBytes 8 b.tdone.toNat ++ toBytes 1 b.pkgid ++ toBytes 31 0

/-- Puts a fault record into the hold of a virtual function (R411). Abort and machine-check records
never wait: with the hold full they are dropped and counted. -/
def State.hold (s : State) (v : Nat) (rec_ : List Byte) : State :=
  s.modVf v fun f =>
    if f.hold.length < 256 ∨ (rec_.getD 0x0E 0).toNat < 2 then { f with hold := f.hold ++ [rec_] }
    else { f with fault := { f.fault with drop := f.fault.drop + 1 } }

end Sys2Proof.Machine
end

