-- ==== Sys2Proof/Machine/Mem.lean ====
section
/-! DEFINITION. Reading and writing memory: copies of class 0 lines (R186, R187), provisional bytes (R202),
and home writes with their shadows (R206, R207, R447). -/

namespace Sys2Proof.Machine

open Sys2Proof

/-! ### Bytes of lines -/

/-- Replaces the bytes of a list from position o. -/
def patch (l : List Byte) (o : Nat) (bs : List Byte) : List Byte :=
  l.take o ++ bs ++ l.drop (o + bs.length)

/-- The mask of a run of bytes of a line. -/
def byteMask (o n : Nat) : BitVec 128 := bitRun 128 o n

/-! ### Home writes, shadows and held writes (R206, R207, R446, R447) -/

/-- The open level of a context that holds a line: the innermost whose ranges cover it, 0 for none. -/
def levelOf (levels : List Level) (loc : Nat) : Nat :=
  ((List.range levels.length).filter fun i =>
    ((levels.getD i { scope := .block, ranges := [] }).ranges.any fun r =>
      r.asid == loc / 2 ^ 55 && r.base ≤ loc % 2 ^ 55 && loc % 2 ^ 55 < r.base + r.len)).foldl
    (fun _ i => i + 1) 0

/-- R207: the context and innermost open level whose ranges hold a line. -/
def State.shadower (s : State) (loc : Nat) : Option (Nat × Nat) :=
  match s.ctxs.find? fun e => levelOf e.2.levels loc ≠ 0 with
  | some (c, x) => some (c, levelOf x.levels loc)
  | none => none

def shadowKey (ctx lvl loc : Nat) : Nat := ctx * 2 ^ 96 + lvl * 2 ^ 93 + loc / 128
def shadowCtx (k : Nat) : Nat := k / 2 ^ 96
def shadowLvl (k : Nat) : Nat := k / 2 ^ 93 % 8
def shadowLine (k : Nat) : Nat := k % 2 ^ 93

/-- Lines the shadow pool of a partition holds in a field, and those in use. -/
def State.poolLines (s : State) (part f : Nat) : Nat :=
  (Tab.get PartField.none (s.part part).fields f).shadow * 512

def State.poolUsed (s : State) (part f : Nat) : Nat :=
  (s.shadows.filter fun e => e.2.field == f && (s.ctx (shadowCtx e.1)).part == part).length

/-- R207, R229: the shadow a home write of a DRAM line needs first. -/
def State.shadowNeed (s : State) (loc pa mk : Nat) : Option (Nat × Nat) :=
  if mk ≠ 0 then none
  else match s.shadower loc with
  | some (c, l) => if Tab.get 0 s.wgen (pa / 128) < l then some (c, l) else none
  | none => none

/-- Takes the shadow of a line. -/
def State.takeShadow (s : State) (c l loc pa : Nat) : State :=
  let s := { s with
    shadows := Tab.put s.shadows (shadowKey c l loc)
      { field := pa / 2 ^ 46, pa := pa / 128 * 128, bytes := s.bytes (pa / 128 * 128) 128 }
    wgen := Tab.set 0 s.wgen (pa / 128) l }
  s.count (s.ctx c).part (some (s.ctx c).vf) (pa / 2 ^ 46) 0x40 1

/-- R175, R437: the address by which a context names a location: through its lowest slot that holds the
ASID. -/
def State.ctxVa (s : State) (c loc : Nat) : Nat :=
  let x := s.ctx c
  let holds (k : Nat) : Bool := (k == 0 || x.av.getLsbD (k - 1)) && Tab.get 0 x.asids k == loc / 2 ^ 55
  2 ^ 55 * (([0, 1, 2, 3].find? holds).getD 0) + loc % 2 ^ 55

/-- R437: the SHADOW-FULL event of a line. -/
def shadowEv (va lvl field : Nat) (commit held : Bool) : Ev :=
  { code := 0x204, arg := 0, addr := va,
    synd := lvl + 8 * field + 512 * commit.toNat + 1024 * held.toNat }

/-- The writer of a home write: its context, the block and thread that wait for it if it is held, and
whether lack of room is raised at it (R446) or holds it (R447). -/
structure Writer where
  ctx : Nat
  blk : Option Nat
  thr : Nat
  precise : Bool
  /-- Held writes being retried, whose record has been given. -/
  known : List Held
  deriving DecidableEq, Repr

/-- R447: the record of a held write, one per level and home field. -/
def State.heldRecord (s : State) (known : List Held) (c l loc field : Nat) : State :=
  if (known ++ s.held).any fun h => h.owner == c && h.level == l && h.field == field then s
  else
    let s := s.count (s.ctx c).part (some (s.ctx c).vf) field 0x41 1
    s.hold (s.ctx c).vf (faultBytes
      { wid := 0, lnum := 0, ctx := c, flags := { async := true }, pc := 0, core := 0xFFFF }
      (shadowEv (s.ctxVa c (loc / 128 * 128)) l field false true) s.now)

/-- A write of some bytes of one line at its home. -/
def homeWrite (s : State) (w : Writer) (loc pa mk : Nat) (ups : List (Nat × Byte)) : State × Option Ev :=
  let line := pa / 128 * 128
  let f := pa / 2 ^ 46
  let queue (s : State) (c l : Nat) : State :=
    let h : Held :=
      { pa := line, loc := loc / 128 * 128, bytes := ups, owner := c, level := l, field := f,
        ctx := w.ctx, blk := w.blk, thr := w.thr }
    { s with held := s.held ++ [h] }
  match s.held.find? fun h => h.pa == line with
  | some h => (queue s h.owner h.level, none)
  | none =>
    match s.shadowNeed loc pa mk with
    | none => ((s.markDirty loc).storeAt line ups, none)
    | some (c, l) =>
      if s.poolUsed (s.ctx c).part f < s.poolLines (s.ctx c).part f then
        (((s.takeShadow c l loc pa).markDirty loc).storeAt line ups, none)
      else if w.precise ∧ c = w.ctx then
        (s, some (shadowEv (s.ctxVa c (loc / 128 * 128)) l f false false))
      else (queue (s.heldRecord w.known c l loc f) c l, none)

/-- R447: performs, in arrival order, the held writes that now find room or no need. -/
def retryHeld (s : State) (known : List Held) : List Held → State
  | [] => s
  | h :: r =>
    let w : Writer := { ctx := h.ctx, blk := h.blk, thr := h.thr, precise := false, known := known }
    retryHeld (homeWrite s w h.loc h.pa 0 h.bytes).1 known r

def State.releaseHeld (s : State) : State := retryHeld { s with held := [] } s.held s.held

/-! ### Copies of class 0 lines (R186, R187, R226) -/

/-- The dirty bytes of a copy, as offsets in its line. -/
def dirtyBytes (x : CLine) : List (Nat × Byte) :=
  ((List.range 128).filter fun i => x.dirty.getLsbD i).filterMap fun i => (x.data.bind fun d => d[i]?).map fun b => (i, b)

/-- R226: writes back the dirty bytes of one copy of a cluster, which stays clean; `drop` drops it too. -/
def writeBack (s : State) (w : Writer) (cl loc pa mk : Nat) (drop : Bool) : State × Option Ev :=
  match Tab.find s.fab.clines (cl * 2 ^ 64 + loc / 128) with
  | none => (s, none)
  | some x =>
    match (if x.dirty = 0 then (s, none) else homeWrite s w loc (pa / 128 * 128) mk (dirtyBytes x)) with
    | (s, some e) => (s, some e)
    | (s, none) => (if drop then s.dropCline (4 * cl) loc else s.setCopy cl loc { x with dirty := 0, st := 0 }, none)

/-- The copy of a class 0 line that an L2 slice of the cluster's field still holds on the way to the home: the
sector slice's, then the field point's. Whether a copy has been evicted meanwhile is a free choice. -/
def nearCopy (s : State) (home loc cl : Nat) : State × Option (List Byte) :=
  let f := cl / 48
  let at_ (l : Option Nat) : Option (List Byte) := l.bind fun l => (Tab.find s.fab.l2 (l2Key f l loc)).bind (·.data)
  match at_ (sectorSlice s loc f (cl % 48 / 16)) <|> (if f = home then none else at_ (fieldPoint s loc f)) with
  | none => (s, none)
  | some d =>
    ({ s with draws := s.draws + 1 }, if Config.choose s.draws % 2 = 0 then some d else none)

/-- R226, R187: the L2 copies of a class 0 line in a cluster's field go. -/
def dropNear (s : State) (loc cl : Nat) : State :=
  if s.fab.l2 = [] then s
  else { s with fab := { s.fab with l2 := s.fab.l2.filter fun e =>
    !(e.1 % 2 ^ 64 == loc / 128 && e.1 / 2 ^ 64 / 24 == cl / 48 && e.2.data.isSome) } }

/-- The line as a cluster reads it: its own copy, else the first copy found on the way to the home (R333). -/
def lineFrom (s : State) (cl loc pa : Nat) : State × List Byte :=
  match (s.copyAt cl loc).data with
  | some d => (s, d)
  | none =>
    match nearCopy s (pa / 2 ^ 46) loc cl with
    | (s, some d) => (s, d)
    | (s, none) => (s, s.bytes (pa / 128 * 128) 128)

/-- A class 0 read by a cluster: `keep` when it may leave copies in the L0 and the cluster cache. -/
def readClass0 (s : State) (cl core slot loc pa n : Nat) (keep : Bool) : State × List Byte :=
  let (s, d) := lineFrom s cl loc pa
  let x := s.copyAt cl loc
  let s := if x.data.isSome then s.setCopy cl loc { x with used := s.cycle }
    else
      let s := fillSlices s (pa / 2 ^ 46) loc cl (some d)
      if keep then s.setCopy cl loc { newCopy s 0 with data := some d } else s
  (if keep then fillL0 s core slot loc else s, (d.drop (loc % 128)).take n)

/-! ### Reading and writing pieces -/

/-- A writer as the device has it for an agent's own dirty bytes. -/
def Agent.writer (ag : Agent) (precise : Bool) : Writer :=
  { ctx := ag.ctx, blk := ag.own, thr := ag.thr, precise := precise, known := [] }

/-- R187: before the home serves an uncached access, the dirty bytes of the agent's own cluster are there. -/
def settleOwn (s : State) (ag : Agent) (loc pa mk : Nat) (drop : Bool) : State :=
  match ag.cluster with
  | none => s
  | some c => (writeBack s (ag.writer false) c (loc / 128 * 128) pa mk drop).1

/-- The bytes of one line stretch as an agent reads it, with the copies that the read leaves (R187, R333). -/
def readLine (s : State) (ag : Agent) (ty : Nat) (keep : Bool) (leaf : Dword) (loc pa n : Nat) : State × List Byte :=
  let home := pa / 2 ^ 46
  if leafCc leaf = 0 then
    match ag.cluster, ty with
    | none, _ => (s, s.bytes pa n)
    | some _, 3 =>
      let s := settleOwn s ag loc pa (leafMk leaf) false
      (s, s.bytes pa n)
    | some c, _ => readClass0 s c ag.core ag.slot loc pa n keep
  else
    let s := cohRead s ag.cluster ag.core ag.slot loc home ty keep
    (fitDirs s ((ag.cluster.getD (48 * home)) / 48) loc home, s.bytes pa n)

def readLines (s : State) (ag : Agent) (ty : Nat) (keep : Bool) (leaf : Dword) (loc pa : Nat) :
    List (Nat × Nat) → State × List Byte
  | [] => (s, [])
  | (o, n) :: r =>
    let (s, a) := readLine s ag ty keep leaf o (pa + (o - loc)) n
    let (s, b) := readLines s ag ty keep leaf loc pa r
    (s, a ++ b)

/-- R202: the block's own provisional bytes over what memory reads. -/
def overlay (s : State) (blk : Option Nat) (loc : Nat) (bs : List Byte) : List Byte :=
  match blk with
  | none => bs
  | some b =>
    let prov := (s.blk b).prov
    if prov = [] then bs
    else (List.range bs.length).map fun i => (Tab.find prov (loc + i)).getD (bs.getD i 0)

/-- The bytes of a resolved piece. -/
def readPiece (s : State) (ag : Agent) (ty : Nat) (keep : Bool) (p : Piece) : State × List Byte :=
  match p.ro with
  | some (pg, o) => (s, (List.range p.len).map fun i => roByte s ag.part ag.vf (s.launch ag.launch) pg (o + i))
  | none =>
    if p.pa / 2 ^ 46 = 63 then ({ s with svc := true }, List.replicate p.len 0)
    else
      let (s, bs) := readLines s ag ty keep p.leaf p.loc p.pa (lineCuts p.loc p.len)
      (s, overlay s ag.blk p.loc bs)

def readPieces (s : State) (ag : Agent) (ty : Nat) (keep : Bool) : List Piece → State × List Byte
  | [] => (s, [])
  | p :: r =>
    let (s, a) := readPiece s ag ty keep p
    let (s, b) := readPieces s ag ty keep r
    (s, a ++ b)

/-- Offsets within its line of a stretch and its bytes. -/
def offsets (loc : Nat) (bs : List Byte) : List (Nat × Byte) :=
  (List.range bs.length).map fun i => (loc % 128 + i, bs.getD i 0)

/-- Before an owned copy takes bytes, the home takes its shadow (R446). -/
def shadowFirst (s : State) (w : Writer) (loc pa mk : Nat) : State × Option Ev :=
  match s.shadowNeed loc pa mk with
  | none => (s, none)
  | some (c, l) =>
    if c = w.ctx ∧ w.precise then
      (if s.poolUsed (s.ctx c).part (pa / 2 ^ 46) < s.poolLines (s.ctx c).part (pa / 2 ^ 46) then (s.takeShadow c l loc pa, none)
       else (s, some (shadowEv (s.ctxVa c (loc / 128 * 128)) l (pa / 2 ^ 46) false false)))
    else (s, none)

/-- An owned write of a class 0 line stays in the cluster's copy until it is written back. -/
def ownClass0 (s : State) (cl core slot loc pa : Nat) (bs : List Byte) : State :=
  let (s, d) := lineFrom s cl loc pa
  let x := s.copyAt cl loc
  let s := if x.st = 2 then s else s.markDirty loc
  let x := if x.data.isSome then x else newCopy s 2
  let s := s.setCopy cl loc { x with
    st := 2, used := s.cycle, dirty := x.dirty ||| byteMask (loc % 128) bs.length, data := some (patch d (loc % 128) bs) }
  fillL0 (dropL0 s cl loc (some core)) core slot loc

/-- The copies on a cluster's own way take bytes that the home has taken: they are clean there (R187). -/
def patchCopies (s : State) (cl loc : Nat) (bs : List Byte) : State :=
  let x := s.copyAt cl loc
  let s := match x.data with
    | some d => s.setCopy cl loc { x with dirty := x.dirty &&& ~~~(byteMask (loc % 128) bs.length), data := some (patch d (loc % 128) bs) }
    | none => s
  if s.fab.l2 = [] then s
  else { s with fab := { s.fab with l2 := s.fab.l2.mapVals fun k y =>
    if k % 2 ^ 64 = loc / 128 ∧ k / 2 ^ 64 / 24 = cl / 48 then { y with data := y.data.map fun d => patch d (loc % 128) bs } else y } }

/-- A write of one line stretch by its class and type (R187, R333). -/
def writeLine (s : State) (ag : Agent) (precise : Bool) (loc pa : Nat) (leaf : Dword) (ty : Nat) (keep : Bool)
    (bs : List Byte) : State × Option Ev :=
  let w := ag.writer precise
  let mk := leafMk leaf
  let home := pa / 2 ^ 46
  if leafCc leaf = 0 then
    match ag.cluster with
    | none => homeWrite s w loc pa mk (offsets loc bs)
    | some c =>
      if ty = 0 ∧ keep then
        match shadowFirst s w loc pa mk with
        | (s, some e) => (s, some e)
        | (s, none) => (ownClass0 s c ag.core ag.slot loc pa bs, none)
      else
        match homeWrite (if ty = 3 then settleOwn s ag loc pa mk true else s) w loc pa mk (offsets loc bs) with
        | (s, some e) => (s, some e)
        | (s, none) => (dropL0 (patchCopies s c loc bs) c loc (some ag.core), none)
  else
    let s := cohWrite s ag.cluster ag.core ag.slot loc home ty keep (byteMask (loc % 128) bs.length)
    match homeWrite s w loc pa mk (offsets loc bs) with
    | (s, some e) => (s, some e)
    | (s, none) => (fitDirs s ((ag.cluster.getD (48 * home)) / 48) loc home, none)

def writeLines (s : State) (ag : Agent) (precise : Bool) (loc pa : Nat) (leaf : Dword) (ty : Nat) (keep : Bool)
    (bs : List Byte) : List (Nat × Nat) → State × Option Ev
  | [] => (s, none)
  | (o, n) :: r =>
    match writeLine s ag precise o (pa + (o - loc)) leaf ty keep ((bs.drop (o - loc)).take n) with
    | (s, some e) => (s, some e)
    | (s, none) => writeLines s ag precise loc pa leaf ty keep bs r

/-- The lines of a block's provisional bytes. -/
def provLines (t : Tab Byte) : List Nat := (t.map fun e => e.1 / 128).eraseDups

/-- R203, R293: provisional lines of the blocks of one slot of one core. -/
def slotProvLines (s : State) (core slot : Nat) : Nat :=
  ((s.blocks.filter fun e => e.2.st == .resident && e.2.core == core && e.2.slot == slot).map fun e =>
    (provLines e.2.prov).length).sum

/-- Room for the provisional lines of a write of these stretches, and none of the block's own evicted (R203).
DEDUCED, unsafe (log 38). DESIGN CHOICE, safe (log 99). -/
def provFits (s : State) (b : Nat) (ps : List Piece) : Bool :=
  let k := s.blk b
  let have_ := provLines k.prov
  let lines := (ps.flatMap fun p => (lineCuts p.loc p.len).map fun c => c.1 / 128).eraseDups
  let new := lines.filter fun l => !have_.contains l
  let evicts (l : Nat) : Bool := decide (Config.cacheWays 1 < (have_.filter fun h => sameSet 1 h l).length)
  new.isEmpty || (slotProvLines s k.core k.slot + new.length ≤ 256 && !new.any evicts)

/-- R202: writes provisional bytes; a write-through byte of a class 0 line is marked for the commit to
write through. -/
def provWrite (s : State) (b loc : Nat) (leaf : Dword) (ty : Nat) (bs : List Byte) : State :=
  s.modBlk b fun k => { k with
    prov := (List.range bs.length).foldl (fun t i => Tab.put t (loc + i) (bs.getD i 0)) k.prov
    marked := if leafCc leaf = 0 ∧ ty ≠ 0 then
        k.marked ++ (((lineCuts loc bs.length).map fun c => c.1 / 128).filter fun l => !k.marked.contains l)
      else k.marked }

/-- What a write answers: done, or an event. -/
inductive WRes where
  | done | ev (e : Ev)
  deriving DecidableEq, Repr

/-- Writes one resolved piece. -/
def writePiece (s : State) (ag : Agent) (ty : Nat) (keep precise : Bool) (p : Piece) (bs : List Byte) :
    State × WRes :=
  if p.pa / 2 ^ 46 = 63 then ({ s with svc := true }, .done)
  else if p.remote ∧ ag.blk.isNone then (s, .done)
  else match ag.blk with
  | some b => (provWrite s b p.loc p.leaf ty bs, .done)
  | none =>
    match writeLines s ag precise p.loc p.pa p.leaf ty keep bs (lineCuts p.loc bs.length) with
    | (s, some e) => (s, .ev e)
    | (s, none) => (s, .done)

/-- Writes pieces in order. -/
def writePieces (s : State) (ag : Agent) (ty : Nat) (keep precise : Bool) : List Piece → List Byte → State × WRes
  | [], _ => (s, .done)
  | p :: r, bs =>
    match writePiece s ag ty keep precise p (bs.take p.len) with
    | (s, .done) => writePieces s ag ty keep precise r (bs.drop p.len)
    | x => x

/-! ### Whole accesses -/

/-- A stretch of an access that lies in a remote window (R352): its place in the access, its length, the
window and the offset in it. -/
structure Far where
  pos : Nat
  len : Nat
  win : Nat
  off : Nat
  deriving DecidableEq, Repr

/-- What a load finds; `far` gives the bytes at hand and the stretches to be read of peers. -/
inductive LRes where
  | bytes (bs : List Byte)
  | absent
  | far (bs : List Byte) (fs : List Far)
  | ev (e : Ev)
  | pressure
  deriving DecidableEq, Repr

/-- How much of a stretch is provisional in its block: none, all or part of it. -/
def provShare (s : State) (blk : Option Nat) (p : Piece) : Nat :=
  match blk with
  | none => 0
  | some b => ((List.range p.len).filter fun i => (Tab.find (s.blk b).prov (p.loc + i)).isSome).length

/-- The bytes of the pieces of a load, with those of a block's own provisional bytes (R202), and the
stretches to be read of peers. `none` when a remote stretch is provisional in part. -/
def gather (s : State) (ag : Agent) (ty : Nat) (keep : Bool) : Nat → List Piece → State × Option (List Byte × List Far)
  | _, [] => (s, some ([], []))
  | pos, p :: r =>
    let n := provShare s ag.blk p
    if p.remote ∧ n ≠ 0 ∧ n ≠ p.len then (s, none)
    else
      let (s, bs, fs) :=
        if p.remote then
          (s, overlay s ag.blk p.loc (List.replicate p.len 0),
            if n = 0 then [Far.mk pos p.len (remoteWin p.pa) (remoteOff p.pa)] else [])
        else
          let (s, bs) := readPiece s ag ty keep p
          (s, bs, [])
      match gather s ag ty keep (pos + p.len) r with
      | (s, none) => (s, none)
      | (s, some (bs', fs')) => (s, some (bs ++ bs', fs ++ fs'))

/-- A read of n bytes by an agent (R215). -/
def loadAt (s : State) (ag : Agent) (va n ty : Nat) (keep : Bool) : State × LRes :=
  match resolve s ag Acc.read va n with
  | (s, .error e) => (s, .ev e)
  | (s, .ok ps) =>
    if ps.any Piece.absent then (s, .absent)
    else match gather s ag ty keep 0 ps with
    | (s, none) => (s, .pressure)
    | (s, some (bs, [])) => (s, .bytes bs)
    | (s, some (bs, f :: fs)) => (s, .far bs (f :: fs))

/-- What a store does; `far` gives the stretches to be written at peers, the rest being done. -/
inductive SRes where
  | done
  | absent
  | far (fs : List Far)
  | ev (e : Ev)
  | pressure
  deriving DecidableEq, Repr

/-- The remote stretches of an access. -/
def farPieces : Nat → List Piece → List Far
  | _, [] => []
  | pos, p :: r =>
    (if p.remote then [Far.mk pos p.len (remoteWin p.pa) (remoteOff p.pa)] else []) ++ farPieces (pos + p.len) r

/-- A write of bytes by an agent (R215). DESIGN CHOICE, unsafe (log 26). -/
def storeTo (s : State) (ag : Agent) (va ty : Nat) (keep precise : Bool) (bs : List Byte) : State × SRes :=
  match resolve s ag Acc.write va bs.length with
  | (s, .error e) => (s, .ev e)
  | (s, .ok ps) =>
    if ps.any Piece.absent then (s, .absent)
    else if !ag.force && ag.blk.any (fun b => !provFits s b ps) then (s, .pressure)
    else
      match writePieces s ag ty keep precise ps bs with
      | (s, .done) =>
        match (if ag.blk.isSome then [] else farPieces 0 ps) with
        | [] => (s, .done)
        | f :: fs => (s, .far (f :: fs))
      | (s, .ev e) => (s, .ev e)

/-- A read the device makes that takes no part in the program's own accesses. -/
def peek (s : State) (ag : Agent) (va n : Nat) : Option (List Byte) :=
  match loadAt s ag va n 3 false with
  | (_, .bytes bs) => some bs
  | (_, .absent) | (_, .far _ _) | (_, .ev _) | (_, .pressure) => none

end Sys2Proof.Machine
end

