-- ==== Sys2Proof/Machine/Operands.lean ====
section
/-! DEFINITION. Operands: what each specifier reads and writes (R72, R73, R84), full/empty bits and
empty actions (R81 to R83), queue reads (R51), immediates (R122) and the G limit (R74, R425). -/

namespace Sys2Proof.Machine

open Sys2Proof

/-! ### Sources -/

/-- A source of an instruction: its specifier, its registers and its empty action (R82). -/
structure Src where
  o : Opd
  n : Nat
  e : Bool
  deriving DecidableEq, Repr

/-- A general register of a thread. -/
def Thread.reg (t : Thread) (n : Nat) : Word := Tab.get 0 t.g n

/-- R51: the entry at a thread's read position of a queue, `ahead` reads further on. -/
def queueEntry (s : State) (c : Cx) (q ahead : Nat) : Option (Tab Word) :=
  let k := Tab.get Queue.none (s.sk c.grp c.skein).queues q
  let pos := Tab.get 0 (s.thr c).qpos q + ahead
  if pos < k.filled then some (Tab.get [] k.data pos) else none

/-- A 32-bit source; `ahead` counts the earlier sources that name the same queue. -/
def rd32 (s : State) (c : Cx) (ahead : Nat) : Opd → Word
  | .g n => (s.thr c).reg n.toNat
  | .s n => s.sreg c.grp c.skein n.toNat
  | .q n => match queueEntry s c n.toNat ahead with
    | some e => Tab.get 0 e c.lane
    | none => 0
  | .p _ | .j _ | .a _ | .tc _ | .z => 0

/-- R132: completed(tcN) of the thread's compartment slot; a command that its block brought from another core
(R276) has not completed while it stands. -/
def completedOf (s : State) (c : Cx) (n : Nat) : Nat :=
  let mine := (s.blk (c.grp.block s)).body.cmds.filter fun x => x.tc == n && x.inner == c.grp.isAct && (!x.inner || x.slot == c.grp.slot s)
  mine.foldl (fun m x => min m (x.num - 1)) (Tab.get Tc.none (c.grp.cslot s).tcs n).done

/-- A 64-bit source (R73); a tc specifier reads completed(tc) (R145). -/
def rd64 (s : State) (c : Cx) : Opd → Dword
  | .g n => Dword.mk ((s.thr c).reg (n.toNat + 1)) ((s.thr c).reg n.toNat)
  | .s n => Dword.mk (s.sreg c.grp c.skein (n.toNat + 1)) (s.sreg c.grp c.skein n.toNat)
  | .tc n => .ofNat 64 (completedOf s c n.toNat)
  | .p _ | .q _ | .j _ | .a _ | .z => 0

/-- A predicate source (R72); z reads 0 (R140). -/
def rdP (s : State) (c : Cx) : Opd → Bool
  | .p n => predOf (s.thr c).p n.toNat
  | .g _ | .s _ | .q _ | .j _ | .a _ | .tc _ | .z => false

/-- The words of a register group (R211). -/
def rdGroup (s : State) (c : Cx) (o : Opd) (n : Nat) : List Word :=
  (List.range n).map fun i => match o with
    | .g r => (s.thr c).reg (r.toNat + i)
    | .s r => s.sreg c.grp c.skein (r.toNat + i)
    | .p _ | .q _ | .j _ | .a _ | .tc _ | .z => 0

/-- The earlier sources that name the same queue. -/
def aheadOf (l : List Src) (i : Nat) (o : Opd) : Nat := ((l.take i).filter fun x => x.o == o).length

/-- The values of an instruction's sources, in field order: 32-bit ones zero-extended, pairs whole. -/
def rdSrcs (s : State) (c : Cx) (l : List Src) : List Dword :=
  (List.range l.length).map fun i =>
    match l[i]? with
    | some x => if x.n = 2 then rd64 s c x.o else (rd32 s c (aheadOf l i x.o) x.o).zeroExtend 64
    | none => 0

/-- R51: advances the read position once for each source that names a queue. -/
def advanceQueues (t : Thread) : List Src → Thread
  | [] => t
  | x :: r =>
    match x.o with
    | .q n => advanceQueues { t with qpos := Tab.mod 0 t.qpos n.toNat (· + 1) } r
    | .g _ | .s _ | .p _ | .j _ | .a _ | .tc _ | .z => advanceQueues t r

/-- R82, R51: some register of the source is empty, or its queue entry is not filled. Inside an activation a
queue read is a gate fault, whatever the queue holds (R298). -/
def srcEmpty (s : State) (c : Cx) (l : List Src) (i : Nat) (x : Src) : Bool :=
  match x.o with
  | .g n => (List.range x.n).any fun k => Tab.get false (s.thr c).empty (n.toNat + k)
  | .q n => !c.grp.isAct && (queueEntry s c n.toNat (aheadOf l i x.o)).isNone
  | .s _ | .p _ | .j _ | .a _ | .tc _ | .z => false

/-- The empty sources of an instruction, in field order, with their empty actions. DEDUCED, unsafe (log 18). -/
def emptySrcs (s : State) (c : Cx) (l : List Src) : List Src :=
  ((List.range l.length).filterMap fun i =>
    match l[i]? with
    | some x => if srcEmpty s c l i x then some x else none
    | none => none)

/-- R83: an awaited predicate of the thread. -/
def predOwed (t : Thread) (n : Nat) : Bool := t.owed.any fun o => o.reg == 128 + n

/-- R83: a predicate operand the thread awaits. -/
def opdOwed (t : Thread) : Opd → Bool
  | .p n => predOwed t n.toNat
  | .g _ | .s _ | .q _ | .j _ | .a _ | .tc _ | .z => false

/-- R83: a g destination of the group is empty. -/
def dstEmpty (t : Thread) (x : Opd × Nat) : Bool :=
  match x.1 with
  | .g n => (List.range x.2).any fun k => Tab.get false t.empty (n.toNat + k)
  | .p n => predOwed t n.toNat
  | .s _ | .q _ | .j _ | .a _ | .tc _ | .z => false

/-- The full/empty bits a source waits on, as `stillEmpty` reads them. -/
def srcNeeds (s : State) (c : Cx) (l : List Src) (i : Nat) (x : Src) : List Nat :=
  if !srcEmpty s c l i x then []
  else match x.o with
  | .g n => (List.range x.n).map (n.toNat + ·)
  | .q n => [256 + n.toNat + 8 * aheadOf l i x.o]
  | .s _ | .p _ | .j _ | .a _ | .tc _ | .z => []

/-- What an instruction waits on (R82, R83): registers by number, predicates owed at 128, and queue entries not
filled at 256 + queue + 8 × entries ahead. -/
def needs (s : State) (c : Cx) (srcs : List Src) (dsts : List (Opd × Nat)) (waits : List Nat) : List Nat :=
  (dsts.flatMap fun x => match x.1 with
    | .g n => (List.range x.2).map (n.toNat + ·)
    | .p n => [128 + n.toNat]
    | .s _ | .q _ | .j _ | .a _ | .tc _ | .z => []) ++
  (srcs.flatMap fun x => match x.o with
    | .p n => [128 + n.toNat]
    | .g _ | .s _ | .q _ | .j _ | .a _ | .tc _ | .z => []) ++
  waits ++
  (List.range srcs.length).flatMap fun i => match srcs[i]? with
    | some x => if x.e then [] else srcNeeds s c srcs i x
    | none => []

/-- R82, R83: what a thread waits on has not come yet. -/
def stillEmpty (s : State) (c : Cx) (k : Nat) : Bool :=
  if k < 128 then Tab.get false (s.thr c).empty k
  else if k < 256 then predOwed (s.thr c) (k - 128)
  else (queueEntry s c ((k - 256) % 8) ((k - 256) / 8)).isNone

/-- R74, R425: a register of the group lies at or above G. DEDUCED, unsafe (log 98). -/
def aboveG (regs : Nat) (x : Opd × Nat) : Bool :=
  match x.1 with
  | .g n => regs < n.toNat + x.2
  | .p _ | .s _ | .q _ | .j _ | .a _ | .tc _ | .z => false

/-! ### Immediates (R122, R153) -/

/-- B or its sign-extended immediate, as 32 bits. -/
def immS (f : F0) (b : Word) : Word := if f.ib then f.imm.signExtend 32 else b
def immZ (f : F0) (b : Word) : Word := if f.ib then f.imm.zeroExtend 32 else b
/-- B or its sign-extended immediate, as 64 bits. -/
def imm64 (f : F0) (b : Dword) : Dword := if f.ib then f.imm.signExtend 64 else b

/-! ### Destinations -/

def Thread.setReg (t : Thread) (n : Nat) (v : Word) : Thread :=
  { t with g := Tab.set 0 t.g n v, empty := Tab.set false t.empty n false }

def Thread.setP (t : Thread) (n : Nat) (v : Bool) : Thread := { t with p := setPred t.p n v }

/-- A write that is direct: g, a predicate, or an s register of the access slice. -/
def wr32 (s : State) (c : Cx) (o : Opd) (v : Word) : State :=
  match o with
  | .g n => s.modThr c fun t => t.setReg n.toNat v
  | .s n => s.setSreg c.grp c.skein n.toNat v
  | .p _ | .q _ | .j _ | .a _ | .tc _ | .z => s

def wrP (s : State) (c : Cx) (n : Nat) (v : Bool) : State := s.modThr c fun t => t.setP n v

def wr64 (s : State) (c : Cx) (o : Opd) (v : Dword) : State :=
  match o with
  | .g n => s.modThr c fun t => (t.setReg n.toNat v.lo).setReg (n.toNat + 1) v.hi
  | .s n => (s.setSreg c.grp c.skein n.toNat v.lo).setSreg c.grp c.skein (n.toNat + 1) v.hi
  | .p _ | .q _ | .j _ | .a _ | .tc _ | .z => s

/-- One value to a g register whose write is late (R81): at once, or owed and the register empty. -/
def Thread.lateReg (t : Thread) (lag : Bool) (r : Nat) (v : Word) : Thread :=
  { t with
    g := if lag then t.g else Tab.set 0 t.g r v
    empty := Tab.set false t.empty r lag
    owed := if lag then t.owed ++ [{ reg := r, val := v }] else t.owed }

def wrLate (s : State) (c : Cx) (r : Nat) (v : Word) : State := s.modThr c fun t => t.lateReg s.lag r v

/-- A group of words to g registers, late. -/
def wrLateGroup (s : State) (c : Cx) (r : Nat) : List Word → State
  | [] => s
  | v :: vs => wrLateGroup (wrLate s c r v) c (r + 1) vs

/-- A predicate a load's RESP names (R83, R189). -/
def wrLateP (s : State) (c : Cx) (n : Nat) (v : Bool) : State :=
  if n = 0 then s
  else s.modThr c fun t => { t with
    p := if s.lag then t.p else setPred t.p n v
    owed := if s.lag then t.owed ++ [{ reg := 128 + n, val := if v then 1 else 0 }] else t.owed }

/-- Lands one owed value. -/
def landOwed (t : Thread) (o : Owed) : Thread :=
  if o.reg < 128 then t.setReg o.reg o.val else t.setP (o.reg - 128) (o.val != 0)

/-- Lands the oldest value owed to a register (R83: values land in issue order). -/
def Thread.landReg (t : Thread) (r : Nat) : Thread :=
  match t.owed.find? fun o => o.reg == r with
  | .none => t
  | .some o =>
    let t := landOwed { t with owed := t.owed.erase o } o
    if t.owed.any (fun x => x.reg == r) && r < 128 then { t with empty := Tab.set false t.empty r true } else t

/-- Lands every value owed to a thread, in issue order (R404). -/
def Thread.landAll (t : Thread) : Thread := t.owed.foldl landOwed { t with owed := [] }

end Sys2Proof.Machine
end

