-- ==== Sys2Proof/Machine/Ops.lean ====
section
/-! DEFINITION. Operations shared by the instructions: the agent of a thread, scopes and orders (R201,
R213, R294), engine-context numbers (R204), fetching a line and checked transfers (R60 to R63, R420),
taking a trap at the skein's handler and returning from it (R134, R406, R407). -/

namespace Sys2Proof.Machine

open Sys2Proof

/-! ### Agents -/

/-- A thread as the maker of an access (R183, R292, R298). -/
def threadAgent (s : State) (c : Cx) : Agent :=
  let k := c.grp.cslot s
  { ctx := c.grp.ctx s, vf := k.vf, part := k.part, asids := [k.asid 0, k.asid 1, k.asid 2, k.asid 3]
    av := 1 + 2 * bitsOf k.w0 23 3, aro := 2 * bitsOf k.w0 26 3
    launch := (s.blk (c.grp.block s)).launch, wid := some (wid s c), core := c.grp.core s, slot := c.grp.slot s
    cluster := some (coreCluster (c.grp.core s))
    blk := if !c.grp.isAct && c.grp.rollback s then some (c.grp.block s) else none
    own := some (c.grp.block s), thr := c.n, force := false }

/-- A context as the device acts for it outside any core, through its private ASID and bindings. -/
def ctxAgent (s : State) (x : Nat) : Agent :=
  let k := s.ctx x
  { ctx := x, vf := k.vf, part := k.part, asids := [0, 1, 2, 3].map fun i => Tab.get 0 k.asids i
    av := 1 + 2 * k.av.toNat, aro := 2 * k.aro.toNat, launch := 0, wid := none, core := 0, slot := 0
    cluster := none, blk := none, own := none, thr := 0, force := true }

/-! ### Scopes and orders -/

def ordAcquires : Order → Bool
  | .acquire | .acqRel => true
  | .relaxed | .release => false

def ordReleases : Order → Bool
  | .release | .acqRel => true
  | .relaxed | .acquire => false

/-- R294, R445: an operation wider than MAXSC is performed at MAXSC, sets SCOPECLAMP and is counted. -/
def clampScope (s : State) (c : Cx) (sc : Scope) : State :=
  let k := c.grp.cslot s
  if k.maxsc < sc.code then
    (s.modThr c fun t => { t with clamp := true }).count k.part (some k.vf) (coreField (c.grp.core s)) 0x34 1
  else s

/-- R187: of a cluster's copies that self-invalidating loads have read, those whose reader `f` names go, when
they are clean and not owned; the others lose the mark. DEDUCED, safe (log 27). -/
def dropMarked (s : State) (cl : Nat) (f : Nat × Nat × Nat → Bool) : State :=
  if s.fab.clines.any fun e => e.1 / 2 ^ 64 == cl && e.2.selfInv.any f then
    let gone (e : Nat × CLine) : Bool := e.1 / 2 ^ 64 == cl && e.2.selfInv.any f && e.2.dirty == 0 && e.2.st == 0
    let s := (s.fab.clines.filter gone).foldl (fun s e => s.dropCline (4 * cl) (e.1 % 2 ^ 64 * 128)) s
    { s with fab := { s.fab with clines := s.fab.clines.map fun e =>
        (e.1, if e.1 / 2 ^ 64 = cl then { e.2 with selfInv := e.2.selfInv.filter fun m => !f m } else e.2) } }
  else s

/-- R187: a thread's acquire at a scope drops what its self-invalidating loads at that scope or a narrower one
have left. -/
def dropSelfInv (s : State) (c : Cx) (sc : Scope) : State :=
  dropMarked s (coreCluster (c.grp.core s)) fun m => m.1 == c.grp.block s && m.2.1 == c.n && decide (m.2.2 ≤ sc.code)

/-- R197: the resumption of a block is an acquire of its threads, at wafer scope. -/
def dropBlockInv (s : State) (b core : Nat) : State :=
  dropMarked s (coreCluster core) fun m => m.1 == b && decide (m.2.2 ≤ Scope.wafer.code)

/-- R187: the lines of a self-invalidating load carry its reader and scope until then. -/
def noteSelfInv (s : State) (c : Cx) (sc : Scope) : List Nat → State
  | [] => s
  | loc :: r =>
    let cl := coreCluster (c.grp.core s)
    match Tab.find s.fab.clines (cl * 2 ^ 64 + loc / 128) with
    | some x => noteSelfInv (s.setCopy cl loc { x with selfInv := x.selfInv ++ [(c.grp.block s, c.n, sc.code)] }) c sc r
    | none => noteSelfInv s c sc r

/-- R447, R352: the thread has a write held at a home, or one that a peer has not acknowledged.
DESIGN CHOICE, unsafe (log 37). -/
def heldBy (s : State) (c : Cx) : Bool :=
  (s.held.any fun h => h.blk == some (c.grp.block s) && h.thr == c.n) ||
  s.qps.any fun q => q.2.out.any fun o => ((o.kind == 4 && o.blk == c.grp.block s) || (o.kind == 7 && o.blk == c.grp.name)) && o.thr == c.n

/-- R213, R215: the order an access carries, at its scope. -/
def applyOrder (s : State) (c : Cx) (o : Order) (sc : Scope) : State :=
  if o = .relaxed then s
  else
    let s := clampScope s c sc
    if ordAcquires o then dropSelfInv s c sc else s

/-- R54: an order that ends the interval of a rollback-mode block.
DEDUCED, unsafe (log 34). DEDUCED, unsafe (log 35). -/
def endsInterval (o : Order) (sc : Scope) : Bool := ordReleases o && sc != .block

/-! ### Engine contexts (R132, R204) -/

def State.tc (s : State) (core slot n : Nat) : Tc := Tab.get Tc.none (s.cslot core slot).tcs n

def State.setTc (s : State) (core slot n : Nat) (t : Tc) : State :=
  let k := s.cslot core slot
  s.setCslot core slot { k with tcs := Tab.put k.tcs n t }

/-- The next number of a context. -/
def tcNext (s : State) (core slot n : Nat) : Nat × State :=
  let t := s.tc core slot n
  (t.issued + 1, s.setTc core slot n { t with issued := t.issued + 1 })

/-- Moves the completed prefix over numbers already completed. -/
def Tc.advance : Nat → Tc → Tc
  | 0, t => t
  | k + 1, t =>
    if t.extra.contains (t.done + 1) then
      Tc.advance k { t with done := t.done + 1, extra := t.extra.filter (· != t.done + 1) }
    else t

/-- Counts a command as completed (R132). -/
def Tc.complete (t : Tc) (num : Nat) : Tc :=
  if num ≤ t.done ∨ t.extra.contains num then t
  else Tc.advance (t.extra.length + 1) { t with extra := t.extra ++ [num] }

def tcComplete (s : State) (core slot n num : Nat) : State :=
  s.setTc core slot n ((s.tc core slot n).complete num)

/-! ### Fetching a line, and checked transfers -/

/-- The key of a fetched line held by a core. -/
def lineKey (asid va : Nat) : Nat := asid * 2 ^ 51 + va % 2 ^ 55 / 64

/-- R61: the line word. -/
def lineWord (l : BitVec 512) : BitVec 32 := l.extractLsb' 480 32

/-- Slot i of a line. -/
def lineSlot (l : BitVec 512) (i : Nat) : Slot := l.extractLsb' (96 * i) 96

/-- R61, R66: PAR, bits 31:16 of the line word, is the XOR of the line's other 16-bit words. -/
def lineParity (l : BitVec 512) : BitVec 16 :=
  (List.range 31).foldl (fun x i => x ^^^ l.extractLsb' (16 * i) 16) 0

/-- R61, R66: a line that passes its parity check. -/
def lineGood (l : BitVec 512) : Bool := (lineWord l).extractLsb' 16 16 == lineParity l

/-- R421: slots i, i + 1 and i + 2 of a line with adjacent CO bits i and i + 1 are not instructions. -/
def slotVoid (l : BitVec 512) (i : Nat) : Bool :=
  [0, 1, 2].any fun j => (lineWord l).getLsbD (5 + j) && (lineWord l).getLsbD (6 + j) && decide (j ≤ i ∧ i ≤ j + 2)

/-- The bytes of a piece where it is homed, which is where a core fetches code from: fetch is not coherent with
stores (R67). -/
def homeBytes (s : State) (ag : Agent) (p : Piece) : State × List Byte :=
  match p.ro with
  | some (pg, o) => (s, (List.range p.len).map fun i => roByte s ag.part ag.vf (s.launch ag.launch) pg (o + i))
  | none =>
    if p.pa / 2 ^ 46 = 63 then ({ s with svc := true }, List.replicate p.len 0)
    else (s, s.bytes p.pa p.len)

def homeBytesAll (s : State) (ag : Agent) : List Piece → State × List Byte
  | [] => (s, [])
  | p :: r =>
    let (s, a) := homeBytes s ag p
    let (s, b) := homeBytesAll s ag r
    (s, a ++ b)

/-- R66, R422: the lines that served a failing fetch are dropped. -/
def dropLine (s : State) (core key : Nat) : State :=
  s.modCore core fun k => { k with lines := Tab.erase k.lines key, failed := k.failed.filter (· != key) }

/-- The line a core holds: one that fails its check counts only when it has failed twice (R66, R422). -/
def heldCode (s : State) (core key : Nat) : Option (BitVec 512) :=
  (Tab.find (s.core core).lines key).filter fun l => lineGood l || (s.core core).failed.contains key

/-- A line as a thread's core fetches it (R60, R177, R440): the one it holds, else from the home; a held one
that fails its check is fetched once more (R66, R422). DEDUCED, unsafe (log 30). DEDUCED, safe (log 96). -/
def fetchLine (s : State) (c : Cx) (va : Nat) : State × Except Ev (BitVec 512) :=
  let ag := { threadAgent s c with blk := none }
  match resolve s ag Acc.fetch va 64 with
  | (s, .error e) => (s, .error e)
  | (s, .ok ps) =>
    let key := lineKey ((ps.head?.map (·.asid)).getD 0) va
    match (if inTlWindow va then none else heldCode s ag.core key) with
    | some l => (s, .ok l)
    | none =>
      let s := if (Tab.find (s.core ag.core).lines key).isSome then dropLine s ag.core key else s
      if ps.any Piece.absent then (s, .ok 0)
      else
        let (s, bs) := homeBytesAll s ag ps
        (s, .ok (.ofNat 512 (ofBytes bs)))

def targetEv (pc : Dword) : Ev := { code := 0x102, arg := 0, addr := pc.toNat, synd := 0 }

/-- R63, R420: the check of a transfer to a new PC. A target line that fails its parity check is reported
where a thread reaches it (R422). DEDUCED, unsafe (log 102). -/
def checkTarget (s : State) (c : Cx) (pc : Dword) : State × Option Ev :=
  if !namesSlot pc then (s, some (targetEv pc))
  else match fetchLine s c (lineOf pc) with
  | (s, .error e) => (s, some e)
  | (s, .ok l) => if !lineGood l || (lineWord l).getLsbD (pc.toNat % 8) then (s, none) else (s, some (targetEv pc))

/-! ### Taking a trap, and returning from one -/

/-- R361, R412: the record of an event of one thread. -/
def threadRec (s : State) (c : Cx) (flags : RecFlags) (nthr : Nat) (pc : Dword) : FaultRec :=
  { wid := (wid s c).toNat, lnum := (c.grp.launch s).lnum, ctx := c.grp.ctx s, flags := flags, nthr := nthr
    pc := pc.toNat, core := c.grp.core s }

/-- R406: why a trap of a thread does not go to its skein's handler; `none` when it does. The answer is
the DOUBLE flag of the steward's record. -/
def handlerRefuses (s : State) (c : Cx) : Option Bool :=
  let t := s.thr c
  if c.grp.isSlice then some false
  else if (s.sk c.grp c.skein).hvec = 0 ∨ (c.grp.launch s).tlSize < 64 then
    some (t.vectored || t.intrap)
  else if t.vectored || t.intrap then some true
  else none

/-- What taking a trap answers: taken, kept until a pressure checkpoint makes room for its record (R203), or an
event of the delivery itself, for the steward (R406, R441). -/
inductive Taken where
  | handler
  | later
  | steward (e : Ev)
  deriving DecidableEq, Repr

/-- R406, R407: delivery of a trap to the handler: the record at the end of the thread-local window, as
a store of the thread at block scope; SR.EPC the resumption point; the PC the slot after SR.HVEC.
`pc` is the reported PC, which is where the thread stands. DEDUCED, unsafe (log 44). -/
def takeTrap (s : State) (c : Cx) (e : Ev) (nthr : Nat) : State × Taken :=
  let t := s.thr c
  let rec_ := faultBytes (threadRec s c {} nthr t.pc) e s.now
  let va := 0x7FFE * 2 ^ 40 + ((c.grp.launch s).tlSize - 64)
  match storeTo s (threadAgent s c) va 0 true true rec_ with
  | (s, .done) =>
    if s.svc then ({ s with svc := false }, .steward e) else
    let entry := nextPc (s.sk c.grp c.skein).hvec
    let s := s.modThr c fun t => { t with epc := t.pc, pc := entry, intrap := true, st := .running }
    match checkTarget s c entry with
    | (s, none) => (s, .handler)
    | (s, some e) => (s, .steward e)
  | (s, .pressure) => (s, .later)
  | (s, .absent) | (s, .far _) | (s, .ev _) => (s, .steward e)

/-- R49: a thread leaves the handler's count; the last one unmasks the skein. -/
def leaveInside (s : State) (c : Cx) : State :=
  s.modSk c.grp c.skein fun k =>
    { k with inside := k.inside - 1, masked := if k.inside ≤ 1 then false else k.masked }

/-- R134, R49, R406: the return of RETU; a target trap when SR.EPC names no slot (R420). -/
def returnTrap (s : State) (c : Cx) : State × Option Ev :=
  let t := s.thr c
  if !namesSlot t.epc then (s, some (targetEv t.epc))
  else
    let s1 := s.modThr c fun t => { t with pc := t.epc, vectored := false, intrap := false }
    (if t.vectored then leaveInside s1 c else s1, none)

/-- R49: vectoring of a thread that stands at its resumption point. -/
def vector (s : State) (c : Cx) : State :=
  let h := (s.sk c.grp c.skein).hvec
  s.modThr c fun t => { t with epc := t.pc, pc := h, due := false, vectored := true, st := .running }

/-! ### Counting an issue -/

/-- R31, R40, R70: an instruction issued for a thread. -/
def countIssue (s : State) (c : Cx) (h : Hdr) : State :=
  s.modThr c fun t => { t with
    yc := t.yc - 1, icount := t.icount + 1, skipBp := false, yielded := false, mustIssue := false
    gapUntil := s.cycle + h.gap.toNat, gaveWay := h.gw, ready := s.cycle }

/-- R40: completion of an implicit yield point, which writes both the counter and last_yield_pc.
DEDUCED, unsafe (log 103). -/
def yieldDone (t : Thread) : Thread := { t with yc := 4095, lasty := t.pc }

/-- Completion of a wait at an instruction: the thread goes on at the next slot. -/
def passOn (cycle : Nat) (t : Thread) : Thread := { t with st := .running, pc := nextPc t.pc, ready := cycle, gaveWay := false }

end Sys2Proof.Machine
end

