-- ==== Sys2Proof/Machine/Block.lean ====
section
/-! DEFINITION. Blocks as wholes: rendezvous, rejoin and barriers (R37 to R39, R75, R129), call-gate
activations (R297), parking (R41), halts and reports (R408, R414), rollback (R55), aborts (R409) and ends
(R46), and the release of waiting threads. -/

namespace Sys2Proof.Machine

open Sys2Proof

/-! ### Progress and commands -/

/-- R461: a progress event of a block. -/
def progress (s : State) (b : Nat) : State :=
  s.modBlk b fun k => { k with hang := 0 }

def isRunning (t : Thread) : Bool := t.st == .running

/-- R41: a thread at a park point. DEDUCED, unsafe (log 45). -/
def parked (t : Thread) : Bool :=
  t.stop.isSome || match t.st with
  | .gone | .inAct _ => true
  | .running => t.yielded
  | .waiting w => match w with
    | .join _ | .bar | .barg | .barw | .tl _ _ _ | .win _ _ _ _ _ | .phase _ _ | .nap _ | .interval _
    | .pressure => true
    | .op o => o.parks
    | .rdv _ => false
    | .retry r => match r with
      | .pass _ | .heldLine => true
      | .empty _ | .tile _ _ | .room _ | .lag | .heldAt _ => false

/-! ### Rendezvous of a skein (R37) -/

/-- A wait that lets the skein's rendezvous complete. -/
def lendsRdv (t : Thread) : Bool :=
  match t.st with
  | .waiting (.rdv _) | .waiting (.join _) | .waiting .bar | .waiting .barg | .waiting .barw => true
  | .waiting (.interval i) => match i with
    | .gate _ _ _ _ | .barg _ _ | .barw _ _ => true
    | _ => false
  | .waiting _ | .running | .inAct _ | .gone => false

/-- The rendezvous a thread waits at. -/
def rdvOf (t : Thread) : Option Rdv :=
  match t.st with
  | .waiting (.rdv r) => some r
  | .waiting _ | .running | .inAct _ | .gone => none

/-- The threads of a skein that wait at a rendezvous at a PC, in lane order. -/
def rdvAt (s : State) (g : Grp) (k : Nat) (pc : Dword) : List Nat :=
  (s.liveSk g k).filter fun n => (rdvOf (s.thr ⟨g, n⟩)).isSome && (s.thr ⟨g, n⟩).pc == pc

/-- R38: enrols one lane. -/
def enrolLane (s : State) (g : Grp) (k j lane : Nat) : State :=
  s.modSk g k fun x =>
    { x with enrolled := Tab.set 0 x.enrolled j (Tab.get 0 x.enrolled j ||| BitVec.ofNat 64 (2 ^ lane)) }

/-- R297: the four words of a gate entry of a partition. -/
def gateWord (s : State) (part n w : Nat) : Dword := Tab.get 0 (s.part part).gates (4 * n + w)

/-- The valid slot of a core that holds a context (R285). -/
def slotHolding (s : State) (core ctx : Nat) : Option Nat :=
  [0, 1, 2, 3].find? fun i => (s.cslot core i).valid && (s.cslot core i).ctxid == ctx

/-- R297, R427: the condition a GATE fails, 0 for none. -/
def gateCondition (s : State) (g : Grp) (n args res count : Nat) : Nat :=
  let cs := g.cslot s
  let w0 := gateWord s cs.part n 0
  let frame := bitsOf w0 33 8
  if !bitOf w0 16 then 1
  else if args ≠ bitsOf w0 23 5 then 2
  else if res ≠ bitsOf w0 28 5 then 3
  else if !bitOf (gateWord s cs.part n 3) cs.vf then 4
  else if g.isAct then 5
  else if g.regs s < max args res then 6
  else match slotHolding s (g.core s) (bitsOf w0 0 16) with
  | none => 7
  | some i =>
    if !(s.cslot (g.core s) i).drain then 7
    else if 256 * (s.cslot (g.core s) i).rfSize < frame * count then 10 else 0

/-- DEDUCED, unsafe (log 52). -/
def gateEv (n cond : Nat) : Ev := { code := 0x113, arg := 0, addr := n, synd := cond }

/-- The first activation number not in use. -/
def freshAct (s : State) : Nat := s.acts.foldl (fun m e => max m (e.1 + 1)) 0

/-- R297: the participants form one activation, which enters once its register entries are free. -/
def makeActivation (s : State) (g : Grp) (k n args res : Nat) (ps : List Nat) : State :=
  let cs := g.cslot s
  let w0 := gateWord s cs.part n 0
  let a := freshAct s
  let entry := gateWord s cs.part n 1
  let callee (m : Nat) : Nat × Thread :=
    let t := s.thr ⟨g, m⟩
    (m, { Thread.none with
      st := .running, pc := entry, yc := 4095, icount := t.icount, lasty := t.lasty, clamp := false
      g := t.g.filter fun e => e.1 < args })
  let act : Act := { Act.none with
    live := true, blk := g.block s, skein := k, ctx := bitsOf w0 0 16, core := g.core s
    slot := (slotHolding s (g.core s) (bitsOf w0 0 16)).getD 0, gate := n, args := args, res := res
    frame := bitsOf w0 33 8, entry := entry, spBase := 64 * bitsOf (gateWord s cs.part n 2) 0 16
    spLen := 64 * bitsOf (gateWord s cs.part n 2) 16 16, threads := ps.map callee
    callers := ps.map fun m => (m, { retPc := nextPc (s.thr ⟨g, m⟩).pc }), sk := { Skein.start with masked := false } }
  ps.foldl (fun s m => s.modThr ⟨g, m⟩ fun t => { t with st := .inAct a }) (s.setAct a act)

/-- Asks a block to park, keeping a request already made. -/
def requestPark (s : State) (b : Nat) (w : ParkWhy) : State :=
  s.modBlk b fun k => if k.park = .none || k.park = .period then { k with park := w } else k

/-- R75: a 64-bit result of a rendezvous in one participant; an s pair takes that of the lowest one. -/
def wrRdv64 (s : State) (c : Cx) (head : Nat) (d : Opd) (v : Dword) : State :=
  if isS d && c.n != head then s else wr64 s c d v

/-- Completion of one rendezvous: its participants, in lane order, stand at one instruction. The answer
is the event it raises in all of them, if any. DEDUCED, unsafe (log 47). -/
def completeRdv (s : State) (g : Grp) (k : Nat) (ps : List Nat) : State × Option Ev :=
  let lane (n : Nat) : Nat := n % 64
  let rdv (n : Nat) : Option Rdv := rdvOf (s.thr ⟨g, n⟩)
  let each (s : State) (f : Nat → State → Rdv → State) : State :=
    ps.foldl (fun s n => match rdv n with
      | some r => (f n s r).modThr ⟨g, n⟩ (passOn s.cycle)
      | none => s) s
  match ps.head?.bind rdv with
  | none => (s, none)
  | some (.sreg d w64 v _ _ _) =>
    let s := if w64 then wr64 s ⟨g, ps.headD 0⟩ d v else wr32 s ⟨g, ps.headD 0⟩ d v.lo
    (ps.foldl (fun s n => match rdv n with
      | some (.sreg _ _ _ to_ enr pw) =>
        let s := match enr with | some j => enrolLane s g k j (lane n) | none => s
        let s := match pw with | some (p, b) => wrP s ⟨g, n⟩ p.toNat b | none => s
        s.modThr ⟨g, n⟩ fun t => { t with st := .running, pc := to_ }
      | _ => s) s, none)
  | some (.special r v) =>
    let s := s.modSk g k fun x =>
      if r = .hvec then { x with hvec := v } else { x with upend := x.upend &&& ~~~ (v.setWidth 4) }
    (each s fun _ s _ => s, none)
  | some (.umask v) =>
    let s := s.modSk g k fun x =>
      if v then { x with masked := true } else if x.inside = 0 then { x with masked := false } else x
    (each s fun _ s _ => s, none)
  | some (.shfl _ _ _ _ _ _) =>
    (each s fun n s r => match r with
      | .shfl d mode w pv a b =>
        let src := shflSource mode w.toNat (g.launch s).width (lane n) b.toNat
        let v := ps.find? fun m => lane m == src
        let x := match v.bind rdv with
          | some (.shfl _ _ _ _ a' _) => a'
          | _ => a
        wrP (wr32 s ⟨g, n⟩ d x) ⟨g, n⟩ pv.toNat v.isSome
      | _ => s, none)
  | some (.vote _ _ _) =>
    let vs := ps.filterMap fun n => match rdv n with | some (.vote _ _ v) => some (lane n, v) | _ => none
    (each s fun n s r => match r with
      | .vote (.p d) mode _ => wrP s ⟨g, n⟩ d.toNat (voteResult mode vs (lane n))
      | _ => s, none)
  | some (.ballot _ _) =>
    let m := laneMask (ps.filterMap fun n => match rdv n with | some (.ballot _ v) => some (lane n, v) | _ => none)
    (each s fun n s r => match r with
      | .ballot d _ => wrRdv64 s ⟨g, n⟩ (ps.headD 0) d m
      | _ => s, none)
  | some (.matchL _ _) =>
    let vs := ps.filterMap fun n => match rdv n with | some (.matchL _ v) => some (lane n, v) | _ => none
    (each s fun n s r => match r with
      | .matchL d v => wrRdv64 s ⟨g, n⟩ (ps.headD 0) d (laneMask (vs.map fun e => (e.1, e.2 == v)))
      | _ => s, none)
  | some (.redux d rop _) =>
    let x := reduxResult rop (ps.filterMap fun n => match rdv n with | some (.redux _ _ v) => some (lane n, v) | _ => none)
    (each (wr32 s ⟨g, ps.headD 0⟩ d x) fun n s r => match r with
      | .redux d _ _ => wr32 s ⟨g, n⟩ d x
      | _ => s, none)
  | some (.scan _ rop excl _) =>
    let vs := ps.filterMap fun n => match rdv n with | some (.scan _ _ _ v) => some (lane n, v) | _ => none
    (each s fun n s r => match r with
      | .scan d _ _ _ => wr32 s ⟨g, n⟩ d (scanResult rop excl vs (lane n))
      | _ => s, none)
  | some (.gate n a r) =>
    if g.rollback s then
      -- R54: the call is the last act of the checkpoint
      (requestPark (ps.foldl (fun s m => s.modThr ⟨g, m⟩ fun t =>
        { t with st := .waiting (.interval (.gate ⟨0, false, 0, false⟩ n a r)) }) s) (g.block s) .interval, none)
    else
      let c := gateCondition s g n.toNat a.toNat r.toNat ps.length
      if c ≠ 0 then (s, some (gateEv n.toNat c))
      else (makeActivation s g k n.toNat a.toNat r.toNat ps, none)

/-- The PCs at which threads of a skein wait in a rendezvous, in increasing order. -/
def rdvPcs (s : State) (g : Grp) (k : Nat) : List Dword :=
  ((s.liveSk g k).filterMap fun n =>
    if (rdvOf (s.thr ⟨g, n⟩)).isSome then some (s.thr ⟨g, n⟩).pc else none).eraseDups.foldl
      (fun l x => (l.takeWhile fun y => y.toNat < x.toNat) ++ x :: l.dropWhile fun y => y.toNat < x.toNat) []

/-- R37: completes every rendezvous of a skein whose condition holds, the lower PC first. The answer
lists the threads that raised an event at theirs. DESIGN CHOICE, unsafe (log 19). -/
def settleRdv (s : State) (g : Grp) (k : Nat) : State × List (Nat × Ev) :=
  if (s.liveSk g k).all fun n => lendsRdv (s.thr ⟨g, n⟩) then
    ((rdvPcs s g k).map fun pc => rdvAt s g k pc).foldl (fun (acc : State × List (Nat × Ev)) ps =>
      match completeRdv acc.1 g k ps with
      | (s', none) => (progress s' (g.block s'), acc.2)
      | (s', some e) => (ps.foldl (fun s n => s.modThr ⟨g, n⟩ fun t => { t with st := .running }) s',
          acc.2 ++ ps.map fun n => (n, e))) (s, [])
  else (s, [])

/-! ### Rejoin (R39) and barriers (R129) -/

/-- R39: releases rejoin register j when every enrolled lane has arrived or exited. -/
def settleJoin (s : State) (g : Grp) (k j : Nat) : State :=
  let x := s.sk g k
  let e := Tab.get 0 x.enrolled j
  if e = 0 then s
  else
    let live := s.liveSk g k
    let missing := live.any fun n => e.getLsbD (n % 64) && !(Tab.get 0 x.arrived j).getLsbD (n % 64)
    if missing then s
    else
      let s := s.modSk g k fun x =>
        { x with enrolled := Tab.set 0 x.enrolled j 0, arrived := Tab.set 0 x.arrived j 0 }
      progress (live.foldl (fun s n =>
        if (s.thr ⟨g, n⟩).st = .waiting (.join j) then s.modThr ⟨g, n⟩ fun t => passOn s.cycle (yieldDone t) else s) s)
        (g.block s)

/-- R129, R340: an arrival counted in a block's checkpoint is released there too, since the barrier completes
once. -/
def releaseSaved (s : State) (b : Nat) (w : Wait) : State :=
  if (s.blk b).ckpt.threads = [] then s
  else
    let f (t : Thread) : Thread := if t.st = .waiting w then passOn s.cycle (yieldDone t) else t
    s.modBlk b fun k => { k with ckpt := { k.ckpt with threads := k.ckpt.threads.map fun e => (e.1, f e.2) } }

/-- R130: the scope of a barrier. -/
def barrierScope : Wait → Scope
  | .barg => .field
  | .barw => .wafer
  | .bar | .rdv _ | .join _ | .tl _ _ _ | .win _ _ _ _ _ | .phase _ _ | .nap _ | .op _ | .interval _ | .pressure
  | .retry _ => .block

/-- R129, R130: releases the threads of a group that wait at a barrier, with the acquire of each. -/
def releaseAt (s : State) (g : Grp) (w : Wait) : State :=
  (s.live g).foldl (fun s n =>
    if (s.thr ⟨g, n⟩).st = .waiting w then
      (dropSelfInv s ⟨g, n⟩ (barrierScope w)).modThr ⟨g, n⟩ fun t => passOn s.cycle (yieldDone t)
    else s) s

/-- Every non-exited thread of a group waits at a barrier, and there is one. -/
def allAt (s : State) (g : Grp) (w : Wait) : Bool :=
  (s.live g).all fun n => (s.thr ⟨g, n⟩).st == .waiting w

def settleBar (s : State) (g : Grp) : State :=
  if s.live g ≠ [] ∧ allAt s g .bar then progress (releaseAt s g .bar) (g.block s) else s

/-- The blocks of a block's gang. -/
def gangOf (s : State) (b : Nat) : List Nat :=
  let l := s.launch (s.blk b).launch
  (s.blocks.filter fun e => e.2.launch == (s.blk b).launch && e.2.st != .absent &&
    e.2.index / l.gang == (s.blk b).index / l.gang).map (·.1)

/-- R43, R129: BARG combines the blocks of the gang; a saved or halted one counts as it stands.
DESIGN CHOICE, unsafe (log 93). -/
def settleBarg (s : State) (g : Grp) : State :=
  let gang := gangOf s (g.block s)
  if !g.isAct && gang.all (fun b => allAt s (.blk b) .barg) &&
      gang.any fun b => s.live (.blk b) != [] then
    gang.foldl (fun s b => progress (releaseSaved (releaseAt s (.blk b) .barg) b .barg) b) s
  else s

/-- Everything that waits on the threads of one skein and its group. -/
def settle (s : State) (g : Grp) (k : Nat) : State × List (Nat × Ev) :=
  let (s, evs) := settleRdv s g k
  let s := (List.range 8).foldl (fun s j => settleJoin s g k j) s
  (settleBarg (settleBar s g) g, evs)

/-! ### Waits on counters, barriers and retries -/

/-- R193: the place of an address of a compartment's scratchpad space, by the bank mask of its slot: bank, row
and byte. -/
def scratchPlace (mask a : Nat) : Nat :=
  let n := popcount mask 32
  (nthSetBit mask 32 0 (a / 64 % n)).getD 0 * 2 ^ 14 + a / 64 / n * 64 + a % 64

/-- The block of a slot whose scratchpad holds an address of the compartment's space. -/
def scratchBlock (s : State) (core slot a : Nat) : Option (Nat × Block) :=
  s.blocks.find? fun e => e.2.st == .resident && e.2.core == core && e.2.slot == slot &&
    decide (e.2.spBase ≤ a ∧ a < e.2.spBase + 64 * (s.launch e.2.launch).scr)

/-- A byte of a compartment's scratchpad space. DEDUCED, unsafe (log 54). -/
def spaceByte (s : State) (core slot a : Nat) : Byte :=
  match scratchBlock s core slot a with
  | some (_, k) => Tab.get 0 k.body.scratch (a - k.spBase)
  | none => Tab.get 0 (s.cslot core slot).spad (scratchPlace (s.cslot core slot).spMask a)

def setSpaceByte (s : State) (core slot a : Nat) (v : Byte) : State :=
  match scratchBlock s core slot a with
  | some (b, k) => s.modBody b fun y => { y with scratch := Tab.set 0 y.scratch (a - k.spBase) v }
  | none =>
    let k := s.cslot core slot
    s.setCslot core slot { k with spad := Tab.set 0 k.spad (scratchPlace k.spMask a) v }

/-- The scratchpad bytes a group's instructions may address (R193, R298, R312). -/
def scratchLen (s : State) (g : Grp) : Nat :=
  match g with
  | .act a => (s.actv a).spLen
  | .blk _ | .slice _ _ => 64 * (g.launch s).scr

/-- A byte of a group's scratchpad: a block's own, or the callee space of an activation (R193, R298). -/
def scratchByte (s : State) (g : Grp) (a : Nat) : Byte :=
  match g with
  | .blk b | .slice b _ => Tab.get 0 (s.blk b).body.scratch a
  | .act n => spaceByte s (s.actv n).core (s.actv n).slot ((s.actv n).spBase + a)

/-- Bytes of a group's scratchpad. -/
def scratchRead (s : State) (g : Grp) (a n : Nat) : List Byte := (List.range n).map fun i => scratchByte s g (a + i)

def spaceWrite (s : State) (core slot : Nat) : Nat → List Byte → State
  | _, [] => s
  | a, b :: r => spaceWrite (setSpaceByte s core slot a b) core slot (a + 1) r

def scratchWrite (s : State) (g : Grp) (a : Nat) (bs : List Byte) : State :=
  match g with
  | .blk b | .slice b _ => s.modBody b fun y => { y with scratch := Tab.setRun 0 y.scratch a bs }
  | .act n => spaceWrite s (s.actv n).core (s.actv n).slot ((s.actv n).spBase + a) bs

/-- R255: the phase of a transaction barrier. -/
def phaseOf (s : State) (g : Grp) (addr : Nat) : Nat := (scratchByte s g addr).toNat % 16

/-- R234, R471: a window of the thread's virtual function cannot serve a WAITW. -/
def winBroken (s : State) (v w : Nat) : Bool :=
  let x := s.win v w
  bitsOf x.w0 0 2 == 0 || (bitsOf x.w0 0 2 != 3 && (s.qp (bitsOf x.w0 16 24)).err)

/-- A counter of a window: sent-complete or landed. -/
def winCounter (x : Win) (sent : Bool) : Dword := if sent then x.sent else x.landed

/-- Ends a WAITW with a status. -/
def endWaitw (s : State) (c : Cx) (d : Opd) (st : Word) : State :=
  (wr32 s c d st).modThr c fun t => passOn s.cycle (yieldDone t)

/-- R243, R244, R268: a command in flight has yet to move the tile on from the state waited in; a tile that is
READY is waited on while commands read it. -/
def tileBusy (x : Tile) (st : TileState) : Bool := x.st == st && (st != .ready || x.readers != 0)

/-- R246, R275: commands of an engine context that have not completed, and whether its room is used up. -/
def State.tcOpen (s : State) (core slot tc : Nat) : Nat :=
  let t := s.tc core slot tc
  t.issued - t.done - t.extra.length

def tcFull (s : State) (c : Cx) (tc : Nat) : Bool := 16 ≤ s.tcOpen (c.grp.core s) (c.grp.slot s) tc

/-- A wait of R368's code 4 ends: the thread issues its instruction again (R461). -/
def goOn (s : State) (c : Cx) : State :=
  progress (s.modThr c fun t => { t with st := .running }) (c.grp.block s)

/-- Rechecks the wait of one thread. -/
def wakeThread (s : State) (c : Cx) : State :=
  let b := c.grp.block s
  match (s.thr c).st with
  | .waiting (.tl tc thr sc) =>
    if thr ≤ completedOf s c tc then
      progress ((applyOrder s c .acquire sc).modThr c fun t => passOn s.cycle (yieldDone t)) b else s
  | .waiting (.win w sent thr _ d) =>
    let v := (c.grp.cslot s).vf
    if winBroken s v w then progress (endWaitw s c d 2) b
    else if thr.toNat ≤ (winCounter (s.win v w) sent).toNat then
      progress (endWaitw (if sent then s else applyOrder s c .acquire .system) c d 0) b
    else s
  | .waiting (.phase a ph) =>
    if phaseOf s c.grp a ≠ ph then
      progress ((applyOrder s c .acquire .block).modThr c fun t => passOn s.cycle (yieldDone t)) b else s
  | .waiting (.retry (.tile t st)) =>
    if tileBusy (Tab.get Tile.none (s.blk b).body.tiles t) st then s else goOn s c
  | .waiting (.retry (.room tc)) => if tcFull s c tc then s else goOn s c
  | .waiting (.retry (.pass p)) => if (Tab.find s.passes p).isSome then s else goOn s c
  | .waiting (.retry .heldLine) => if heldBy s c then s else goOn s c
  | .waiting (.retry (.heldAt pa)) => if s.held.any fun h => h.pa == pa then s else goOn s c
  | .waiting (.retry (.empty l)) =>
    if l.any (stillEmpty s c) then s else s.modThr c fun t => { t with st := .running }
  | .waiting (.retry .lag) => s.modThr c fun t => { t with st := .running }
  | .waiting _ | .running | .inAct _ | .gone => s

/-- The execution groups on cores: resident blocks, then activations. -/
def groups (s : State) : List Grp :=
  (s.blocks.filterMap fun e => if e.2.st == .resident then some (.blk e.1) else none) ++
  (s.acts.filterMap fun e => if e.2.live && e.2.entered then some (.act e.1) else none)

/-- Rechecks the waits of every thread of a group. -/
def wakeGroup (s : State) (g : Grp) : State := (s.live g).foldl (fun s n => wakeThread s ⟨g, n⟩) s

/-- R52: an access slice waiting at its k-th QFENCE goes on once every thread of its skein has performed
its own. -/
def fenceMet (s : State) (b k : Nat) : Bool :=
  let n := (Tab.get Skein.start (s.blk b).body.skeins k).slice.qfences
  (s.liveSk (.blk b) k).all fun m => n ≤ (s.thr ⟨.blk b, m⟩).qfences

def wakeSlices (s : State) (b : Nat) : State :=
  (s.blk b).body.skeins.foldl (fun s e =>
    if e.2.slice.fenceWait && fenceMet s b e.1 then
      s.modSk (.blk b) e.1 fun x => { x with slice := { x.slice with fenceWait := false } }
    else s) s

/-- Rechecks every wait, after a change that others may wait on. -/
def wake (s : State) : State :=
  (groups s).foldl (fun s g => match g with
    | .blk b => wakeSlices (wakeGroup s g) b
    | .act _ | .slice _ _ => wakeGroup s g) s

/-! ### Halts and reports (R408, R411, R414) -/

/-- Moves a block's pending fault records into its virtual function's hold. -/
def flushPending (s : State) (b : Nat) : State :=
  let k := s.blk b
  let v := (s.ctx (s.launch k.launch).ctx).vf
  let room := 256 - (s.vf v).hold.length
  let s := (k.pending.take room).foldl (fun s r => s.hold v r) s
  if k.pending = [] then s else s.modBlk b fun k => { k with pending := k.pending.drop room }

/-- Reports an event of a group: a rollback-mode block's record waits for its checkpoint (R415). -/
def report (s : State) (g : Grp) (rec_ : List Byte) : State :=
  match g with
  | .blk b | .slice b _ =>
    let s := s.modBlk b fun k => { k with pending := k.pending ++ [rec_] }
    if g.rollback s then s else flushPending s b
  | .act a => s.hold (s.ctx (s.actv a).ctx).vf rec_

/-- Debug records enabled (R364). -/
def traceOn (s : State) (v bit : Nat) : Bool := (s.vf v).trace.state == 1 && (s.vf v).enables / 2 ^ bit % 2 == 1

/-- A field of a ring's header (R362). -/
def ringHeader (s : State) (ag : Agent) (r : Ring) (off n v : Nat) : State :=
  (storeTo s ag (r.base + off) 1 false false (toBytes n v)).1

/-- What putting a record into a ring comes to. -/
inductive RingPut where
  | put (r : Ring)
  | full
  | fault
  deriving DecidableEq, Repr

/-- R363: one record into a ring, as the steward's context. -/
def putRecord (s : State) (ag : Agent) (r : Ring) (rec_ : List Byte) : State × RingPut :=
  match peek s ag (r.base + 8) 8 with
  | none => (s, .fault)
  | some rd =>
    if r.n ≤ r.wr - ofBytes rd then (s, .full)
    else
      match storeTo s ag (r.base + 64 + 64 * (r.wr % r.n)) 1 false false rec_ with
      | (s, .done) => (ringHeader s ag r 0 8 (r.wr + 1), .put { r with wr := r.wr + 1 })
      | (s, .absent) | (s, .far _) | (s, .ev _) | (s, .pressure) => (s, .fault)

/-- Writes one record to a virtual function's trace ring (R363), from field f. -/
def traceWrite (s : State) (v f : Nat) (rec_ : List Byte) : State :=
  let r := (s.vf v).trace
  let ag := ctxAgent s (s.vf v).steward
  let set (s : State) (r : Ring) : State := s.modVf v fun f => { f with trace := r }
  if r.state ≠ 1 then s
  else match putRecord s ag r rec_ with
  | (s, .put r) => set s r
  | (s, .full) =>
    (ringHeader (set s { r with drop := r.drop + 1 }) ag r 0x10 8 (r.drop + 1)).count (s.vf v).part (some v) f 0x60 1
  | (s, .fault) => ringHeader (set s { r with state := 2 }) ag r 0x18 1 2

/-- A record a block causes: provisional in rollback mode, so kept with the block's landings (R363). -/
def traceBlock (s : State) (b : Nat) (rec_ : List Byte) : State :=
  let k := s.blk b
  let v := (s.ctx (s.launch k.launch).ctx).vf
  if (s.cslot k.core k.slot).drain then traceWrite s v (coreField k.core) rec_
  else s.modBlk b fun k => { k with traces := k.traces ++ [rec_] }

/-- The park of a group that is to halt, before any save already asked of it. -/
def haltFirst : ParkWhy → ParkWhy
  | .save | .leave => .leave
  | .none | .interval | .period | .pressure | .halt => .halt

/-- Asks the group to halt (R308, R408). -/
def requestHalt (s : State) (g : Grp) : State :=
  match g with
  | .blk b | .slice b _ => s.modBlk b fun k => if k.halted then k else { k with park := haltFirst k.park }
  | .act a => s.modAct a fun k => if k.halted then k else { k with park := haltFirst k.park }

/-- Answers still due to threads of a block that no longer stand at their loads find nothing; a rollback keeps
the atomics, which its checkpoint performed. -/
def forgetReads (s : State) (b : Nat) (atomics : Bool) : State :=
  if s.qps = [] then s
  else { s with qps := s.qps.map fun e => (e.1, { e.2 with out := e.2.out.map fun o =>
    if o.blk == b && (o.kind == 3 || o.kind == 5 || o.kind == 12 || (o.kind == 7 && atomics)) then { o with kind := 9 }
    else o }) }

/-- R344: a block that leaves its core breaks the ring-sum passes in flight at it. -/
def breakPasses (s : State) (b : Nat) : State :=
  if s.passes = [] then s
  else { s with passes := s.passes.map fun e =>
    (e.1, if e.2.stops.any fun t => t.issued && !t.done && t.blk == b then { e.2 with live := false } else e.2) }

/-- A stop whose command a rollback has cancelled before it started has not issued for its pass. -/
def leavePass (s : State) (p i : Nat) : State :=
  let x := s.pass p
  let stops := (List.range x.stops.length).map fun j => if j = i then RStop.none else x.stops.getD j RStop.none
  { s with passes := if stops.any (·.issued) then Tab.put s.passes p { x with stops := stops } else Tab.erase s.passes p }

def leavePasses (s : State) : List Cmd → State
  | [] => s
  | x :: r => match x.kind with
    | .rsum p i _ _ => leavePasses (leavePass s p i) r
    | _ => leavePasses s r

/-- R409: a block is stopped at once: its provisional bytes are discarded, and its commands complete with status 2. -/
def killBlock (s : State) (b : Nat) : State :=
  let k := s.blk b
  let s := forgetReads (k.body.cmds.foldl (fun s c => tcComplete s c.core c.slot c.tc c.num) (breakPasses s b)) b true
  s.modBlk b fun k => { k with
    st := .ended, prov := [], keep := [], marked := [], park := .none, captured := false, halted := false
    haltNext := false, pending := [], traces := [], dbgHalt := false, crollNext := Option.none, resumeNext := false
    body := { Body.none with ctxStat := (k.body.cmds.filter (!·.inner)).foldl (fun t c =>
      Tab.put t c.tc { Tab.get CtxStat.none t c.tc with status := 2 }) k.body.ctxStat } }

/-- Ends a launch before its blocks have all ended: BLOCK-FAILED, DATA-LOST, ABORTED. -/
def failLaunch (s : State) (l status : Nat) : State :=
  let x := s.launch l
  if x.live && x.state < 2 then
    let s := (s.blocks.filter fun e => e.2.launch == l && e.2.st != .ended && e.2.st != .absent).foldl
      (fun s e => killBlock s e.1) s
    s.modLaunch l fun x => { x with state := 2, status := status, tend := s.now }
  else s

/-- R409, R419: an activation's threads end where they stand, and it gives up its entries; its callers wait on. -/
def stopAct (s : State) (a : Nat) : State :=
  s.modAct a fun x => { x with threads := [], halted := false, park := .none, live := false }

/-- R409: an abort of launches of a context: the one numbered, or all. -/
def abortLaunches (s : State) (ctx : Nat) (lnum : Option Nat) : State :=
  let s := (s.launches.filter fun e => e.2.live && e.2.ctx == ctx && !e.2.fence &&
      (lnum.isNone || lnum == some e.2.lnum)).foldl (fun s e => failLaunch s e.1 5) s
  if lnum.isSome then s
  else (s.acts.filter fun e => e.2.live && e.2.ctx == ctx).foldl (fun s e => stopAct s e.1) s

/-- An abort raised by a thread or a block (R426, R462, R378): one record, then R409 for the launch
numbered, or for all. -/
def raiseAbort (s : State) (ctx : Nat) (r : FaultRec) (e : Ev) (lnum : Option Nat) : State :=
  abortLaunches (s.hold (s.ctx ctx).vf (faultBytes { r with flags := { ended := true } } e s.now)) ctx lnum

/-- The first thread of each distinct code, with how many threads raised it (R414). -/
def byCode : List (Nat × Ev) → List (Nat × Ev × Nat)
  | [] => []
  | (n, e) :: r =>
    (n, e, 1 + (r.filter fun x => x.2.code == e.code).length) ::
      (byCode r).filter fun x => x.2.1.code != e.code

/-! ### Ends (R46) -/

/-- The lowest-numbered launch counters of a completion (R318). -/
def insertId (x : Dword) : List Dword → List Dword
  | [] => [x]
  | y :: r => if x.toNat ≤ y.toNat then x :: y :: r else y :: insertId x r

/-- A block ends BLOCK-FAILED or DATA-LOST (R4, R410): it is never retried. -/
def failBlock (s : State) (b status : Nat) : State :=
  let l := (s.blk b).launch
  let s := (killBlock s b).modLaunch l fun x =>
    { x with failed := insertId (s.blk b).ident x.failed, status := max status x.status, ended := x.ended + 1 }
  let x := s.launch l
  if x.ended = x.blocks ∧ x.state < 2 then s.modLaunch l fun x => { x with state := 2, tend := s.now } else s

/-- R468: posts a device event record. -/
def postEvent (s : State) (u : UnitId) (code nroll nfail nret : Nat) : State :=
  { s with events := s.events ++ [{ time := s.now, gen := s.topoGen, unit := u, code := code, nroll := nroll
                                    nfail := nfail, nret := nret }] }

/-- R455: a block that reads lost data ends, and its launch completes with DATA-LOST. -/
def dataLost (s : State) (g : Grp) (r : FaultRec) (e : Ev) : State :=
  let s := s.hold (s.ctx r.ctx).vf (faultBytes { r with flags := { ended := true } } e s.now)
  let s := postEvent s { field := e.addr / 2 ^ 46, kind := .channel, num := e.addr / 2 ^ 16 % 8, k := 0 } e.code 0 1 0
  match g with
  | .act a => stopAct s a
  | .blk b | .slice b _ => failBlock s b 2

/-- R406 to R409, R414: takes the events the threads of one pick raised. -/
def takeEvents (s : State) (g : Grp) (evs : List (Nat × Ev)) : State :=
  match evs.find? fun x => 2 ≤ codeClass x.2.code && !x.2.isDebug with
  | some (n, e) =>
    if e.code = 0x405 then dataLost s g (threadRec s ⟨g, n⟩ {} 0 (s.thr ⟨g, n⟩).pc) e
    else
    let k := (evs.filter fun x => x.2.code == e.code).length
    raiseAbort s (g.ctx s) (threadRec s ⟨g, n⟩ {} k (s.thr ⟨g, n⟩).pc) e
      (if e.code = 0x303 then some (g.launch s).lnum else none)
  | none =>
    let toHandler (x : Nat × Ev) : Bool :=
      codeClass x.2.code == 0 && !x.2.isDebug && (handlerRefuses s ⟨g, x.1⟩).isNone
    let nthr (e : Ev) : Nat := (evs.filter fun x => x.2.code == e.code).length
    let stopAll (s : State) (l : List (Nat × Ev)) : State :=
      l.foldl (fun s x => s.modThr ⟨g, x.1⟩ fun t => { t with stop := some x.2 }) s
    let stewards (s : State) (l : List (Nat × Ev)) (double : Bool) : State :=
      (byCode l).foldl (fun s x =>
        let c : Cx := ⟨g, x.1⟩
        let pc := (s.thr c).pc
        if x.2.1.isDebug then
          let v := (s.ctx (g.ctx s)).vf
          if traceOn s v 2 then
            let r := debugBytes (wid s c).toNat (g.launch s).lnum (g.ctx s) x.2.1 pc.toNat s.now x.2.2
            match g with
            | .act _ => traceWrite s v (coreField (g.core s)) r
            | .blk b | .slice b _ => traceBlock s b r
          else s
        else
          let s := if x.2.1.code = 0x204 then
            s.count (g.cslot s).part (some (g.cslot s).vf) (x.2.1.synd / 8 % 64) 0x41 1 else s
          report s g (faultBytes
            (threadRec s c { double := double || handlerRefuses s c == some true && codeClass x.2.1.code == 0 } x.2.2 pc)
            x.2.1 s.now)) (requestHalt (stopAll s l) g)
    if evs = [] then s
    else if evs.all toHandler then
      let out := evs.foldl (fun (acc : State × List (Nat × Ev)) x =>
        match takeTrap acc.1 ⟨g, x.1⟩ x.2 (nthr x.2) with
        | (s, .handler) => (s, acc.2)
        | (s, .later) => (requestPark (stopAll s [x]) (g.block s) .pressure, acc.2)
        | (s, .steward e) => (s, acc.2 ++ [(x.1, e)])) (s, [])
      if out.2 = [] then out.1 else stewards out.1 out.2 true
    else stewards (stopAll s (evs.filter toHandler)) (evs.filter fun x => !toHandler x) false

/-! ### Rollback (R55) -/

/-- An armed tile (R252). -/
def Tile.armed (x : Tile) : Bool := x.st == .filling && x.rx

/-- R242: what a rollback makes of the tiles of the discarded run: those of the checkpoint, and the generation of
one armed in either has risen past what was sent to it. -/
def restoreTiles (body ckpt : Tab Tile) : Tab Tile :=
  body.foldl (fun t e =>
    let x := Tab.get Tile.none ckpt e.1
    if e.2.armed || x.armed then Tab.put t e.1 { x with gen := (e.2.gen + 1) % 256, taken := false } else t) ckpt

/-- A block returns to its checkpoint (R55): the commands issued since are cancelled, and the status they leave is
the checkpoint's but for that (R245). A HALT that has named the block stays asked for (R308). -/
def rollbackBlock (s : State) (b : Nat) : State :=
  let k := s.blk b
  let gone := k.body.cmds.filter (·.fresh)
  let s := forgetReads (gone.foldl (fun s c => tcComplete s c.core c.slot c.tc c.num) (leavePasses s gone)) b false
  let lines := (provLines k.prov).length
  let ctx := (s.launch k.launch).ctx
  let v := (s.ctx ctx).vf
  let s := s.count (s.ctx ctx).part (some v) (coreField k.core) 0x31 1
  let s := if lines = 0 then s else s.count (s.ctx ctx).part (some v) (coreField k.core) 0x32 lines
  s.modBlk b fun k => { k with
    body := { k.ckpt with
      ctxStat := gone.foldl (fun t c =>
        Tab.put t c.tc { Tab.get CtxStat.none t c.tc with status := 3 }) k.ckpt.ctxStat
      tiles := restoreTiles k.body.tiles k.ckpt.tiles }
    prov := k.keep, marked := [], park := if k.haltNext then .halt else .none, captured := false, pending := [], traces := []
    dbgHalt := k.dbgHalt && k.haltNext, rolled := true, runTime := 0 }

end Sys2Proof.Machine
end

