-- ==== Sys2Proof/Machine/Issue.lean ====
section
/-! DEFINITION. Issuing one instruction for the threads of a pick: the checks of R96 in the order of R413,
R417 and R423, full/empty waits (R82, R83), the guard (R71), the interval of a rollback-mode block (R54),
performance per thread in the order of R212, and the events of the pick (R414). -/

namespace Sys2Proof.Machine

open Sys2Proof

/-- Where performing an instruction leaves a thread. -/
inductive Next where
  /-- On to the next slot. -/
  | seq
  /-- To this PC, already checked. -/
  | goto (pc : Dword)
  /-- Issued, and waiting at the instruction. -/
  | wait (w : Wait)
  /-- Not issued: waiting to issue. -/
  | stand (w : Wait)
  /-- A precise event: no effect. -/
  | event (e : Ev)
  /-- Performed, with an event at the next instruction. -/
  | after (e : Ev)
  /-- Ended. -/
  | exited
  deriving DecidableEq, Repr

/-- An instruction as issue sees it: its encoding `i` and header, the lowest privilege (R94), its sources in
field order and its destinations, with how many registers each takes, the tile and tensor numbers and the engine contexts it names
(R85, R292), the issue checks of its own description, whether it ends the interval, its effect on one
thread given its source values, what else must have come before it issues, as `stillEmpty` reads it, and the
privilege check of the target its operands name (R94). -/
structure Op where
  i : Instr
  h : Hdr
  priv : State → Cx → Nat
  srcs : List Src
  dsts : List (Opd × Nat)
  tiles : List Nat
  xids : List Nat
  tcs : List Nat
  /-- Gate condition 8 of R427: not open to an activation (R298). -/
  noAct : Bool
  pre : State → Cx → List Dword → Option Ev
  ends : Bool
  body : State → Cx → List Dword → State × Next
  waits : List Nat := []
  target : State → Cx → List Dword → Option Ev := fun _ _ _ => none

/-- The words 1:0 of a slot (R417). -/
def slotLow (i : Instr) : Nat :=
  match i.encode with
  | some w => w.toNat % 2 ^ 64
  | none => 0

def undefinedEv (arg low : Nat) : Ev := { code := 0x101, arg := arg, addr := 0, synd := low }

/-- R417 steps 2 and 3, whatever the guard (R418, R423): the access slice's own encodings, and the slice. An SREAD
is open to the access slice, so its operands are checked before its register is. -/
def sliceEv (i : Instr) (access : Bool) : Option Ev :=
  let slice : Ev := { code := 0x107, arg := 3, addr := 0, synd := 0 }
  match i with
  | .ldq _ _ _ => if access then none else some slice
  | .sread _ _ _ _ =>
    if !access then none
    else if !i.accessOpds then some (undefinedEv 2 (slotLow i))
    else if !i.accessMay then some slice
    else none
  | _ =>
    if !access then none
    else if !i.accessMay then some slice
    else if !i.accessOpds then some (undefinedEv 2 (slotLow i))
    else none

/-- R74, R425: the G limit of an execute-slice instruction. -/
def limitEv (s : State) (g : Grp) (op : Op) : Option Ev :=
  if !g.isSlice && ((op.srcs.map fun x => (x.o, x.n)) ++ op.dsts).any (aboveG (g.regs s)) then
    some (undefinedEv 5 (slotLow op.i)) else none

/-- R85, R238, R434: a block that claims tiles or tensor identifiers holds its slot's ranges whole; another holds
none. -/
def tileCount (s : State) (g : Grp) : Nat := if (g.launch s).claims then (g.cslot s).ttCnt else 0
def tensorCount (s : State) (g : Grp) : Nat := if (g.launch s).claims then (g.cslot s).xCnt else 0

/-- R85, R292, R417 step 5: tile and tensor numbers, then engine contexts. -/
def rangeEv (s : State) (c : Cx) (op : Op) : Option Ev :=
  let k := c.grp.cslot s
  let out (n : Nat) : Ev := { code := 0x112, arg := 5, addr := n, synd := c.grp.slot s }
  match op.tiles.find? fun n => tileCount s c.grp ≤ n with
  | some n => some (out n)
  | none =>
    match op.xids.find? fun n => tensorCount s c.grp ≤ n with
    | some n => some (out n)
    | none =>
      match op.tcs.find? fun n => !k.eng n with
      | some n => some (out n)
      | none => none

/-- R374: the enabled breakpoint at a PC, by entry. -/
def breakpointAt (s : State) (ctx : Nat) (pc : Dword) : Option Nat :=
  [0, 1, 2, 3].find? fun i =>
    let d := Tab.get Dbg.none (s.ctx ctx).dbg i
    d.addr == pc && bitOf d.w1 0

/-- R413 steps 2 and 3: a breakpoint, then a yield overrun. -/
def boundaryEv (s : State) (c : Cx) : Option Ev :=
  let t := s.thr c
  match (if t.skipBp then none else breakpointAt s (c.grp.ctx s) t.pc) with
  | some i => some { code := debugCode 1 i, arg := 0, addr := 0, synd := 0 }
  | none =>
    if t.yc = 0 ∧ !c.grp.isSlice then some { code := 0x301, arg := 0, addr := t.lasty.toNat, synd := 0 } else none

/-- R82, R83: the thread cannot issue yet. -/
def mustWait (s : State) (c : Cx) (op : Op) : Bool :=
  let t := s.thr c
  op.dsts.any (dstEmpty t) || op.srcs.any (fun x => opdOwed t x.o) || op.waits.any (stillEmpty s c) ||
  (emptySrcs s c op.srcs).any fun x => !x.e

/-- R424: the empty-register trap. -/
def emptyEv (s : State) (c : Cx) (op : Op) : Option Ev :=
  match (emptySrcs s c op.srcs).find? (·.e) with
  | some x => some { code := 0x103, arg := 6, addr := 0, synd := x.o.code }
  | none => none

/-- R94: the privilege check of a target, once the operands that name it are at hand. DEDUCED, unsafe (log 48). -/
def foreignTarget (s : State) (c : Cx) (op : Op) : Option Ev :=
  if mustWait s c op || !(emptySrcs s c op.srcs).isEmpty then none else op.target s c (rdSrcs s c op.srcs)

/-- R298: a queue read of an activation, which has no queue to wait on. -/
def queueInside (c : Cx) (op : Op) : Bool :=
  c.grp.isAct && op.srcs.any fun x => match x.o with
    | .q _ => true
    | .g _ | .s _ | .p _ | .j _ | .a _ | .tc _ | .z => false

/-- What issuing for one thread answers. -/
structure Out where
  st : State
  ev : Option Ev

/-- A thread begins to wait at its n-th instruction, or goes on waiting to issue it. DEDUCED, unsafe (log 42). -/
def beginWait (s : State) (w : Wait) (n : Dword) (t : Thread) : Thread :=
  let t : Thread := { t with mustIssue := decide (w = Wait.pressure ∨ w = Wait.retry .heldLine) || t.mustIssue }
  if t.waitIc = n then { t with st := .waiting w }
  else { t with st := .waiting w, waitAt := s.now, waitIc := n }

/-- Performs an instruction for a thread that has passed every check of issue. -/
def performOp (op : Op) (s : State) (c : Cx) : Out :=
  let vals := rdSrcs s c op.srcs
  let s0 := (countIssue s c op.h).modThr c fun t => advanceQueues { t with icount := t.icount - 1 } op.srcs
  let done (s : State) (f : Thread → Thread) : State :=
    s.modThr c fun t => f { t with icount := t.icount + 1, peer := [] }
  match op.body s0 c vals with
  | (s1, .seq) => ⟨done s1 fun t => { t with st := .running, pc := nextPc t.pc }, none⟩
  | (s1, .goto pc) => ⟨done s1 fun t => { t with st := .running, pc := pc }, none⟩
  | (s1, .wait w) => ⟨done s1 fun t => beginWait s w t.icount t, none⟩
  | (_, .stand w) =>
    let s := s.modThr c fun t => beginWait s w (t.icount + 1) t
    ⟨match w with
      | .pressure => requestPark s (c.grp.block s) .pressure
      | .interval _ => requestPark s (c.grp.block s) .interval
      | .rdv _ | .join _ | .bar | .barg | .barw | .tl _ _ _ | .win _ _ _ _ _ | .phase _ _ | .nap _ | .op _
      | .retry _ => s, none⟩
  | (_, .event e) => ⟨s, some e⟩
  | (s1, .after e) => ⟨done s1 fun t => { t with st := .running, pc := nextPc t.pc }, some e⟩
  | (s1, .exited) => ⟨done s1 fun t => { t with st := .gone, exitPc := t.pc }, none⟩

/-- An instruction whose guard is false (R71). -/
def skipOp (op : Op) (s : State) (c : Cx) : State :=
  (countIssue s c op.h).modThr c fun t => { t with pc := nextPc t.pc }

/-- R298, R427: condition 8, an instruction not open to an activation, of the gate entered. -/
def insideEv (s : State) (c : Cx) : Ev :=
  match c.grp with
  | .act a => gateEv (s.actv a).gate 8
  | .blk _ | .slice _ _ => gateEv 0 8

/-- Checks and performance for a guard-true thread: privilege, G limit, ranges, waits, empty traps. -/
def issueTrue (op : Op) (held : Bool) (s : State) (c : Cx) : Out :=
  let need := op.priv s c
  if (c.grp.cslot s).priv < need then ⟨s, some { code := 0x111, arg := 4, addr := 0, synd := need }⟩
  else match foreignTarget s c op with
  | some e => ⟨s, some e⟩
  | none =>
  match limitEv s c.grp op with
  | some e => ⟨s, some e⟩
  | none =>
  match rangeEv s c op with
  | some e => ⟨s, some e⟩
  | none =>
  if queueInside c op then ⟨s, some (insideEv s c)⟩
  else if mustWait s c op then
    ⟨s.modThr c fun t => { t with st := .waiting (.retry (.empty (needs s c op.srcs op.dsts op.waits))) }, none⟩
  else match emptyEv s c op with
  | some e => ⟨s, some e⟩
  | none =>
  if op.noAct && c.grp.isAct then ⟨s, some (insideEv s c)⟩
  else match op.pre s c (rdSrcs s c op.srcs) with
  | some e => ⟨s, some e⟩
  | none =>
  if op.ends && !held && c.grp.rollback s then
    ⟨requestPark (s.modThr c fun t => { t with st := .waiting (.interval op.i) }) (c.grp.block s) .interval, none⟩
  else performOp op s c

/-- One thread of the pick, at one instruction. -/
def issueThread (op : Op) (held : Bool) (s : State) (c : Cx) : Out :=
  match sliceEv op.i c.grp.isSlice with
  | some e => ⟨s, some e⟩
  | none =>
  if predOwed (s.thr c) op.h.gp.toNat then 
    ⟨s.modThr c fun t => { t with st := .waiting (.retry (.empty [128 + op.h.gp.toNat])) }, none⟩
  else if guardOf op.h (s.thr c).p then issueTrue op held s c
  else match limitEv s c.grp op with
  | some e => ⟨s, some e⟩
  | none => ⟨skipOp op s c, none⟩

/-- One thread of the pick: a thread that is not running is passed over. -/
def issueOne (op : Op) (s : State) (c : Cx) : Out :=
  if (s.thr c).st ≠ .running ∨ (s.thr c).stop.isSome then ⟨s, none⟩
  else match boundaryEv s c with
  | some e => ⟨s, some e⟩
  | none => issueThread op false s c

/-- Every thread of a pick, in the order of R212, with the events they raise. -/
def issueList (op : Op) (g : Grp) : State → List Nat → State × List (Nat × Ev)
  | s, [] => (s, [])
  | s, n :: r =>
    let o := issueOne op s ⟨g, n⟩
    let (s, evs) := issueList op g o.st r
    (s, match o.ev with | some e => (n, e) :: evs | none => evs)

/-- Threads of a pick that the settling of rendezvous and barriers may concern. -/
def pickWaits (s : State) (g : Grp) (l : List Nat) : Bool :=
  l.any fun n => match (s.thr ⟨g, n⟩).st with
    | .running => false
    | .gone | .inAct _ => true
    | .waiting w => match w with
      | .rdv _ | .join _ | .bar | .barg | .barw | .interval _ => true
      | .tl _ _ _ | .win _ _ _ _ _ | .phase _ _ | .nap _ | .op _ | .pressure | .retry _ => false

/-- Settles every skein of a pick. -/
def settlePick (s : State) (g : Grp) (l : List Nat) : State × List (Nat × Ev) :=
  ((l.map (· / 64)).eraseDups).foldl (fun (acc : State × List (Nat × Ev)) k =>
    let (s, e) := settle acc.1 g k
    (s, acc.2 ++ e)) (s, [])

/-- After a pick: what its threads' waits complete, then its events (R414). -/
def finishPick (s : State) (g : Grp) (l : List Nat) (evs : List (Nat × Ev)) : State :=
  if pickWaits s g l && !g.isSlice then
    let (s, more) := settlePick s g l
    takeEvents (takeEvents s g evs) g more
  else takeEvents s g evs

/-- The pick counters (R372): threads whose count of issued instructions has risen, or a slice that has
moved. -/
def countPick (s0 s : State) (g : Grp) (l : List Nat) : State :=
  if (s.part (g.cslot s0).part).ctrs = [] then s
  else
    let n := (l.filter fun m => let t := s.thr ⟨g, m⟩; let t0 := s0.thr ⟨g, m⟩
      t.icount != t0.icount || (g.isSlice && (t.pc != t0.pc || t.st != t0.st))).length
    let k := g.cslot s0
    let f := coreField (g.core s0)
    if n = 0 then s else (s.count k.part (some k.vf) f 0x01 1).count k.part (some k.vf) f 0x02 n

/-- One instruction issued for the threads of one group of a pick. -/
def issueGroup (op : Op) (s : State) (g : Grp) (l : List Nat) : State :=
  let (s', evs) := issueList op g s l
  finishPick (countPick s s' g l) g l evs

/-- The groups of a pick, with their threads: activations of one block and compartment issue together (R42). -/
def Pick.groups (p : Pick) : List (Grp × List Nat) := (p.grp, p.thrs) :: p.more

/-! ### Co-issue groups (R64, R65). DEDUCED, unsafe (log 104) -/

/-- The unit an instruction needs, by its opcode. -/
def coUnit (i : Instr) : CoUnit :=
  let o := slotLow i % 2 ^ 10
  if (0x1C0 ≤ o ∧ o ≤ 0x1D0) ∧ o ≠ 0x1C7 then .memory
  else if o = 0x1C7 ∨ o = 0x244 ∨ o = 0x245 ∨ o = 0x24A ∨ (0x285 ≤ o ∧ o ≤ 0x288) ∨ o = 0x28D ∨ (0x2C0 ≤ o ∧ o ≤ 0x2C7) then
    .engine
  else if (0x148 ≤ o ∧ o ≤ 0x152) ∨ o = 0xCB ∨ (0x4B ≤ o ∧ o ≤ 0x4E) then .sfu
  else .none

/-- A control transfer. -/
def transfers (i : Instr) : Bool :=
  match i with
  | .bra _ _ | .brx _ _ _ | .call _ _ | .callx _ _ _ | .ret _ _ | .retu _ _ | .exit _ _ | .gate _ _ _ _ | .retg _ _ => true
  | _ => false

/-- The keys of a run of registers, as `CoWrite` has them. -/
def opdKeys (x : Opd × Nat) : List Nat :=
  match x.1 with
  | .g n => (List.range x.2).map (n.toNat + ·)
  | .s n => (List.range x.2).map (512 + n.toNat + ·)
  | .p n => if n = 0 then [] else [128 + n.toNat]
  | .q n => [256 + n.toNat]
  | .j _ | .a _ | .tc _ | .z => []

/-- Predicates an instruction writes beyond its destinations: those a RESP names, and those of a PMOV. -/
def hiddenPreds (i : Instr) : List Nat :=
  match i with
  | .ld _ _ f => opdKeys (.p f.resp, 1)
  | .ldq _ _ f => opdKeys (.p f.resp, 1)
  | .atom _ _ f | .cas _ f | .cas128 _ f => opdKeys (.p f.resp, 1)
  | .pmov _ dir f => if dir then ((List.range 16).filter fun k => f.imm.getLsbD k).map (128 + ·) else []
  | _ => []

/-- What an instruction writes: its destinations, and the positions of the queues it reads. -/
def coWrites (op : Op) : List Nat :=
  op.dsts.flatMap opdKeys ++ hiddenPreds op.i ++ op.srcs.flatMap fun x => match x.o with
    | .q n => [256 + n.toNat]
    | .g _ | .s _ | .p _ | .j _ | .a _ | .tc _ | .z => []

/-- What an instruction reads. -/
def coReads (op : Op) : List Nat :=
  op.srcs.flatMap (fun x => opdKeys (x.o, x.n)) ++ op.waits ++ if op.h.gp = 0 then [] else [128 + op.h.gp.toNat]

/-- Every source of the slot is there for a thread that stands at it, and nothing stops the thread first. -/
def coReady (op : Op) (s : State) (c : Cx) : Bool :=
  let t := s.thr c
  t.st == .running && t.stop.isNone && (boundaryEv s c).isNone &&
    !predOwed t op.h.gp.toNat && !mustWait s c op && (emptySrcs s c op.srcs).isEmpty

/-- R64: the second slot issues in the same cycle. -/
def coHolds (op : Op) (w : CoWrite) (s : State) : Bool :=
  !((coReads op ++ coWrites op).any w.keys.contains) && (w.unit == .none || coUnit op.i != w.unit) &&
    s.pick.groups.all fun x => x.2.all fun n => coReady op s ⟨x.1, n⟩

/-- After the first slot of a group, the pick stands at the second when all of its threads do. -/
def coNext (op : Op) (s0 s : State) : State :=
  let on (g : Grp) (n : Nat) : Bool :=
    let t := s.thr ⟨g, n⟩
    t.st == .running && t.stop.isNone && t.pc == nextPc (s0.thr ⟨g, n⟩).pc
  let co : CoMode := if !transfers op.i && s0.pick.groups.all fun x => x.2.all (on x.1) then
    .second { keys := coWrites op, unit := coUnit op.i } else .single
  { s with pick := { s.pick with co := co } }

/-- One instruction issued for the pick of the state. -/
def issue (op : Op) (s : State) : State :=
  let perform (s : State) : State := s.pick.groups.foldl (fun s x => issueGroup op s x.1 x.2) s
  match s.pick.co with
  | .single => perform s
  | .first => coNext op s (perform s)
  | .second w =>
    let s := { s with pick := { s.pick with co := .single } }
    if coHolds op w s then perform s else s

/-- An instruction that may complete waits of other threads. -/
def issueWake (op : Op) (s : State) : State := wake (issue op s)

/-- An instruction that reaches memory: reaching service space stops the machine. -/
def guarded (f : State → State) (s : State) : Host.Outcome State Fault Refusal :=
  let s' := f { s with svc := false }
  if s'.svc then .fault .serviceSpace else .next s'

/-- The thread performs an instruction held for its block's checkpoint (R54). -/
def heldNow (s : State) (c : Cx) : Bool :=
  match (s.thr c).st with
  | .waiting (.interval _) => true
  | .waiting _ | .running | .inAct _ | .gone => false

/-- The agent of an access: what a checkpoint performs as its last act goes to memory itself (R54). -/
def actAgent (s : State) (c : Cx) : Agent :=
  if heldNow s c then { threadAgent s c with blk := none } else threadAgent s c

/-! ### Common shapes of instruction -/

/-- R94: open to every level. -/
def anyLevel (_ : State) (_ : Cx) : Nat := 0

/-- An instruction on registers alone. -/
def plainOp (i : Instr) (h : Hdr) (srcs : List Src) (dsts : List (Opd × Nat))
    (body : State → Cx → List Dword → State × Next) : Op :=
  { i := i, h := h, priv := anyLevel, srcs := srcs, dsts := dsts, tiles := [], xids := [], tcs := []
    noAct := false
    pre := fun _ _ _ => none, ends := false, body := body }

/-- The sources of a FMT 0 instruction, with how many registers A, B and C take. -/
def f0Srcs (f : F0) (a b c : Nat) : List Src :=
  [⟨f.a, a, f.e.getLsbD 0⟩, ⟨f.b, b, f.e.getLsbD 1⟩, ⟨f.c, c, f.e.getLsbD 2⟩]

/-- Delivers a 32-bit result at once; an s register of the execute slice by rendezvous (R75). -/
def put32 (s : State) (c : Cx) (d : Opd) (v : Word) : State × Next :=
  if isS d && !c.grp.isSlice then
    (s, .wait (.rdv (.sreg d false (v.zeroExtend 64) (nextPc (s.thr c).pc) none none)))
  else (wr32 s c d v, .seq)

def put64 (s : State) (c : Cx) (d : Opd) (v : Dword) : State × Next :=
  if isS d && !c.grp.isSlice then
    (s, .wait (.rdv (.sreg d true v (nextPc (s.thr c).pc) none none)))
  else (wr64 s c d v, .seq)

/-- Delivers a late 32-bit result (R81). -/
def putLate (s : State) (c : Cx) (d : Opd) (v : Word) : State × Next :=
  match d with
  | .g n => (wrLate s c n.toNat v, .seq)
  | .s _ | .p _ | .q _ | .j _ | .a _ | .tc _ | .z => put32 s c d v

/-- Delivers a truth value: to a p register, or 1 or 0 to a g or s register (R144, R158). -/
def putFlag (s : State) (c : Cx) (d : Opd) (v : Bool) : State × Next :=
  match d with
  | .p n => (wrP s c n.toNat v, .seq)
  | .g _ | .s _ | .q _ | .j _ | .a _ | .tc _ | .z => put32 s c d (if v then 1 else 0)

/-- A 32-bit result of the values of A, B and C. -/
def op32 (i : Instr) (h : Hdr) (f : F0) (v : Word → Word → Word → Word) : Op :=
  plainOp i h (f0Srcs f 1 1 1) [(f.d, 1)] fun s c x =>
    put32 s c f.d (v ((x.getD 0 0).setWidth 32) ((x.getD 1 0).setWidth 32) ((x.getD 2 0).setWidth 32))

/-- The slot a decoding failed at (R102): an undefined instruction, whatever the guard. -/
def undefinedSlot (w : Slot) (s : State) (c : Cx) : Out :=
  if (s.thr c).st ≠ .running ∨ (s.thr c).stop.isSome then ⟨s, none⟩
  else match boundaryEv s c with
  | some e => ⟨s, some e⟩
  | none => ⟨s, some (undefinedEv 2 (w.toNat % 2 ^ 64))⟩

end Sys2Proof.Machine
end

