-- ==== Sys2Proof/Machine/Check.lean ====
section
/-! DEFINITION. Machine checks: what becomes of the blocks and activations a failed unit or lost line
touches (R410, R463, R467), and the device event record (R468). -/

namespace Sys2Proof.Machine

open Sys2Proof

/-- R404, R462: the PC a record about a whole block names: that of its first thread. -/
def blockPc (s : State) (b : Nat) : Dword :=
  match s.live (.blk b) with
  | [] => 0
  | n :: _ => (s.thr ⟨.blk b, n⟩).pc

/-- What a machine check left of a block. -/
inductive Fate where
  | untouched | rolled | ended
  deriving DecidableEq, Repr

/-- A block leaves its core. Its commands there complete, so that a later placement starts its numbers afresh:
those of the checkpoint stay with the block, which counts them on the contexts of its new slot. -/
def unplace (s : State) (b : Nat) : State :=
  let k := s.blk b
  let tcs := (s.cslot k.core k.slot).tcs
  let k : Block → Block := fun k => { k with st := .saved, park := .none, captured := false, tcs := tcs }
  (breakPasses s b).modBlk b k

/-- R366: a save marks the stamps of a block's tiles. -/
def markMoved (y : Body) : Body :=
  { y with tiles := y.tiles.map fun e =>
    (e.1, if e.2.st = .empty then e.2 else { e.2 with stamp := { e.2.stamp with moved := true } }) }

/-- R242: a tile armed to receive refuses what was sent to it before its block was saved or re-placed. -/
def closeArmed (y : Body) : Body :=
  { y with tiles := y.tiles.map fun e =>
    (e.1, if e.2.armed then { e.2 with gen := (e.2.gen + 1) % 256, taken := false } else e.2) }

/-- A block leaves its core, saved as it stands (R56, R463). -/
def saveBlock (s : State) (b : Nat) : State :=
  let k := s.blk b
  let ctx := (s.launch k.launch).ctx
  let s := s.count (s.ctx ctx).part (some (s.ctx ctx).vf) (coreField k.core) 0x33 1
  let f (y : Body) : Body := markMoved (closeArmed y)
  unplace (s.modBlk b fun k => { k with body := f k.body, ckpt := f k.ckpt }) b

/-- R326, R283: how a block gives up its place: saved at its halt point, rolled back and saved, or parked to be
saved, after the halt asked of it if there is one. -/
def evictBlock (s : State) (b : Nat) : State :=
  let k := s.blk b
  if k.st ≠ .resident then s
  else if k.halted then saveBlock s b
  else if (Grp.blk b).rollback s then saveBlock (rollbackBlock s b) b
  else s.modBlk b fun k => { k with park := if k.park = .halt ∨ k.park = .leave then .leave else .save }

/-- R43, R44: the blocks that take and leave their places with a block: those of its RESIDENT launch, or of its
gang. -/
def tiedTo (s : State) (b : Nat) : List Nat :=
  if (s.launch (s.blk b).launch).resident then
    (s.blocks.filter fun e => e.2.launch == (s.blk b).launch && (e.2.st == .resident || e.2.st == .saved)).map (·.1)
  else if (s.launch (s.blk b).launch).k = 0 then [b]
  else gangOf s b

/-- A block that leaves its place takes those tied to it with it (R43, R44). -/
def evictTied (s : State) (b : Nat) : State := (tiedTo s b).foldl evictBlock s

/-- R466: the fields that take a block's image: its own, when that has DRAM, and its journal partner. -/
def imageFields (s : State) (core : Nat) : List Nat :=
  let f := coreField core
  (if (s.field f).state < 3 then [f] else []) ++
    ((((List.range 47).map fun i => (f + 1 + i) % 48).filter fun g => (s.field g).state < 2).take 1)

/-- R466: the block's image is written afresh. -/
def writeImage (s : State) (b : Nat) : State :=
  s.modBlk b fun k => { k with images := imageFields s k.core, imageLost := false }

/-- R410, R463, R467: a machine check touches a block that holds a place; one whose image is lost is handled as a
drain-mode block (R452). The record is the steward's;
`pc` and `wid` name the reaching thread, or the block; `moved` says that the block resumes on another core.
DEDUCED, unsafe (log 92). -/
def touchBlock (s : State) (b : Nat) (moved : Bool) (r : FaultRec) (e : Ev) : State × Fate :=
  let k := s.blk b
  let v := (s.ctx (s.launch k.launch).ctx).vf
  let put (s : State) (f : RecFlags) : State := s.hold v (faultBytes { r with flags := f } e s.now)
  if k.st = .absent ∨ k.st = .ended then (s, .untouched)
  else if k.halted then
    (if moved then
       evictTied (unplace ((put s { replaced := true }).modBlk b fun k => { k with body := closeArmed k.body, ckpt := closeArmed k.ckpt }) b) b
     else put s {}, .untouched)
  else if k.st = .saved then (s, .untouched)
  else if (s.cslot k.core k.slot).drain || k.imageLost then (put (failBlock s b 1) { ended := true }, .ended)
  else if moved then (evictTied (unplace (put (rollbackBlock s b) { rolled := true, replaced := true }) b) b, .rolled)
  else (put (rollbackBlock s b) { rolled := true }, .rolled)

/-- The record a machine check writes about a whole block. -/
def blockRec (s : State) (b : Nat) (u : UnitId) : FaultRec :=
  let k := s.blk b
  { wid := k.ident.toNat, lnum := (s.launch k.launch).lnum, ctx := (s.launch k.launch).ctx
    pc := (blockPc s b).toNat, core := k.core, unit := u }

/-- Touches every block of a list: how many were rolled back, and how many ended. -/
def touchBlocks (s : State) (u : UnitId) (moved : Bool) (e : Ev) : List Nat → State × Nat × Nat
  | [] => (s, 0, 0)
  | b :: r =>
    let (s, f) := touchBlock s b moved (blockRec s b u) e
    let (s, x, y) := touchBlocks s u moved e r
    (s, x + (if f = .rolled then 1 else 0), y + (if f = .ended then 1 else 0))

/-- R419: a machine check inside an activation ends the callee's threads; the callers wait on. -/
def touchAct (s : State) (a : Nat) (r : FaultRec) (e : Ev) : State :=
  let k := s.actv a
  let s := s.hold (s.ctx k.ctx).vf (faultBytes { r with flags := { ended := true } } e s.now)
  stopAct s a

/-- R66: a core's lines that fail their check go. -/
def dropFailed (s : State) (core : Nat) : State :=
  s.modCore core fun k => { k with lines := k.lines.filter fun l => lineGood l.2, failed := [] }

/-- R422, R417: a line that failed its check twice, at the thread that reaches it. -/
def lineParityCheck (s : State) (c : Cx) (l : BitVec 512) : State :=
  let s := dropFailed s (c.grp.core s)
  let pc := (s.thr c).pc
  let e : Ev := { code := 0x401, arg := 1, addr := lineOf pc, synd := ((lineWord l).extractLsb' 16 16).toNat }
  let u : UnitId := { field := coreField (c.grp.core s), kind := .line, num := 0, k := 0 }
  let r : FaultRec := { threadRec s c {} 0 pc with unit := u }
  match c.grp with
  | .act a => postEvent (touchAct s a r e) u e.code 0 1 0
  | .blk b | .slice b _ =>
    let (s, f) := touchBlock s b true r e
    postEvent s u e.code (if f = .rolled then 1 else 0) (if f = .ended then 1 else 0) 0

end Sys2Proof.Machine
end

