-- ==== Sys2Proof/Machine/Pick.lean ====
section
/-! DEFINITION. The pick formers of the cores (R35, R324, R325): eligible threads, candidate picks, their
order, and the fetch of the picked slot (R60, R66, R102, R422). -/

namespace Sys2Proof.Machine

open Sys2Proof

/-! ### Eligibility -/

/-- A rendezvous of the thread's skein waits for it. -/
def rdvNeeds (s : State) (g : Grp) (n : Nat) : Bool :=
  (s.liveSk g (n / 64)).any fun m => (rdvOf (s.thr ⟨g, m⟩)).isSome

/-- Whether the group may run: its block resident, not captured, not halted, and its slot valid. -/
def groupRuns (s : State) (g : Grp) : Bool :=
  (g.cslot s).valid && match g with
  | .blk b | .slice b _ => let k := s.blk b; k.st == .resident && !k.captured && !k.halted
  | .act a => let k := s.actv a; k.live && k.entered && !k.halted

/-- The block is asked to park (R41). -/
def parkAsked (s : State) (g : Grp) : Bool :=
  match g with
  | .blk b => (s.blk b).park != .none
  | .act a => (s.actv a).park != .none
  | .slice _ _ => false

/-- R378: the replayed log has a user interrupt for the thread at its present issue count. -/
def interruptAt (s : State) (c : Cx) : Bool :=
  let l := c.grp.launch s
  l.logOn == 2 && !(s.thr c).vectored &&
    l.replay.any fun r => r.take 15 == toBytes 8 (wid s c).toNat ++ toBytes 6 (s.thr c).icount.toNat ++ toBytes 1 3

/-- A thread the pick former may pick (R70, R82, R83, R244): running, not held by GAP, not standing at a
park point its block waits for, and not due to be vectored first. An owed delivery waits while the thread stands
before a held store or atomic, or is in a trap handler (R49, R406). -/
def eligible (s : State) (g : Grp) (n : Nat) : Bool :=
  let t := s.thr ⟨g, n⟩
  t.st == .running && t.stop.isNone && t.gapUntil ≤ s.cycle && (!t.due || t.mustIssue || t.intrap) &&
    (!(parkAsked s g && t.yielded) || rdvNeeds s g n) && !interruptAt s ⟨g, n⟩

/-- Threads in the order they became ready. -/
def byReady (s : State) (l : List Cx) : List Cx :=
  l.foldl (fun acc c => (acc.takeWhile fun m => (s.thr m).ready ≤ (s.thr c).ready) ++
    c :: acc.dropWhile fun m => (s.thr m).ready ≤ (s.thr c).ready) []

/-- Thread numbers in increasing order. -/
def byNumber (l : List Nat) : List Nat :=
  l.foldl (fun acc n => (acc.takeWhile (· < n)) ++ n :: acc.dropWhile (· < n)) []

/-- One pick of some threads of groups that may issue together. -/
def pickOf (gs : List Grp) (l : List Cx) : List Pick :=
  match gs.filterMap fun g => match byNumber ((l.filter fun c => c.grp == g).map (·.n)) with
    | [] => none
    | n :: r => some (g, n :: r) with
  | [] => []
  | (g, t) :: r => [{ grp := g, thrs := t, more := r }]

/-- R35, R324: the candidate picks of groups of one block in one compartment, one per PC: its up to 32
earliest-ready threads. A PC in the thread-local window names a line of one thread alone (R177). -/
def picksOf (s : State) (gs : List Grp) : List Pick :=
  let e : List Cx := gs.flatMap fun g => if groupRuns s g then ((s.live g).filter (eligible s g)).map (Cx.mk g) else []
  ((e.map fun c => (s.thr c).pc).eraseDups).flatMap fun pc =>
    let l := byReady s (e.filter fun c => (s.thr c).pc == pc)
    if inTlWindow pc.toNat then l.flatMap fun c => pickOf gs [c] else pickOf gs (l.take 32)

/-- The candidate picks of one group. -/
def groupPicks (s : State) (g : Grp) : List Pick := picksOf s [g]

/-- The groups of a core by block and compartment: activations of one block under one slot stand together. -/
def mergedGroups (s : State) : List Grp → List (List Grp)
  | [] => []
  | g :: r =>
    match mergedGroups s r with
    | [] => [[g]]
    | l :: rest =>
      let tied (h : Grp) : Bool := g.isAct && h.isAct && g.block s == h.block s && g.slot s == h.slot s
      if (l :: rest).any fun l => l.any tied then (l :: rest).map fun l => if l.any tied then g :: l else l
      else [g] :: l :: rest

/-! ### The order of R324 -/

/-- The key of a candidate, greatest first: weight above 0, PRIO, not given way, oldest ready, lowest slot. -/
def pickKey (s : State) (p : Pick) : List Int :=
  let g := p.grp
  let t := s.thr ⟨g, p.thrs.headD 0⟩
  let all := p.groups.flatMap fun x => x.2.map (Cx.mk x.1)
  let gave := all.any fun c => (s.thr c).gaveWay && (s.thr c).ready == s.cycle
  let oldest := all.foldl (fun m c => min m (s.thr c).ready) t.ready
  [if (s.vf (g.cslot s).vf).weight = 0 then 0 else 1, (g.launch s).prio, if gave then 0 else 1,
    -(oldest : Int), -(g.slot s : Int)]

def keyLess : List Int → List Int → Bool
  | a :: x, b :: y => a < b || (a == b && keyLess x y)
  | _, _ => false

/-- One member of a list of equals, where the manual gives the choice no rule. -/
def chooseOne {α : Type} (s : State) : List α → Option α
  | [] => none
  | [x] => some x
  | x :: y :: r => some ((x :: y :: r).getD (Config.choose s.cycle % (r.length + 2)) x)

/-- Slots with weight above 0, a candidate, and a starve count of 2,040 or more. -/
def starved (s : State) (core : Nat) (c : List Pick) : List Nat :=
  [0, 1, 2, 3].filter fun i =>
    2040 ≤ (s.cslot core i).starve && 0 < (s.vf (s.cslot core i).vf).weight &&
      c.any fun p => p.grp.slot s == i

/-- The lowest slot after the last one served this way, going round. -/
def nextStarved (last : Nat) (l : List Nat) : Option Nat :=
  match l.find? (last < ·) with
  | some i => some i
  | none => l.head?

/-- R324: the pick of a core among its candidates. -/
def corePick (s : State) (core : Nat) (c : List Pick) : Option Pick :=
  let from_ : List Pick := match nextStarved (s.core core).lastServed (starved s core c) with
    | some i => c.filter fun p => p.grp.slot s == i
    | none => c
  chooseOne s (from_.filter fun p => !(from_.any fun q => keyLess (pickKey s p) (pickKey s q)))

/-- R324: the starve counts after a pick, and the slot served for starving. -/
def noteServed (s : State) (core : Nat) (c : List Pick) (p : Pick) : State :=
  let served := nextStarved (s.core core).lastServed (starved s core c)
  let slots := [0, 1, 2, 3].filter fun i => (s.cslot core i).valid
  let s := slots.foldl (fun s i =>
    let k := s.cslot core i
    let n := if c.any (fun q => q.grp.slot s == i) && p.grp.slot s != i then k.starve + 1 else 0
    if n = k.starve then s else s.setCslot core i { k with starve := n }) s
  match served with
  | some i => s.modCore core fun k => { k with lastServed := i }
  | none => s

/-- Candidate picks of the execution groups of a core. -/
def coreCands (s : State) (core : Nat) : List Pick :=
  (mergedGroups s ((groups s).filter fun g => g.core s == core)).flatMap (picksOf s)

/-- R352: lanes of a slice's last LDQ that peers have still to answer. -/
def lanesOut (s : State) (b k : Nat) : Bool :=
  s.qps.any fun q => q.2.out.any fun o => o.kind == 5 && o.blk == b && o.thr == 64 * k

/-- The ready access slices of a core (R50, R325). -/
def slicePicks (s : State) (core : Nat) : List Pick :=
  (s.blocks.filter fun e => e.2.st == .resident && e.2.core == core).flatMap fun e =>
    (e.2.body.skeins.filter fun k => k.2.slice.active && !k.2.slice.fenceWait && k.2.slice.stop.isNone &&
      !lanesOut s e.1 k.1 && groupRuns s (.slice e.1 k.1)).map fun k => { grp := .slice e.1 k.1, thrs := [64 * k.1] }

/-- The number of a slice within its slot's round. -/
def sliceKey (p : Pick) : Nat :=
  match p.grp with
  | .slice b k => 64 * b + k
  | .blk _ | .act _ => 0

/-- Going round from `first`: the least key at or above it, else the least. -/
def nextFrom (first : Nat) (key : Pick → Nat) (l : List Pick) : Option Pick :=
  let least (l : List Pick) : Option Pick := l.foldl (fun (m : Option Pick) p => match m with
    | none => some p
    | some q => if key p < key q then some p else some q) none
  match least (l.filter fun p => first ≤ key p) with
  | some p => some p
  | none => least l

/-- R325: the access slice of a core that issues next: round robin by slot, then by block and skein. -/
def slicePick (s : State) (core : Nat) : Option Pick :=
  let l := slicePicks s core
  match nextFrom (s.core core).sliceSlot (fun p => p.grp.slot s) l with
  | none => none
  | some q => nextFrom (Tab.get 0 (s.core core).sliceRot (q.grp.slot s)) sliceKey (l.filter fun p => p.grp.slot s == q.grp.slot s)

/-- The rounds go on after a slice that has issued. -/
def noteSlice (s : State) (core : Nat) (p : Pick) : State :=
  let i := p.grp.slot s
  s.modCore core fun k => { k with sliceSlot := i + 1, sliceRot := Tab.put k.sliceRot i (sliceKey p + 1) }

/-- Cores that hold an execution group. -/
def busyCores (s : State) : List Nat := ((groups s).map fun g => g.core s).eraseDups

/-- What may come next on the cores: one pick of each core's pick former, and one of its affine address
engine. -/
def corePicks (s : State) : List Pick :=
  (busyCores s).flatMap fun c => (corePick s c (coreCands s c)).toList ++ (slicePick s c).toList

/-! ### Fetching the pick's slot -/

/-- What the fetch of a pick's slot gives: an instruction, a slot that is none, or an event. -/
inductive Fetched where
  | instr (i : Instr)
  | undefined (w : Slot)
  | event (e : Ev)
  | parity (l : BitVec 512)
  | service
  deriving DecidableEq, Repr

/-- A pick that stands at the second slot of a co-issue group. -/
def CoMode.isSecond : CoMode → Bool
  | .single | .first => false
  | .second _ => true

/-- R61, R64: a pick of the pick former that stands at the first slot of a co-issue group issues it as that. -/
def fetchMode (s : State) (l : BitVec 512) (i : Nat) : CoMode :=
  match s.pick.co with
  | .second w => .second w
  | .single | .first => if !s.pick.grp.isSlice && decide (i < 4) && (lineWord l).getLsbD (5 + i) then .first else .single

/-- R60, R62, R102, R421: the slot at the PC of a pick's threads. DEDUCED, unsafe (log 40). -/
def fetchPick (s : State) (p : Pick) : State × Fetched :=
  let c : Cx := ⟨p.grp, p.thrs.headD 0⟩
  let pc := (s.thr c).pc
  match fetchLine s c (lineOf pc) with
  | (s, .error e) => (s, .event e)
  | (s, .ok l) =>
    if s.svc then (s, .service)
    else if !lineGood l then (s, .parity l)
    else
      let i := pc.toNat % 8
      let w := lineSlot l i
      if slotVoid l i then (s, .undefined w)
      else match decode w with
      | some x => ({ s with pick := { s.pick with co := fetchMode s l i } }, .instr x)
      | none => (s, .undefined w)

/-- The threads of a pick all raise one event, after the checks that come before it (R413). -/
def raiseAll (e : Ev) (s : State) : State :=
  let one (s : State) (x : Grp × List Nat) : State :=
    takeEvents s x.1 (x.2.filterMap fun n =>
      if (s.thr ⟨x.1, n⟩).st ≠ .running ∨ (s.thr ⟨x.1, n⟩).stop.isSome then none
      else match boundaryEv s ⟨x.1, n⟩ with
      | some e' => some (n, e')
      | none => some (n, e))
  s.pick.groups.foldl one s

/-- A slot that is no encoding (R102, R417). -/
def issueUndefined (w : Slot) (s : State) : State := raiseAll (undefinedEv 2 (w.toNat % 2 ^ 64)) s

end Sys2Proof.Machine
end

