-- ==== Sys2Proof/Machine/Rdma.lean ====
section
/-! DEFINITION. What the device sends on a window's queue pair (R346, R347, R350 to R352), and remote loads and
stores of threads (R352). -/

namespace Sys2Proof.Machine

open Sys2Proof

/-- R350: the queue pair, keys and peer range of a window. -/
def Win.kind (x : Win) : Nat := bitsOf x.w0 0 2
/-- R351: the package of the peer. -/
def Win.pkg (x : Win) : Nat := bitsOf x.w0 8 8
def Win.qpn (x : Win) : Nat := bitsOf x.w0 16 24
def Win.asid (x : Win) : Nat := bitsOf x.w0 48 16
def Win.lbase (x : Win) : Nat := bitsOf x.w1 0 57
def Win.len (x : Win) : Nat := bitsOf x.w2 0 40
def Win.lkey (x : Win) : Nat := bitsOf x.w3 0 32
def Win.rkey (x : Win) : Word := .ofNat 32 (bitsOf x.w3 32 32)
def Win.rbase (x : Win) : Nat := x.w4.toNat
def Win.rlen (x : Win) : Nat := bitsOf x.w5 0 40

/-- R346: a message leaves by a data port, or waits there while the peer pauses its priority. -/
def emit (s : State) (port prio : Nat) (m : OutMsg) : State :=
  let p := s.port port
  if p.paused.getLsbD prio then s.setPort port { p with queued := p.queued ++ [(prio, m)] }
  else { s with out := s.out ++ [m] }

/-- R351: the queue pair of the module itself that a queue pair reaches, through the loopback of their port: a
window that names the first names the module's own package. DEDUCED, unsafe (log 71). -/
def loopPeer (s : State) (q : Nat) : Option Nat :=
  let x := s.qp q
  let y := s.qp x.peer
  if y.live && y.port == x.port && y.peer == q && x.peer != q &&
      (s.vf x.vf).wins.any (fun e => e.2.kind != 0 && e.2.qpn == q && e.2.pkg == s.boot.pkgid) then some x.peer
  else none

/-- The window that a request on a queue pair addresses by its key, 1,024 for none (R348). -/
def keyedWin (s : State) (q : Nat) (key : Word) : Nat :=
  (((s.vf (s.qp q).vf).wins.find? fun e => e.2.kind != 0 && e.2.qpn == q && e.2.lkey == key.toNat).map (·.1)).getD 1024

/-- A message of the module's own as it comes in on a queue pair. -/
def looped (s : State) (q : Nat) (m : OutMsg) : Option (ReqKind × InReq) :=
  let r (psn : Nat) (key : Word) (addr len : Nat) : InReq :=
    { vf := (s.qp q).vf, win := keyedWin s q key, qpn := q, key := key, off := addr, len := len, data := [], imm := 0
      add := 0, cmp := 0, psn := psn, ecn := 2 }
  match m with
  | .write _ psn key addr data none => some (.write, { r psn key addr data.length with data := data })
  | .write _ psn key addr data (some n) =>
    some (.writeImm, { r psn key addr data.length with data := data, imm := .ofNat 32 n })
  | .read _ psn key addr len => some (.read, r psn key addr len)
  | .atomic _ psn key addr false v _ => some (.add, { r psn key addr 8 with add := v })
  | .atomic _ psn key addr true v x => some (.swap, { r psn key addr 8 with add := v, cmp := x })
  | .reply _ _ | .ack _ | .nak _ | .cnp _ | .attest _ => none

/-- The first number that no request being served has. -/
def freshServed (s : State) : Nat := s.served.foldl (fun m e => max m (e.1 + 1)) 0

/-- A request that will be served. -/
def State.serveLater (s : State) (k : ReqKind) (r : InReq) : State :=
  { s with served := Tab.put s.served (freshServed s) { kind := k, r := r, sent := false, data := [], got := [] } }

/-- Operations whose end a thread, a command or a request being served goes on waiting for when their queue pair
is in the error state (R352, R471). DEDUCED, unsafe (log 69). -/
def OutOp.stays (o : OutOp) : Bool :=
  o.kind == 4 || o.kind == 7 || o.kind == 10 || o.kind == 11 || o.kind == 13 || o.kind == 14

/-- Sends one operation on a queue pair: its message, and what its acknowledgement completes. A queue pair in the
error state sends nothing; an operation that something waits for stays there without an answer, at a number that
no packet has. -/
def send (s : State) (q : Nat) (msg : Nat → OutMsg) (op : Nat → OutOp) : State :=
  let x := s.qp q
  if !x.live then s
  else if x.err then (if (op (2 ^ 24)).stays then s.setQp q { x with out := x.out ++ [op (2 ^ 24)] } else s)
  else
    let s := s.setQp q { x with sendPsn := (x.sendPsn + 1) % 2 ^ 24, out := x.out ++ [op x.sendPsn] }
    match (loopPeer s q).bind fun p => looped s p (msg x.sendPsn) with
    | some (k, r) => s.serveLater k r
    | none => emit s x.port x.prio (msg x.sendPsn)

/-- The number of a remote stretch of a load in the outstanding operations: place, length and registers. -/
def farNum (f : Far) (regs : Nat) : Nat := f.pos + 64 * f.len + 4096 * regs

/-- R352: a load's stretches in remote windows, read of the peers for a group of registers. -/
def sendReads (s : State) (c : Cx) (reg regs : Nat) : List Far → State
  | [] => s
  | f :: fs =>
    let w := s.win (c.grp.cslot s).vf f.win
    sendReads (send s w.qpn (fun p => .read w.qpn p w.rkey (w.rbase + f.off) f.len)
      (fun p => { psn := p, blk := c.grp.name, num := farNum f regs, kind := 3, thr := c.n, reg := reg })) c reg regs fs

/-- R352: a store's stretches in remote windows, written at the peers. The window counters take no notice of them.
DEDUCED, unsafe (log 119). -/
def sendWrites (s : State) (vf blk thr : Nat) (bs : List Byte) : List Far → State
  | [] => s
  | f :: fs =>
    let w := s.win vf f.win
    sendWrites (send s w.qpn
      (fun p => .write w.qpn p w.rkey (w.rbase + f.off) ((bs.drop f.pos).take f.len) none)
      (fun p => { psn := p, blk := blk, num := 0, kind := 4, thr := thr, reg := 0 })) vf blk thr bs fs

/-- The words of a register group that hold the bytes of a load, zero above them (R211). -/
def wordsOf (n : Nat) (bs : List Byte) : List Word :=
  (List.range ((n + 3) / 4)).map fun k => .ofNat 32 (ofBytes ((bs.drop (4 * k)).take 4))

/-- R211: the bytes of a register group. -/
def bytesOf (n : Nat) (ws : List Word) : List Byte := (ws.flatMap fun w => toBytes 4 w.toNat).take n

end Sys2Proof.Machine
end

