-- ==== Sys2Proof/Machine/Cmds.lean ====
section
/-! DEFINITION. Engine commands: their issue and completion (R204, R245, R246, R275), the state they
change (R55), the memory they reach, pages they fetch first (R219), tiles (R242, R243), stamps (R365) and
transaction barriers (R255). -/

namespace Sys2Proof.Machine

open Sys2Proof

/-! ### Commands of a block -/

/-- The number by which an event names a command: an activation's command is numbered in its own slot. -/
def Cmd.key (x : Cmd) : Nat := x.num + if x.inner then 2 ^ 64 * (x.slot + 1) else 0

def Cmd.same (x y : Cmd) : Bool := x.tc == y.tc && x.key == y.key

def State.cmd (s : State) (b tc key : Nat) : Option Cmd :=
  (s.blk b).body.cmds.find? fun x => x.tc == tc && x.key == key

/-- R55: the effect of a command on its block, kept by a rollback when it was issued before the
checkpoint. -/
def State.modEngine (s : State) (b : Nat) (fresh : Bool) (f : Body → Body) : State :=
  let keep := !fresh && (Grp.blk b).rollback s
  s.modBlk b fun k => { k with body := f k.body, ckpt := if keep then f k.ckpt else k.ckpt }

def replaceCmd (x : Cmd) (y : Body) : Body := { y with cmds := y.cmds.map fun c => if c.same x then x else c }
def removeCmd (x : Cmd) (y : Body) : Body := { y with cmds := y.cmds.filter fun c => !c.same x }

/-- Records the progress of a command. -/
def State.setCmd (s : State) (b : Nat) (x : Cmd) : State := s.modEngine b x.fresh (replaceCmd x)

/-- What an issue waits for: a held write, since an issue is a release (R204, R447), or room on its
context. -/
def cmdWait (s : State) (c : Cx) (tc : Nat) : Option Wait :=
  if heldBy s c then some (.retry .heldLine) else if tcFull s c tc then some (.retry (.room tc)) else none

/-- R204: issues a command of a thread on an engine context, finished by `f`; the answer is its number. -/
def issueCmdWith (s : State) (c : Cx) (tc : Nat) (k : CmdKind) (nt : Bool) (left : List Nat) (heldCommit : Bool)
    (f : Cmd → Cmd) : State × Nat :=
  let core := c.grp.core s
  let slot := c.grp.slot s
  let (num, s) := tcNext s core slot tc
  let t := s.thr c
  let x : Cmd := f
    { tc := tc, num := num, kind := k, thr := c.n, pc := t.pc, wid := wid s c, icount := t.icount
      ctx := c.grp.ctx s, core := core, slot := slot, inner := c.grp.isAct, nt := nt, beat := 0, left := left
      started := false, fresh := c.grp.rollback s && !c.grp.isAct, heldCommit := heldCommit, sent := false
      mc := [], msum := [], got := [] }
  (s.modEngine (c.grp.block s) x.fresh fun y => { y with cmds := y.cmds ++ [x] }, num)

/-- A command as it is first issued. -/
def issueCmd (s : State) (c : Cx) (tc : Nat) (k : CmdKind) (nt : Bool) (left : List Nat) (heldCommit : Bool) :
    State × Nat := issueCmdWith s c tc k nt left heldCommit id

/-- R48: sets a bit of the producer skein's SR.UPEND. -/
def setUpend (k bit : Nat) (y : Body) : Body :=
  let x := Tab.get Skein.start y.skeins k
  { y with skeins := Tab.put y.skeins k { x with upend := x.upend ||| .ofNat 4 (2 ^ bit) } }

/-- R245: the status of the block's most recently completed command on a context. -/
def setCtxStatus (tc status : Nat) (y : Body) : Body :=
  { y with ctxStat := Tab.put y.ctxStat tc { Tab.get CtxStat.none y.ctxStat tc with status := status } }

/-- Completion of a command: 0 complete, 1 refused, 2 ended by a fault, 3 cancelled. -/
def finishCmd (s : State) (b : Nat) (x : Cmd) (status : Nat) : State :=
  let s := s.modEngine b x.fresh fun y =>
    let y := removeCmd x y
    let y := if x.inner then y else setCtxStatus x.tc status y
    if x.nt && status != 3 then setUpend (x.thr / 64) x.tc y else y
  progress (tcComplete s x.core x.slot x.tc x.num) b

/-- R246, R405: the report of a fault met during a command's course. -/
def cmdFault (s : State) (b : Nat) (x : Cmd) (e : Ev) : State :=
  let r : FaultRec :=
    { wid := x.wid.toNat, lnum := (s.launch (s.blk b).launch).lnum, ctx := x.ctx, flags := { async := true }
      pc := x.pc.toNat, core := x.core }
  let bytes := faultBytes r e s.now
  if e.code = 0x405 ∧ x.inner = false then dataLost s (.blk b) r e
  else if x.inner then
    match s.acts.find? fun a => a.2.live && a.2.blk == b && a.2.skein == x.thr / 64 with
    | some a => requestHalt (report s (.act a.1) bytes) (.act a.1)
    | none => s.hold (s.ctx x.ctx).vf bytes
  else requestHalt (report s (.blk b) bytes) (.blk b)

/-- Takes one landing out of those not yet performed. -/
def Cmd.landed (x : Cmd) (n : Nat) : Cmd := { x with left := x.left.erase n, started := true }

/-! ### Tiles (R242, R243) -/

def Body.tile (y : Body) (t : Nat) : Tile := Tab.get Tile.none y.tiles t
def Body.modTile (y : Body) (t : Nat) (f : Tile → Tile) : Body := { y with tiles := Tab.put y.tiles t (f (y.tile t)) }

/-- R242: a retirement to EMPTY. -/
def retired (x : Tile) : Tile :=
  { x with st := .empty, gen := (x.gen + 1) % 256, rx := false, swz := 0, vrows := 0, taken := false, stamp := Stamp.clear }

/-- R366: the stamp record of a retirement, and the retirement. -/
def State.retireTile (s : State) (b t : Nat) (tfree fresh : Bool) : State :=
  let k := s.blk b
  let l := s.launch k.launch
  let x := k.body.tile t
  let s := if traceOn s (s.ctx l.ctx).vf 0 then
      traceBlock s b (stampBytes k.ident.toNat l.lnum l.ctx t x.gen x.stamp tfree) else s
  s.modEngine b fresh fun y => y.modTile t retired

/-- Address of a sector of a tile row (R247). -/
def tileSector (x : Tile) (m k : Nat) : Nat := 64 * x.base + m * x.pitch + 32 * (k ^^^ m % 2 ^ x.swz)

/-- The earlier of two times. -/
def firstTime (a : Option Nat) (now : Nat) : Option Nat := some (match a with | some x => min x now | none => now)

/-- R365: the start of the earliest wait of a block that ends through the fill of a tile. -/
def waitsFor (s : State) (b t : Nat) (tc num : Nat) (bar : Option Nat) : Option Nat :=
  ((s.blk b).body.threads.filterMap fun e =>
    match e.2.st with
    | .waiting (.retry (.tile u _)) => if u = t then some e.2.waitAt else none
    | .waiting (.tl c thr _) => if c = tc ∧ num ≤ thr then some e.2.waitAt else none
    | .waiting (.phase a _) => if bar = some a then some e.2.waitAt else none
    | .waiting _ | .running | .gone | .inAct _ => none).foldl (fun m x => firstTime m x) none

/-- The stamps of a tile that becomes READY. -/
def stampReady (now : Nat) (waits : Option Nat) (x : Tile) : Tile :=
  if x.stamp.fille.isSome then x
  else { x with stamp := { x.stamp with fille := some now, waits := waits } }

/-! ### Transaction barriers (R255) -/

/-- R255: ARRIVALS and SECTORS take their changes, then the test for the end of the phase. -/
def barrierStep (w : Nat) (da ds : Int) : Nat :=
  let arr := wrapNat 32 ((w / 2 ^ 32 % 2 ^ 32 : Nat) + da)
  let sec := wrapNat 48 ((w / 2 ^ 64 % 2 ^ 48 : Nat) + ds)
  let expd := w / 2 ^ 16 % 2 ^ 16
  let low := w % 2 ^ 32
  let top := w / 2 ^ 112 * 2 ^ 112
  if arr = 0 ∧ sec = 0 then (low / 16 * 16 + (low + 1) % 16) + 2 ^ 32 * expd + top
  else low + 2 ^ 32 * arr + 2 ^ 64 * sec + top

def barrierAdd (m : Tab Byte) (a : Nat) (da ds : Int) : Tab Byte :=
  Tab.setRun 0 m a (toBytes 16 (barrierStep (ofBytes (Tab.getRun 0 m a 16)) da ds))

/-- R253: a landed sector counts at the command's barrier. -/
def countSector (bar : Option Nat) (y : Body) : Body :=
  match bar with
  | some a => { y with scratch := barrierAdd y.scratch a 0 (-1) }
  | none => y

/-! ### Memory as a command reaches it (R204, R246, R292) -/

/-- A command as the maker of an access. -/
def cmdAgent (s : State) (b : Nat) (x : Cmd) : Agent :=
  let k := s.cslot x.core x.slot
  { ctx := x.ctx, vf := k.vf, part := k.part, asids := [k.asid 0, k.asid 1, k.asid 2, k.asid 3]
    av := 1 + 2 * bitsOf k.w0 23 3, aro := 2 * bitsOf k.w0 26 3, launch := (s.blk b).launch, wid := none
    core := x.core, slot := x.slot, cluster := some (coreCluster x.core)
    blk := if !x.inner && (Grp.blk b).rollback s then some b else none
    own := some b, thr := 2 ^ 32 * (x.key + 1) + x.tc, force := false }

/-- R447: a landing of the command is held at a home. -/
def cmdHeld (s : State) (b : Nat) (x : Cmd) : Bool :=
  s.held.any fun h => h.blk == some b && h.thr == 2 ^ 32 * (x.key + 1) + x.tc

/-- What a step of a command's course finds. -/
inductive ERes (α : Type) where
  | ok (v : α)
  | wait
  | fault (e : Ev)

/-- Operations of a kind outstanding for a command. -/
def cmdOps (s : State) (b : Nat) (x : Cmd) (kind : Nat) : List OutOp :=
  s.qps.flatMap fun q => q.2.out.filter fun o => o.kind == kind && o.blk == b && o.num == x.key && o.thr == x.tc

/-! ### Fetching a page (R219) -/

/-- Frames of DRAM of a field (R2). -/
def fieldFrames : Nat := 1572864

/-- The memory channel a frame of DRAM lies on. -/
def frameChannel (fr : Nat) : Nat := fr % 8

/-- A frame that holds nothing, on a channel that works, and outside what 512 MiB leaves reserve (R181). -/
def frameFree (s : State) (fr : Nat) : Bool :=
  let x := Tab.get Frame.none s.frames fr
  !x.used && !x.retired && (s.field (fr / 2 ^ 30)).chan.getLsbD (frameChannel fr) && !frameReserved s fr &&
    !(s.mem.any fun e => e.1 / 2 ^ 16 == fr)

/-- The first free frame of a field from a place on, going round. -/
def findFrame (s : State) (f start : Nat) : Nat → Option Nat
  | 0 => none
  | n + 1 =>
    let fr := f * 2 ^ 30 + start % fieldFrames
    if frameFree s fr then some fr else findFrame s f (start + 1) n

/-- A frame of a field's pool: no page and no content of ours, the choice open. DEDUCED, safe (log 32). -/
def takeFrame (s : State) (f : Nat) : Option (Nat × State) :=
  if (s.field f).chan = 0 ∨ (s.field f).state = 4 then none
  else match findFrame s f (Config.choose s.draws) fieldFrames with
  | some fr =>
    some (fr, { s with draws := s.draws + 1, frames := Tab.put s.frames fr { Frame.none with used := true } })
  | none => none

/-- A resident leaf over a frame: KIND 2, A and D clear. -/
def residentLeaf (e : Dword) (fr : Nat) : Dword := setBits (setBits (setBits (setBits e 0 2 2) 16 36 fr) 5 1 0) 6 1 0

/-- The bytes of a page reach a frame of its home, and the leaf is rewritten if it still stands. -/
def fillPage (s : State) (core asid va epa : Nat) (e : Dword) (data : List Byte) : State × Bool :=
  if s.load64 epa ≠ e then (s, true)
  else
    let home := s.granHome core asid va
    let s := s.homeGranule asid va home
    match takeFrame s home with
    | none => (s, false)
    | some (fr, s) =>
      let canon := asid * 2 ^ 55 + va % 2 ^ 55 / 2 ^ 16 * 2 ^ 16
      let entry : Frame := { Frame.none with used := true, canon := some canon }
      let s := { s with frames := Tab.put s.frames fr entry }
      ((s.store (fr * 2 ^ 16) data).store epa (toBytes 8 (residentLeaf e fr).toNat), true)

/-- R219: one step of making the page of a KIND 3 leaf resident: `ok true` when it is, or when the leaf
has changed, `ok false` when no frame is free. -/
def fetchLeaf (s : State) (ag : Agent) (asid va l epa : Nat) (e : Dword) : State × ERes Bool :=
    if s.load64 epa ≠ e then (s, .ok true)
    else
      let src := leafFrame e * 2 ^ 16
      let noStore : Ev := transEv va l 9 (tableIndex va l) asid
      if src / 2 ^ 46 = 63 then (if ag.part = 0 then ({ s with svc := true }, .wait) else (s, .fault noStore))
      else if src / 2 ^ 46 < 48 then
        if !hasStorage s ag.part src 0 && !hasStorage s ag.part src 1 then (s, .fault noStore)
        else
          let at_ := if hasStorage s ag.part src 0 then src else storePa ag.part src 1
          let (s, done) := fillPage s ag.core asid va epa e (s.bytes at_ 65536)
          (s, .ok done)
      else
        let w := s.win ag.vf (remoteWin src)
        if remoteLen s ag.vf (remoteWin src) ≤ remoteOff src then (s, .fault (protEv va 32 asid))
        else if (s.qp w.qpn).out.any fun o => o.kind == 8 && o.num == epa then (s, .wait)
        else if (takeFrame s (s.granHome ag.core asid va)).isNone then (s, .ok false)
        else
          (send s w.qpn (fun p => .read w.qpn p w.rkey (w.rbase + remoteOff src) 65536)
            (fun p => { psn := p, blk := ag.core, num := epa, kind := 8, thr := e.toNat,
                        reg := asid * 2 ^ 55 + va % 2 ^ 55 / 2 ^ 16 * 2 ^ 16 }), .wait)

/-- A page of an access as its leaf now stands. -/
def fetchPage (s : State) (ag : Agent) (asid va : Nat) : State × ERes Bool :=
  match s.walk asid va with
  | .bad l r i => (s, .fault (transEv va l r i asid))
  | .leaf l epa e => if leafKind e ≠ 3 then (s, .ok true) else fetchLeaf s ag asid va l epa e

/-- The first non-resident page of an access is fetched; the access waits, for a free frame as long as there is
none. DEDUCED, unsafe (log 111). -/
def fetchFirst (s : State) (ag : Agent) (a : Acc) (va n : Nat) : State × ERes (List Byte) :=
  match resolve s ag a va n with
  | (s, .error e) => (s, .fault e)
  | (s, .ok ps) =>
    match ps.find? Piece.absent with
    | none => (s, .wait)
    | some p =>
      match fetchPage s ag p.asid p.va with
      | (s, .fault e) => (s, .fault e)
      | (s, .ok _) | (s, .wait) => (s, .wait)

/-- Where a command keeps a byte a peer has answered. -/
def gotKey (win off : Nat) : Nat := 2 ^ 64 + 2 ^ 40 * win + off

/-- R352: asks peers for the stretches a command lacks. -/
def askPeers (s : State) (b : Nat) (x : Cmd) (vf : Nat) : List Far → State
  | [] => s
  | f :: fs =>
    let w := s.win vf f.win
    let key := gotKey f.win f.off
    let s := if (cmdOps s b x 10).any fun o => o.reg == key then s
      else send s w.qpn (fun p => .read w.qpn p w.rkey (w.rbase + f.off) f.len)
        (fun p => { psn := p, blk := b, num := x.key, kind := 10, thr := x.tc, reg := key })
    askPeers s b x vf fs

/-- Bytes of remote stretches as peers have answered them, over the bytes at hand. -/
def patchFar (got : Tab Byte) (bs : List Byte) : List Far → Option (List Byte)
  | [] => some bs
  | f :: fs =>
    let l := (List.range f.len).filterMap fun i => Tab.find got (gotKey f.win (f.off + i))
    if l.length = f.len then patchFar got (patch bs f.pos l) fs else none

/-- Bytes a command reads. -/
def engineRead (s : State) (b : Nat) (x : Cmd) (va n : Nat) : State × ERes (List Byte) :=
  let ag := cmdAgent s b x
  match loadAt s ag va n 3 false with
  | (s, .bytes bs) => (s, .ok bs)
  | (s, .ev e) => (s, .fault e)
  | (s, .absent) => fetchFirst s ag Acc.read va n
  | (s, .pressure) => (requestPark s b .pressure, .wait)
  | (s, .far bs fs) =>
    match patchFar x.got bs fs with
    | some bs => (s, .ok bs)
    | none => (askPeers s b x ag.vf fs, .wait)

/-- R352: writes of a command to peers. -/
def tellPeers (s : State) (b : Nat) (x : Cmd) (vf : Nat) (bs : List Byte) : List Far → State
  | [] => s
  | f :: fs =>
    let w := s.win vf f.win
    tellPeers (send s w.qpn
      (fun p => .write w.qpn p w.rkey (w.rbase + f.off) ((bs.drop f.pos).take f.len) none)
      (fun p => { psn := p, blk := b, num := x.key, kind := 11, thr := x.tc, reg := 0 })) b x vf bs fs

/-- R55: provisional bytes of a command issued before the checkpoint survive a rollback. -/
def keepBytes (s : State) (b : Nat) (ag : Agent) (va : Nat) (bs : List Byte) : State :=
  match resolve s ag Acc.write va bs.length with
  | (s, .error _) => s
  | (s, .ok ps) =>
    let put (t : Tab Byte) (p : Piece) (l : List Byte) : Tab Byte :=
      (List.range p.len).foldl (fun t i => Tab.put t (p.loc + i) (l.getD i 0)) t
    (ps.foldl (fun (a : State × List Byte) p =>
      (a.1.modBlk b fun k => { k with keep := put k.keep p a.2 }, a.2.drop p.len)) (s, bs)).1

/-- A landing of a command in memory, as a write-through store. -/
def engineWrite (s : State) (b : Nat) (x : Cmd) (va : Nat) (bs : List Byte) : State × ERes Unit :=
  let ag := cmdAgent s b x
  match storeTo s ag va 1 false false bs with
  | (s, .done) => (if ag.blk.isSome && !x.fresh then keepBytes s b ag va bs else s, .ok ())
  | (s, .ev e) => (s, .fault e)
  | (s, .absent) =>
    match fetchFirst s ag Acc.write va bs.length with
    | (s, .fault e) => (s, .fault e)
    | (s, .ok _) | (s, .wait) => (s, .wait)
  | (s, .pressure) => (requestPark s b .pressure, .wait)
  | (s, .far fs) => (tellPeers s b x ag.vf bs fs, .ok ())

/-- A command that waits for no held landing and no peer's answer. -/
def cmdQuiet (s : State) (b : Nat) (x : Cmd) : Bool :=
  !cmdHeld s b x && (cmdOps s b x 10).isEmpty && (cmdOps s b x 11).isEmpty && (cmdOps s b x 0).isEmpty && (cmdOps s b x 1).isEmpty

/-! ### What an instruction reads of memory as it issues -/

/-- R352: asks peers for the stretches the instruction of a thread lacks. -/
def askForThread (s : State) (c : Cx) (vf : Nat) : List Far → State
  | [] => s
  | f :: fs =>
    let w := s.win vf f.win
    let key := gotKey f.win f.off
    let mine (o : OutOp) : Bool := o.kind == 12 && o.blk == c.grp.name && o.thr == c.n && o.reg == key
    let s := if s.qps.any fun q => q.2.out.any mine then s
      else send s w.qpn (fun p => .read w.qpn p w.rkey (w.rbase + f.off) f.len)
        (fun p => { psn := p, blk := c.grp.name, num := 0, kind := 12, thr := c.n, reg := key })
    askForThread s c vf fs

/-- Bytes an instruction reads as it issues, by the load rules; a page that is not resident reads zero
(R189). -/
def issueRead (s : State) (c : Cx) (va n : Nat) : State × ERes (List Byte) :=
  let ag := threadAgent s c
  match loadAt s ag va n 0 true with
  | (s, .bytes bs) => (s, .ok bs)
  | (s, .absent) => (s, .ok (List.replicate n 0))
  | (s, .ev e) => (s, .fault e)
  | (s, .pressure) => (requestPark s (c.grp.block s) .pressure, .wait)
  | (s, .far bs fs) =>
    match patchFar (s.thr c).peer bs fs with
    | some bs => (s, .ok bs)
    | none => (askForThread s c ag.vf fs, .wait)

/-! ### Command numbers to their destinations -/

/-- R246: the number of a command issued is written to D at once. DESIGN CHOICE, safe (log 68). -/
def numberTo (s : State × Nat) (c : Cx) (d : Opd) : State × Next :=
  (wr64 s.1 c d (.ofNat 64 s.2), .seq)

end Sys2Proof.Machine
end

