-- ==== Sys2Proof/Machine/Memory.lean ====
section
/-! DEFINITION. Loads and stores of global memory and of the scratchpad, queue loads, hints, fences and
cache maintenance (R210 to R218, R224 to R226). -/

namespace Sys2Proof.Machine

open Sys2Proof

/-! ### Addresses, groups, hints and watchpoints -/

/-- R211: the bytes of an access. -/
def width (sz : BitVec 3) : Nat := 2 ^ sz.toNat

/-- R211: the registers of a data group of n bytes. -/
def groupRegs (n : Nat) : Nat := if n ≤ 4 then 1 else n / 4

/-- R215: base + index × n + offset. -/
def ea2 (f : F2) (a : Dword) (b : Word) : Dword :=
  a + b.signExtend 64 * .ofNat 64 (width f.size) + f.off.signExtend 64

/-- R216: the same within 32 bits, for the scratchpad. -/
def eaS (f : F2) (a b : Word) : Word := a + b * .ofNat 32 (width f.size) + f.off.signExtend 32

/-- R191: the priority a hint gives; no-allocate fills no line, and gives none. -/
def hintPrio : Hint → Option Nat
  | .normal => some 0
  | .evictFirst => some 1
  | .evictLast => some 2
  | .noAllocate => none

/-- The lines that an access touches, by location, where R177 has it performed. -/
def spanLocs (s : State) (ag : Agent) (va n : Nat) : List Nat :=
  match relocate s ag va n with
  | .error _ => []
  | .ok l => (l.flatMap fun x => lineCuts x.1 x.2).map fun c =>
      ag.asids.getD (c.1 / 2 ^ 55 % 4) 0 * 2 ^ 55 + c.1 % 2 ^ 55 / 128 * 128

/-- R191: a cluster's line takes a priority. -/
def prioCline (s : State) (cl prio loc : Nat) : State :=
  let key := cl * 2 ^ 64 + loc / 128
  match Tab.find s.fab.clines key with
  | none => s
  | some x =>
    let s := s.setCopy cl loc { x with prio := prio, used := s.cycle }
    match (if prio = 2 then demoted (setWays s 1 key) 1 key (s.fab.clines.map fun e => (e.1, e.2.prio, e.2.used)) else none) with
    | some k => { s with fab := { s.fab with clines := Tab.mod CLine.none s.fab.clines k fun y => { y with prio := 0 } } }
    | none => s

/-- R191: the copies of a line that serve a core take a priority, at each level. -/
def setPrio (s : State) (ag : Agent) (prio loc : Nat) : State :=
  let s := prioCline s (coreCluster ag.core) prio loc
  let mine (k : Nat) : Bool := k % 2 ^ 64 == loc / 128
  let all (level : Nat) (f : Nat → Bool) (t : Tab Copy) : Tab Copy :=
    ((t.map (·.1)).filter fun k => mine k && f k).foldl (fun t k => prioCopy (setWays s level k) level s.cycle k prio t) t
  { s with fab := { s.fab with
    l0 := all 0 (fun k => k / 2 ^ 64 == 4 * ag.core + ag.slot) s.fab.l0
    l2 := all 2 (fun k => k / 2 ^ 64 / 24 == coreField ag.core || s.fab.fcache.any fun e => mine e.1 && e.1 / 2 ^ 64 == k / 2 ^ 64 / 24) s.fab.l2
    fcache := all 3 (fun _ => true) s.fab.fcache } }

def setPrios (s : State) (ag : Agent) (prio : Nat) (l : List Nat) : State :=
  l.foldl (fun s loc => setPrio s ag prio loc) s

/-- R191: HINT 1 and 2 of an access. -/
def noteHint (s : State) (ag : Agent) (va n : Nat) (h : Hint) : State :=
  match h with
  | .normal | .noAllocate => s
  | .evictFirst => setPrios s ag 1 (spanLocs s ag va n)
  | .evictLast => setPrios s ag 2 (spanLocs s ag va n)

/-- What a load leaves on the copies it has read: the mark of a self-invalidating one (R187), its hint. -/
def noteLoad (s : State) (c : Cx) (ag : Agent) (f : F2) (va : Nat) : State :=
  let s := if f.ty = 2 then noteSelfInv s c f.scope (spanLocs s ag va (width f.size)) else s
  noteHint s ag va (width f.size) f.hint

/-- R373, R374: the first watchpoint of the thread's context that an access meets; a breakpoint at the
boundary after it comes first. DEDUCED, unsafe (log 39). -/
def watchAt (s : State) (c : Cx) (va n : Nat) (r w : Bool) : Option Ev :=
  let ctx := c.grp.ctx s
  let entry (i : Nat) : Dbg := Tab.get Dbg.none (s.ctx ctx).dbg i
  match [4, 5, 6, 7].find? fun i =>
    let d := entry i
    bitOf d.w1 0 && ((bitOf d.w1 1 && r) || (bitOf d.w1 2 && w)) &&
      d.addr.toNat < va + n && va < d.addr.toNat + 2 ^ bitsOf d.w1 3 5 with
  | none => none
  | some i =>
    match breakpointAt s ctx (nextPc (s.thr c).pc) with
    | some j => some { code := debugCode 1 j, arg := 0, addr := 0, synd := 0 }
    | none => some { code := debugCode 2 i, arg := 0, addr := max va (entry i).addr.toNat, synd := 0 }

/-- The end of an access that has been performed. -/
def afterAccess (s : State) (c : Cx) (va n : Nat) (r w : Bool) : State × Next :=
  match watchAt s c va n r w with
  | some e => (s, .after e)
  | none => (s, .seq)

/-- Writes a load's group, late (R81); z discards it. -/
def landGroup (s : State) (c : Cx) (d : Opd) (ws : List Word) : State :=
  match d with
  | .g r => wrLateGroup s c r.toNat ws
  | .s _ | .p _ | .q _ | .j _ | .a _ | .tc _ | .z => s

/-- Sets the registers of a group with the bytes at hand, and leaves them empty until peers answer. -/
def openGroup (t : Thread) (r : Nat) : List Word → Thread
  | [] => t
  | w :: ws =>
    let t := t.setReg r w
    openGroup { t with empty := Tab.set false t.empty r true } (r + 1) ws

/-- R352: a load of peers' memory: its group stays empty until they answer. -/
def awaitPeers (s : State) (c : Cx) (d : Opd) (ws : List Word) (fs : List Far) : State :=
  match d with
  | .g r => sendReads (s.modThr c fun t => openGroup t r.toNat ws) c r.toNat ws.length fs
  | .s _ | .p _ | .q _ | .j _ | .a _ | .tc _ | .z => sendReads s c 0 0 fs

/-! ### LD and ST (R215) -/

def opLd (h : Hdr) (d : Opd) (f : F2) : Op :=
  let n := width f.size
  plainOp (.ld h d f) h [⟨f.a, 2, f.ea⟩, ⟨f.b, 1, f.ea⟩] [(d, groupRegs n)] fun s c x =>
    let va := (ea2 f (x.getD 0 0) (x.getD 1 0).lo).toNat
    let ag := threadAgent s c
    let fin (s : State) : State × Next :=
      afterAccess (applyOrder (noteLoad s c ag f va) c f.order f.scope) c va n true false
    match loadAt s ag va n f.ty.toNat (f.hint != .noAllocate) with
    | (s, .ev e) => (s, .event e)
    | (s, .pressure) => (s, .stand .pressure)
    | (s, .absent) =>
      fin (wrLateP (landGroup s c d (List.replicate (groupRegs n) 0)) c f.resp.toNat true)
    | (s, .bytes bs) => fin (landGroup s c d (wordsOf n bs))
    | (s, .far bs fs) => fin (awaitPeers s c d (wordsOf n bs) fs)

/-- LD (R215). -/
def execLd (h : Hdr) (d : Opd) (f : F2) (s : State) : Host.Outcome State Fault Refusal :=
  guarded (issue (opLd h d f)) s

def opSt (h : Hdr) (d : Opd) (f : F2) : Op :=
  let n := width f.size
  { plainOp (.st h d f) h [⟨f.a, 2, f.ea⟩, ⟨f.b, 1, f.ea⟩, ⟨d, groupRegs n, f.ed⟩] [] fun s c x =>
      if ordReleases f.order && heldBy s c then (s, .stand (.retry .heldLine))
      else
        let va := (ea2 f (x.getD 0 0) (x.getD 1 0).lo).toNat
        let ag := actAgent s c
        let bs := bytesOf n (rdGroup s c d (groupRegs n))
        let fin (s : State) : State × Next :=
          afterAccess (applyOrder (noteHint s ag va n f.hint) c f.order f.scope) c va n false true
        match storeTo s ag va f.ty.toNat (f.hint != .noAllocate) true bs with
        | (s, .ev e) => (s, .event e)
        | (s, .pressure) => (s, .stand .pressure)
        | (s, .absent) => fin (wrLateP s c f.resp.toNat true)
        | (s, .done) => fin (progress s (c.grp.block s))
        | (s, .far fs) =>
          fin (progress (sendWrites s ag.vf (c.grp.block s) c.n bs fs) (c.grp.block s)) with
    ends := endsInterval f.order f.scope }

/-- ST (R215). -/
def execSt (h : Hdr) (d : Opd) (f : F2) (s : State) : Host.Outcome State Fault Refusal :=
  guarded (issueWake (opSt h d f)) s

/-! ### LDS and STS (R216) -/

/-- R193, R216, R432: the checks of a scratchpad address: alignment, then the declared size. -/
def scratchEv (s : State) (c : Cx) (a n : Nat) : Option Ev :=
  if a % n ≠ 0 then some { code := 0x108, arg := 0, addr := a, synd := n }
  else if scratchLen s c.grp < a + n then some { code := 0x112, arg := 0, addr := a, synd := c.grp.slot s }
  else none

/-- LDS (R216). -/
def execLds (h : Hdr) (d : Opd) (f : F2) (s : State) : Host.Outcome State Fault Refusal :=
  let n := width f.size
  let ea (x : List Dword) : Nat := (eaS f (x.getD 0 0).lo (x.getD 1 0).lo).toNat
  .next (issue { plainOp (.lds h d f) h [⟨f.a, 1, f.ea⟩, ⟨f.b, 1, f.ea⟩] [(d, groupRegs n)] fun s c x =>
    (applyOrder (landGroup s c d (wordsOf n (scratchRead s c.grp (ea x) n))) c f.order .block, .seq) with
    pre := fun s c x => scratchEv s c (ea x) n } s)

/-- STS (R216). -/
def execSts (h : Hdr) (d : Opd) (f : F2) (s : State) : Host.Outcome State Fault Refusal :=
  let n := width f.size
  let ea (x : List Dword) : Nat := (eaS f (x.getD 0 0).lo (x.getD 1 0).lo).toNat
  .next (issueWake { plainOp (.sts h d f) h [⟨f.a, 1, f.ea⟩, ⟨f.b, 1, f.ea⟩, ⟨d, groupRegs n, f.ed⟩] [] fun s c x =>
    if ordReleases f.order && heldBy s c then (s, .stand (.retry .heldLine))
    else (applyOrder (progress (scratchWrite s c.grp (ea x) (bytesOf n (rdGroup s c d (groupRegs n))))
      (c.grp.block s)) c f.order .block, .seq) with
    pre := fun s c x => scratchEv s c (ea x) n } s)

/-! ### LDQ and QFENCE (R51, R52, R218) -/

/-- R51: a queue is full when 16 of its entries have been filled and not been read past by every thread. -/
def queueFull (s : State) (g : Grp) (k q : Nat) : Bool :=
  let x := Tab.get Queue.none (s.sk g k).queues q
  let b := Grp.blk (g.block s)
  match s.liveSk b k with
  | [] => false
  | n :: r =>
    let pos (m : Nat) : Nat := Tab.get 0 (s.thr ⟨b, m⟩).qpos q
    pos n + r.foldl (fun m i => min m (pos i)) (pos n) - pos n + 16 ≤ x.filled

/-- The addresses of an LDQ's lanes, loaded in lane order, each relocated as its own lane's (R177): the entry so
far, whether a lane was not resident, and the lanes to be read of peers; or where the slice is left.
DEDUCED, unsafe (log 51). -/
def ldqLanes (s : State) (c : Cx) (f : F2) (a : Dword) (b : Word) : Nat → Nat → Tab Word → Bool →
    State × Except Next (Tab Word × Bool × List (Nat × Far))
  | 0, _, t, r => (s, .ok (t, r, []))
  | m + 1, lane, t, r =>
    let n := width f.size
    let va := (a + b.signExtend 64 * .ofNat 64 lane + f.off.signExtend 64).toNat
    let ag := { threadAgent s c with wid := some (wid s c + .ofNat 64 lane) }
    match loadAt s ag va n f.ty.toNat (f.hint != .noAllocate) with
    | (s, .ev e) => (s, .error (.event e))
    | (s, .pressure) => (s, .error (.stand .pressure))
    | (s, .absent) => ldqLanes s c f a b m (lane + 1) t true
    | (s, .bytes bs) =>
      ldqLanes (noteLoad s c ag f va) c f a b m (lane + 1) (Tab.put t lane (.ofNat 32 (ofBytes bs))) r
    | (s, .far bs fs) =>
      match ldqLanes s c f a b m (lane + 1) (Tab.put t lane (.ofNat 32 (ofBytes bs))) r with
      | (s, .ok (t, r, l)) => (s, .ok (t, r, (fs.map fun x => (lane, x)) ++ l))
      | x => x

/-- R352: lanes of an LDQ read of peers; the entry fills when the last has answered. `num` holds the
place and length in the lane, `reg` the lane and queue. -/
def sendLanes (s : State) (c : Cx) (q : Nat) : List (Nat × Far) → State
  | [] => s
  | (lane, f) :: r =>
    let w := s.win (c.grp.cslot s).vf f.win
    sendLanes (send s w.qpn (fun p => .read w.qpn p w.rkey (w.rbase + f.off) f.len)
      (fun p => { psn := p, blk := c.grp.name, num := farNum f 0, kind := 5, thr := c.n, reg := lane + 64 * q })) c q r

/-- LDQ (R218): a full queue, or lanes still to arrive, stall the slice. -/
def execLdq (h : Hdr) (qn : BitVec 3) (f : F2) (s : State) : Host.Outcome State Fault Refusal :=
  guarded (issue (plainOp (.ldq h qn f) h [⟨f.a, 2, f.ea⟩, ⟨f.b, 1, f.ea⟩] [] fun s c x =>
    let k := c.n / 64
    let q := qn.toNat
    if queueFull s c.grp k q then (s, .stand (.retry .lag))
    else
      match ldqLanes s c f (x.getD 0 0) (x.getD 1 0).lo (c.grp.launch s).e0 0 [] false with
      | (s, .error x) => (s, x)
      | (s, .ok (t, r, far)) =>
        let entry := t.filter fun e => e.2 != 0
        let s := s.modSk c.grp k fun y =>
          let z := Tab.get Queue.none y.queues q
          let z := { filled := if far = [] then z.filled + 1 else z.filled, data := Tab.put z.data z.filled entry }
          { y with queues := Tab.put y.queues q z }
        let s := if r && f.resp ≠ 0 then wrP s c f.resp.toNat true else s
        (applyOrder (sendLanes s c q far) c f.order f.scope, .seq))) s

/-- QFENCE (R52, R225). -/
def execQfence (h : Hdr) (d : Opd) (f : F2) (s : State) : Host.Outcome State Fault Refusal :=
  .next (issueWake (plainOp (.qfence h d f) h [] [] fun s c _ =>
    match c.grp with
    | .slice b k =>
      let s := s.modSk c.grp k fun y => { y with slice := { y.slice with qfences := y.slice.qfences + 1 } }
      (if fenceMet s b k then s
       else s.modSk c.grp k fun y => { y with slice := { y.slice with fenceWait := true } }, .seq)
    | .blk _ | .act _ => (s.modThr c fun t => { t with qfences := t.qfences + 1 }, .seq)) s)

/-! ### Hints (R191, R217) -/

/-- The line addresses of a span of 2^SIZE lines. -/
def spanLines (f : F2) (a : Dword) : List Nat :=
  let base := (a + f.off.signExtend 64).toNat / 128 * 128
  (List.range (width f.size)).map fun i => (base + 128 * i) % 2 ^ 64

/-- A line of a span as the thread's context translates it, if nothing forbids it: the stretches it is made of. -/
def spanPieces (s : State) (c : Cx) (va : Nat) : State × List Piece :=
  match resolve s { threadAgent s c with blk := none } Acc.read va 128 with
  | (s, .error _) => (s, [])
  | (s, .ok ps) => (s, if ps.any Piece.absent then [] else ps)

/-- The lines of a stretch, as location and physical address. -/
def pieceLines (p : Piece) : List (Nat × Nat) :=
  (lineCuts p.loc p.len).map fun x => (x.1 / 128 * 128, (p.pa + (x.1 - p.loc)) / 128 * 128)

/-- A stretch of memory of the wafer, of which caches hold copies. -/
def Piece.cached (p : Piece) : Bool := p.ro.isNone && !p.remote && decide (p.pa / 2 ^ 46 < 48)

/-- R217: what PREF, with `copies`, or RESIDE fetches of a line: an owned PREF ownership, an uncached one the home
field cache alone, the others a read copy at each level; RESIDE, and no-allocate, stop at L2. -/
def fetchCopies (s : State) (ag : Agent) (f : F2) (copies : Bool) (leaf : Dword) (x : Nat × Nat) : State :=
  let home := x.2 / 2 ^ 46
  let keep := copies && f.hint != .noAllocate
  if copies && f.ty == 3 then fillFcache s home x.1
  else if keep && f.ty == 0 && leafCc leaf != 0 then
    let cl := coreCluster ag.core
    let s := acquireLine (fillSlices s home x.1 cl none) cl x.1 home 0 none
    fitDirs (fillL0 (dropL0 s cl x.1 (some ag.core)) ag.core ag.slot x.1) (cl / 48) x.1 home
  else (readLine s ag 1 keep leaf x.1 x.2 128).1

/-- PREF or RESIDE of one line, which leaves the priority of its hint (R191). -/
def prefLine (s : State) (c : Cx) (f : F2) (copies : Bool) (va : Nat) : State :=
  let ag := { threadAgent s c with blk := none }
  match spanPieces s c va with
  | (s, []) => s.count ag.part (some ag.vf) (coreField ag.core) 0x42 1
  | (s, ps) =>
    ((ps.filter Piece.cached).flatMap fun p => (pieceLines p).map fun x => (p.leaf, x)).foldl (fun s e =>
      let s := fetchCopies s ag f copies e.1 e.2
      match hintPrio f.hint with
      | some n => setPrio s ag n e.2.1
      | none => s) s

def prefLines (s : State) (c : Cx) (f : F2) (copies : Bool) : List Nat → State
  | [] => s
  | va :: r => prefLines (prefLine s c f copies va) c f copies r

/-- PREF (R217). -/
def execPref (h : Hdr) (d : Opd) (f : F2) (s : State) : Host.Outcome State Fault Refusal :=
  guarded (issue (plainOp (.pref h d f) h [⟨f.a, 2, f.ea⟩] [] fun s c x =>
    (prefLines s c f true (spanLines f (x.getD 0 0)), .seq))) s

/-- RESIDE (R217): never to the cluster cache. -/
def execReside (h : Hdr) (d : Opd) (f : F2) (s : State) : Host.Outcome State Fault Refusal :=
  guarded (issue (plainOp (.reside h d f) h [⟨f.a, 2, f.ea⟩] [] fun s c x =>
    (prefLines s c f false (spanLines f (x.getD 0 0)), .seq))) s

/-! ### Fences and cache maintenance (R224, R226) -/

/-- A fence waits for what precedes it (R224, R334), whatever its order. -/
def opFence (h : Hdr) (d : Opd) (f : F2) : Op :=
  { plainOp (.fence h d f) h [] [] fun s c _ =>
      if heldBy s c then (s, .stand (.retry .heldLine))
      else (applyOrder s c f.order f.scope, .seq) with
    ends := f.scope != .block }

/-- FENCE (R224). -/
def execFence (h : Hdr) (d : Opd) (f : F2) (s : State) : Host.Outcome State Fault Refusal :=
  .next (issue (opFence h d f) s)

/-- R226: marks the provisional bytes of a line to be written through at the commit. -/
def markLine (s : State) (blk : Option Nat) (loc : Nat) : State :=
  match blk with
  | none => s
  | some b =>
    let k := s.blk b
    if (provLines k.prov).contains (loc / 128) && !k.marked.contains (loc / 128) then
      s.modBlk b fun k => { k with marked := k.marked ++ [loc / 128] } else s

/-- R226: the copies of a line of class 1 or 2 held for a core are written back, and dropped by a CINV; L2 copies of
its own field go only of a line homed elsewhere. -/
def maintainCopies (s : State) (cl home loc : Nat) (drop : Bool) : State :=
  let x := s.copyAt cl loc
  if drop then
    let s := if ownerOf s home loc = some cl then clearOwner s home loc else s
    let s := s.dropCline (4 * cl) loc
    if cl / 48 = home then s else keepL2 s fun k => !(k % 2 ^ 64 == loc / 128 && k / 2 ^ 64 / 24 == cl / 48)
  else if x.st = 2 then s.setCopy cl loc { x with st := 1, dirty := 0 } else s

/-- One line of a CWB or CINV (R226). A CINV writes back as a CWB does, so it marks provisional bytes too.
DEDUCED, safe (log 110). -/
def maintainLine (s : State) (c : Cx) (drop : Bool) (leaf : Dword) (x : Nat × Nat) : State × Option Ev :=
  let ag := threadAgent s c
  let cl := coreCluster ag.core
  if leafCc leaf ≠ 0 then (maintainCopies s cl (x.2 / 2 ^ 46) x.1 drop, none)
  else
    match writeBack (markLine s ag.blk x.1) (ag.writer true) cl x.1 x.2 (leafMk leaf) drop with
    | (s, some e) => (s, some e)
    | (s, none) => (if drop then dropNear s x.1 cl else s, none)

def maintainAll (s : State) (c : Cx) (drop : Bool) : List (Dword × Nat × Nat) → State × Option Ev
  | [] => (s, none)
  | e :: r =>
    match maintainLine s c drop e.1 e.2 with
    | (s, some e) => (s, some e)
    | (s, none) => maintainAll s c drop r

/-- The lines of a span; one that is not there, or not open to the thread, is skipped. -/
def maintain (s : State) (c : Cx) (drop : Bool) : List Nat → State × Option Ev
  | [] => (s, none)
  | va :: r =>
    let (s, ps) := spanPieces s c va
    match maintainAll s c drop ((ps.filter Piece.cached).flatMap fun p => (pieceLines p).map fun x => (p.leaf, x)) with
    | (s, some e) => (s, some e)
    | (s, none) => maintain s c drop r

def maintainOp (i : Instr) (h : Hdr) (f : F2) (drop : Bool) : Op :=
  plainOp i h [⟨f.a, 2, f.ea⟩] [] fun s c x =>
    match maintain s c drop (spanLines f (x.getD 0 0)) with
    | (s, some e) => (s, .event e)
    | (s, none) => (s, .seq)

/-- CINV (R226). -/
def execCinv (h : Hdr) (d : Opd) (f : F2) (s : State) : Host.Outcome State Fault Refusal :=
  guarded (issue (maintainOp (.cinv h d f) h f true)) s

/-- CWB (R226). -/
def execCwb (h : Hdr) (d : Opd) (f : F2) (s : State) : Host.Outcome State Fault Refusal :=
  guarded (issue (maintainOp (.cwb h d f) h f false)) s

end Sys2Proof.Machine
end

