-- ==== Sys2Proof/Machine/Tiles.lean ====
section
/-! DEFINITION. Tensor identifiers (R239 to R241), the tile instructions and what each asks of a tile's
state (R242 to R245). -/

namespace Sys2Proof.Machine

open Sys2Proof

/-! ### The fields of a tensor identifier entry (R239) -/

/-- Bits lo to lo + n − 1 from a byte offset of an entry. -/
def tdBits (d : BitVec 512) (byte lo n : Nat) : Nat := d.toNat / 2 ^ (8 * byte + lo) % 2 ^ n

def tdBase (d : BitVec 512) : Nat := tdBits d 0 0 57
def tdRank (d : BitVec 512) : Nat := tdBits d 0 57 3
def tdFmt (d : BitVec 512) : Nat := tdBits d 0 60 4
def tdElem (d : BitVec 512) : Elem := Elem.ofCode (tdFmt d)
def tdExt (d : BitVec 512) (i : Nat) : Nat := tdBits d (8 + 4 * i) 0 32
/-- Byte stride of dimension i; dimension 0 has none. -/
def tdStr (d : BitVec 512) (i : Nat) : Nat := if i = 0 then 0 else tdBits d (0x1C + 5 * (i - 1)) 0 40
def tdSbase (d : BitVec 512) : Nat := tdBits d 0x30 0 57
def tdScl (d : BitVec 512) : Nat := tdBits d 0x30 57 3
def tdPad (d : BitVec 512) : Nat := tdBits d 0x38 0 32
def tdFltH (d : BitVec 512) : Nat := tdBits d 0x3C 0 4
def tdFltW (d : BitVec 512) : Nat := tdBits d 0x3C 4 4
def tdSH (d : BitVec 512) : Nat := tdBits d 0x3C 8 3
def tdSW (d : BitVec 512) : Nat := tdBits d 0x3C 11 3
def tdDH (d : BitVec 512) : Nat := tdBits d 0x3C 14 3
def tdDW (d : BitVec 512) : Nat := tdBits d 0x3C 17 3
def tdPH (d : BitVec 512) : Nat := tdBits d 0x3C 20 4
def tdPW (d : BitVec 512) : Nat := tdBits d 0x3C 24 4
def tdSwz (d : BitVec 512) : Nat := tdBits d 0x3C 28 2
def tdConv (d : BitVec 512) : Bool := tdBits d 0x3C 30 1 == 1

/-- R240: the output geometry of a convolution. -/
def tdOH (d : BitVec 512) : Int :=
  ((tdExt d 2 : Int) + 2 * tdPH d - (tdDH d + 1) * tdFltH d - 1) / ((tdSH d + 1 : Nat) : Int) + 1
def tdOW (d : BitVec 512) : Int :=
  ((tdExt d 1 : Int) + 2 * tdPW d - (tdDW d + 1) * tdFltW d - 1) / ((tdSW d + 1 : Nat) : Int) + 1

/-- R239: elements that share a scale, 0 when there is none. -/
def tdGroup (d : BitVec 512) : Nat :=
  match tdScl d with
  | 1 | 2 => 32
  | 3 => 128
  | _ => 0

/-- R240: the code XDEF writes for an entry. -/
def xdefCode (d : BitVec 512) : Nat :=
  let f := tdFmt d
  let scl := tdScl d
  let sclOk := scl = 0 ∨ (scl = 1 ∧ (f = 8 ∨ f = 9 ∨ f = 10)) ∨ ((scl = 2 ∨ scl = 3) ∧ (f = 12 ∨ f = 13))
  if f = 15 ∨ ¬ sclOk then 1
  else
    let r := tdRank d
    if r < 1 ∨ 5 < r ∨ ((List.range 5).any fun i => (tdExt d i == 0) == decide (i < r)) = true ∨
        ((List.range 5).any fun i => decide (r ≤ i) && tdStr d i != 0) = true then 2
    else
      let size := if (tdElem d).bits < 8 then 4 else (tdElem d).bits / 8
      if tdBase d % size ≠ 0 ∨ ((List.range 5).any fun i => tdStr d i % size != 0) = true ∨ tdSbase d % 4 ≠ 0 then 3
      else if tdConv d && (r != 4 || decide (tdOH d < 1) || decide (tdOW d < 1)) then 4
      else if !tdConv d && tdBits d 0x3C 0 28 != 0 then 4
      else if tdBits d 0x30 60 4 ≠ 0 ∨ tdBits d 0x3C 31 1 ≠ 0 then 5
      else 0

def Body.tid (y : Body) (x : Nat) : Tid := Tab.get Tid.none y.tids x

/-! ### XDEF and XREAD (R241) -/

/-- XDEF (R241). -/
def execXdef (h : Hdr) (d a : Opd) (x : BitVec 8) (s : State) : Host.Outcome State Fault Refusal :=
  .next (issue { plainOp (.xdef h d a x) h [⟨a, 1, false⟩] [(d, 1)] fun s c v =>
    let img : BitVec 512 := .ofNat 512 (ofBytes (scratchRead s c.grp (v.getD 0 0).toNat 64))
    let code := xdefCode img
    let s := s.modBody (c.grp.block s) fun y =>
      { y with tids := Tab.put y.tids x.toNat { img := img, valid := code == 0, code := code } }
    (wr32 s c d (.ofNat 32 code), .seq) with
    xids := [x.toNat], noAct := true, pre := fun s c v => scratchEv s c (v.getD 0 0).toNat 64 } s)

/-- XREAD (R241). -/
def execXread (h : Hdr) (a : Opd) (x : BitVec 8) (s : State) : Host.Outcome State Fault Refusal :=
  .next (issueWake { plainOp (.xread h a x) h [⟨a, 1, false⟩] [] fun s c v =>
    let img := ((s.blk (c.grp.block s)).body.tid x.toNat).img
    (progress (scratchWrite s c.grp (v.getD 0 0).toNat (toBytes 64 img.toNat)) (c.grp.block s), .seq) with
    xids := [x.toNat], noAct := true, pre := fun s c v => scratchEv s c (v.getD 0 0).toNat 64 } s)

/-! ### What an instruction asks of a tile (R244, R268) -/

inductive TileNeed where
  | fill | use | drain | free
  deriving DecidableEq, Repr

inductive TileAsk where
  | go | wait | trap
  deriving DecidableEq, Repr

/-- R244; `drain` is a TSTORE without KEEP, which waits for the tile's readers (R268). DEDUCED, unsafe (log 49). -/
def tileAsk (x : Tile) (n : TileNeed) : TileAsk :=
  match x.st, n with
  | .empty, .fill => .go
  | .empty, .use | .empty, .drain | .empty, .free => .trap
  | .filling, .fill => .trap
  | .filling, .use | .filling, .drain => if x.rx then .trap else .wait
  | .filling, .free => if x.rx then .go else .wait
  | .ready, .fill => .trap
  | .ready, .use => .go
  | .ready, .drain | .ready, .free => if x.readers = 0 then .go else .wait
  | .draining, .fill | .draining, .use | .draining, .drain | .draining, .free => .wait

def tileCode : TileState → Nat
  | .empty => 0
  | .filling => 1
  | .ready => 2
  | .draining => 3

def tileEv (t : Nat) (x : Tile) : Ev := { code := 0x105, arg := 0, addr := 0, synd := t + 256 * tileCode x.st }

/-- The tile state trap of an instruction that names tiles, the first in order. -/
def tilesEv (s : State) (c : Cx) (l : List (Nat × TileNeed)) : Option Ev :=
  let y := (s.blk (c.grp.block s)).body
  match l.find? fun e => tileAsk (y.tile e.1) e.2 != .go with
  | some (t, n) => if tileAsk (y.tile t) n = .trap then some (tileEv t (y.tile t)) else none
  | none => none

/-- The wait of an instruction for a tile, in the state it finds it in. -/
def tilesWait (s : State) (c : Cx) (l : List (Nat × TileNeed)) : Option Retry :=
  let y := (s.blk (c.grp.block s)).body
  (l.find? fun e => tileAsk (y.tile e.1) e.2 == .wait).map fun e => .tile e.1 (y.tile e.1).st

/-- Checks that come after a tile's state: they wait with the thread. -/
def afterTiles (s : State) (c : Cx) (l : List (Nat × TileNeed)) (e : Option Ev) : Option Ev :=
  match tilesEv s c l with
  | some e => some e
  | none => if (tilesWait s c l).isSome then none else e

/-! ### TALLOC, TFREE and TSTAT (R243, R245) -/

def shuttleEv (cond : Nat) : Ev := { code := 0x115, arg := 0, addr := 0, synd := cond }

/-- R242, R434: the geometry of a TALLOC. -/
def tallocEv (s : State) (c : Cx) (base geo : Nat) : Option Ev :=
  let rows := geo % 2 ^ 16
  let pitch := geo / 2 ^ 16
  if rows = 0 ∨ 8192 < rows ∨ pitch % 32 ≠ 0 ∨ pitch < 32 ∨ 65504 < pitch ∨ base % 64 ≠ 0 then some (shuttleEv 8)
  else if scratchLen s c.grp < base + rows * pitch then
    some { code := 0x112, arg := 0, addr := base, synd := c.grp.slot s }
  else none

/-- TALLOC (R243, R245). -/
def execTalloc (h : Hdr) (mode : AllocMode) (a b : Opd) (t : BitVec 6) (s : State) : Host.Outcome State Fault Refusal :=
  let n := t.toNat
  .next (issueWake { plainOp (.talloc h mode a b t) h [⟨a, 1, false⟩, ⟨b, 1, false⟩] [] fun s c v =>
    match tilesWait s c [(n, .fill)] with
    | some u => (s, .stand (.retry u))
    | none =>
      let geo := (v.getD 1 0).toNat
      let now := s.now
      (s.modBody (c.grp.block s) fun y => y.modTile n fun x =>
        let x := { x with base := (v.getD 0 0).toNat / 64, rows := geo % 2 ^ 16, pitch := geo / 2 ^ 16 }
        match mode with
        | .plain => x
        | .rdy => stampReady now none { x with st := .ready, vrows := x.rows, stamp := { x.stamp with fills := some now } }
        | .rx => { x with st := .filling, rx := true, taken := false }, .seq) with
    tiles := [n], noAct := true
    pre := fun s c v => afterTiles s c [(n, .fill)] (tallocEv s c (v.getD 0 0).toNat (v.getD 1 0).toNat) } s)

/-- TFREE (R243). -/
def execTfree (h : Hdr) (t : BitVec 6) (s : State) : Host.Outcome State Fault Refusal :=
  let n := t.toNat
  guarded (issueWake { plainOp (.tfree h t) h [] [] fun s c _ =>
    match tilesWait s c [(n, .free)] with
    | some u => (s, .stand (.retry u))
    | none => (s.retireTile (c.grp.block s) n true true, .seq) with
    tiles := [n], noAct := true, pre := fun s c _ => tilesEv s c [(n, .free)] }) s

/-- R242: word 0 of a tile, with the number of its stamp accumulator. -/
def tileWord0 (x : Tile) (stamp : Nat) : Nat :=
  tileCode x.st + 4 * x.rx.toNat + 8 * x.swz + 2 ^ 8 * x.gen + 2 ^ 16 * x.vrows + 2 ^ 32 * x.base + 2 ^ 48 * stamp

def tileWord1 (x : Tile) : Nat := x.rows + 2 ^ 16 * x.pitch

/-- R245: what TSTAT reads. -/
def tstatValue (s : State) (c : Cx) (sel obj : Nat) : Nat :=
  let y := (s.blk (c.grp.block s)).body
  match sel with
  | 0 => tileWord0 (y.tile obj) ((c.grp.cslot s).ttBase + obj)
  | 1 => tileWord1 (y.tile obj)
  | 2 =>
    let x := Tab.get CtxStat.none y.ctxStat obj
    (if obj < 4 then x.refused % 2 ^ 32 else 0) + 2 ^ 32 * x.status
  | _ => (y.tid obj).valid.toNat + 256 * (y.tid obj).code

/-- TSTAT (R245). -/
def execTstat (h : Hdr) (d : Opd) (sel : BitVec 2) (obj : BitVec 8) (s : State) : Host.Outcome State Fault Refusal :=
  let o := obj.toNat
  .next (issue { plainOp (.tstat h d sel obj) h [] [(d, 2)] fun s c _ =>
    (wr64 s c d (.ofNat 64 (tstatValue s c sel.toNat o)), .seq) with
    tiles := if sel.toNat < 2 then [o] else [], tcs := if sel = 2 then [o] else []
    xids := if sel = 3 then [o] else [], noAct := true } s)

end Sys2Proof.Machine
end

