-- ==== Sys2Proof/Machine/Shuttle.lean ====
section
/-! DEFINITION. The shuttle: boxes and their elements (R247 to R251), the shuttle commands and their
landings (R246 to R253), multicasts (R252), and the transaction barrier instructions (R255 to R257). -/

namespace Sys2Proof.Machine

open Sys2Proof

/-! ### Boxes (R247) -/

/-- The region group: coordinates and box extents. -/
def regionOf (w : List Word) : Region :=
  let half (i k : Nat) : Nat := (w.getD i 0).toNat / 2 ^ (16 * k) % 2 ^ 16
  let one (n : Nat) : Nat := if n = 0 then 1 else n
  { c := (w.take 5).map (·.toInt), b := [half 5 0, one (half 5 1), one (half 6 0), one (half 6 1), one (half 7 0)] }

def Region.box (r : Region) (i : Nat) : Nat := r.b.getD i 1
def Region.at (r : Region) (i : Nat) : Int := r.c.getD i 0

/-- Rows of a box; a gather or convolution has those of dimension 1. -/
def boxRows (r : Region) : Nat := r.box 1 * r.box 2 * r.box 3 * r.box 4

/-- R247: bytes of a box row. -/
def rowBytes (bits bx0 : Nat) : Nat := if bits = 3 then 4 * bx0 / 10 else bx0 * bits / 8

def wholeBytes (bits bx0 : Nat) : Bool := if bits = 3 then bx0 % 10 == 0 else bx0 * bits % 8 == 0

def sectorsOf (n : Nat) : Nat := (n + 31) / 32

/-- Elements of a row in one 32-byte sector, and the bit of each within it (R106). -/
def perSector (bits : Nat) : Nat := if bits = 3 then 80 else 256 / bits
def elemBit (bits i : Nat) : Nat := if bits = 3 then 32 * (i / 10) + 3 * (i % 10) else bits * i

/-- The numbers of a row's elements that stand in sector k. -/
def sectorElems (bits bx0 k : Nat) : List Nat :=
  (List.range (perSector bits)).filterMap fun i => if k * perSector bits + i < bx0 then some (k * perSector bits + i) else none

/-- R248: dimension i of the coordinates lies in its extent. -/
def inExtent (d : BitVec 512) (i : Nat) (x : Int) : Bool :=
  0 ≤ x && decide (x < ((if i < tdRank d then tdExt d i else 1 : Nat) : Int))

def inExtents (d : BitVec 512) (lo : Nat) (c : List Int) : Bool :=
  (List.range 5).all fun i => i < lo || inExtent d i (c.getD i 0)

/-- R248: coordinates of dimensions 1 to 4 of row m of a plain box, below a 0 for dimension 0. -/
def plainRow (r : Region) (m : Nat) : List Int :=
  [0, r.at 1 + (m % r.box 1 : Nat), r.at 2 + (m / r.box 1 % r.box 2 : Nat),
    r.at 3 + (m / (r.box 1 * r.box 2) % r.box 3 : Nat), r.at 4 + (m / (r.box 1 * r.box 2 * r.box 3) : Nat)]

def setFirst (x : Int) : List Int → List Int
  | [] => [x]
  | _ :: r => x :: r

/-- R249: the coordinates of element j of row m of a convolution box, if it reads memory. -/
def convCoords (d : BitVec 512) (r : Region) (m j : Nat) : Option (List Int) :=
  let p := r.at 1 + m
  let oh := p / tdOW d % tdOH d
  let ow := p % tdOW d
  let n := p / (tdOW d * tdOH d)
  let k := r.at 0 + j
  let e0 : Int := tdExt d 0
  let cols : Int := tdFltW d + 1
  let fh := k / (e0 * cols)
  let y := oh * (tdSH d + 1) - tdPH d + fh * (tdDH d + 1)
  let x := ow * (tdSW d + 1) - tdPW d + k / e0 % cols * (tdDW d + 1)
  if k < 0 ∨ p < 0 ∨ (tdExt d 3 : Int) ≤ n ∨ (tdFltH d : Int) < fh ∨ y < 0 ∨ (tdExt d 2 : Int) ≤ y ∨ x < 0 ∨
      (tdExt d 1 : Int) ≤ x then none
  else some [k % e0, x, y, n, 0]

/-- R248, R249: the coordinates of element j of row m, if it reads memory. -/
def elemCoords (d : BitVec 512) (mode : LoadMode) (r : Region) (idx : List Word) (m j : Nat) : Option (List Int) :=
  match mode with
  | .plain =>
    let c := setFirst (r.at 0 + j) (plainRow r m)
    if inExtents d 0 c then some c else none
  | .gather =>
    match idx[m]? with
    | none => none
    | some w =>
      let c : List Int := [r.at 0 + j, (w.toNat : Int), r.at 2, r.at 3, r.at 4]
      if inExtents d 0 c then some c else none
  | .conv => convCoords d r m j

/-- A row that counts toward VROWS. -/
def rowValid (d : BitVec 512) (mode : LoadMode) (r : Region) (idx : List Word) (m : Nat) : Bool :=
  match mode with
  | .plain => inExtents d 1 (plainRow r m)
  | .gather =>
    match idx[m]? with
    | none => false
    | some w => inExtents d 1 [0, (w.toNat : Int), r.at 2, r.at 3, r.at 4]
  | .conv =>
    let p := r.at 1 + m
    0 ≤ p && decide (p / (tdOW d * tdOH d) < (tdExt d 3 : Int))

def validRows (d : BitVec 512) (mode : LoadMode) (r : Region) (idx : List Word) : Nat :=
  ((List.range (boxRows r)).filter (rowValid d mode r idx)).length

/-- The address of the unit of memory that holds an element, its bytes, and the element's bit in it. -/
def elemPlace (d : BitVec 512) (c : List Int) : Nat × Nat × Nat :=
  let bits := (tdElem d).bits
  let x := (c.getD 0 0).toNat
  let row := ((List.range 4).map fun i => (c.getD (i + 1) 0).toNat * tdStr d (i + 1)).sum
  let at_ (o : Nat) : Nat := (tdBase d + row + o) % 2 ^ 64
  if bits = 3 then (at_ (4 * (x / 10)), 4, 3 * (x % 10))
  else if bits = 4 then (at_ (x / 2), 1, 4 * (x % 2))
  else (at_ (x * (bits / 8)), bits / 8, 0)

/-- Reads the elements of a list of coordinates; an absent one is PAD. -/
def readElems (s : State) (b : Nat) (x : Cmd) (d : BitVec 512) : List (Option (List Int)) → State × ERes (List Nat)
  | [] => (s, .ok [])
  | none :: r =>
    match readElems s b x d r with
    | (s, .ok l) => (s, .ok (tdPad d % 2 ^ (tdElem d).bits :: l))
    | y => y
  | some c :: r =>
    let (va, n, bit) := elemPlace d c
    match engineRead s b x va n with
    | (s, .wait) => (s, .wait)
    | (s, .fault e) => (s, .fault e)
    | (s, .ok bs) =>
      match readElems s b x d r with
      | (s, .ok l) => (s, .ok (ofBytes bs / 2 ^ bit % 2 ^ (tdElem d).bits :: l))
      | y => y

/-- The bytes of a sector from its elements. -/
def packSector (bits n : Nat) (l : List Nat) : List Byte :=
  toBytes n (((List.range l.length).map fun i => l.getD i 0 * 2 ^ elemBit bits i).sum)

/-- Reads sector k of row m of a box. -/
def readSector (s : State) (b : Nat) (x : Cmd) (d : BitVec 512) (mode : LoadMode) (r : Region) (idx : List Word)
    (m k : Nat) : State × ERes (List Byte) :=
  let bits := (tdElem d).bits
  match readElems s b x d ((sectorElems bits (r.box 0) k).map fun j => elemCoords d mode r idx m j) with
  | (s, .ok l) => (s, .ok (packSector bits (min 32 (rowBytes bits (r.box 0) - 32 * k)) l))
  | (s, .wait) => (s, .wait)
  | (s, .fault e) => (s, .fault e)

/-- R250: writes the elements of one sector that lie within the extents. -/
def writeElems (s : State) (b : Nat) (x : Cmd) (d : BitVec 512) : List (List Int × Nat) → State × ERes Unit
  | [] => (s, .ok ())
  | (c, v) :: r =>
    if !inExtents d 0 c then writeElems s b x d r
    else
      let (va, n, bit) := elemPlace d c
      let bits := (tdElem d).bits
      let old := if bits < 8 then engineRead s b x va n else (s, .ok [])
      match old with
      | (s, .wait) => (s, .wait)
      | (s, .fault e) => (s, .fault e)
      | (s, .ok bs) =>
        let w := ofBytes bs
        let w := if bits = 3 then w % 2 ^ 30 else w
        let w := if bits < 8 then w - w / 2 ^ bit % 2 ^ bits * 2 ^ bit + v * 2 ^ bit else v
        match engineWrite s b x va (toBytes n w) with
        | (s, .ok _) => writeElems s b x d r
        | y => y

/-! ### Buffers (R260) -/

/-- Data and scale row pitch of buffer n (ba0 to ba3, then bw0 to bw3) for a fill of some rows. -/
def bufPitch (n rows : Nat) : Nat := if n < 4 then 256 else if rows ≤ 64 then 512 else 128
def scalePitch (n : Nat) : Nat := if n < 4 then 32 else 64
def bufData (n : Nat) : Nat := 2 ^ 16 * n
def bufScale (n : Nat) : Nat := 2 ^ 16 * n + 2 ^ 15 + 2 ^ 12

/-! ### A box as an instruction gives it (R427, R434) -/

/-- The shuttle command fault of a box for a tile, the lowest condition; `conv` is a gather or
convolution. -/
def tileBoxEv (x : Tile) (d : BitVec 512) (r : Region) (swz : Nat) (conv : Bool) : Option Ev :=
  let bits := (tdElem d).bits
  if !wholeBytes bits (r.box 0) then some (shuttleEv 1)
  else if x.pitch < rowBytes bits (r.box 0) ∨ x.rows < boxRows r then some (shuttleEv 2)
  else if x.pitch % (32 * 2 ^ swz) ≠ 0 then some (shuttleEv 3)
  else if conv && (r.box 2 != 1 || r.box 3 != 1 || r.box 4 != 1) then some (shuttleEv 4)
  else none

/-- R251: scale bytes of a row. -/
def scaleBytes (d : BitVec 512) (bx0 : Nat) : Nat :=
  if tdGroup d = 0 then 0 else 4 * ((bx0 / tdGroup d + 2) / 3)

/-- R251, R267: the fault of a box for a buffer. -/
def bufBoxEv (n : Nat) (d : BitVec 512) (r : Region) : Option Ev :=
  let bits := (tdElem d).bits
  let rb := rowBytes bits (r.box 0)
  let g := tdGroup d
  if !wholeBytes bits (r.box 0) then some (shuttleEv 1)
  else if g ≠ 0 ∧ (r.at 0 % (g : Int) ≠ 0 ∨ r.box 0 % g ≠ 0) then some (shuttleEv 5)
  else
    let rows := boxRows r
    let ok := if n < 4 then rows ≤ 64 && rb ≤ 256 && scaleBytes d (r.box 0) ≤ 32
      else if rows ≤ 64 then rb ≤ 512 && scaleBytes d (r.box 0) ≤ 64
      else rows ≤ 256 && rb ≤ 128 && tdScl d == 0
    if ok then none else some (shuttleEv 6)

/-- R47: only the producer skein issues shuttle commands. -/
def producerEv (s : State) (c : Cx) : Option Ev :=
  if c.skein = (c.grp.launch s).prod then none else some { code := 0x104, arg := 0, addr := 0, synd := c.skein }

def engineEv (cond addr : Nat) : Ev := { code := 0x116, arg := 0, addr := addr, synd := cond }

/-- R259: the block holds the matrix engine. -/
def holdsEngine (s : State) (c : Cx) : Bool := (c.grp.launch s).matx

/-- DESCRIPTOR, conditions 1 and 2. DEDUCED, unsafe (log 50). -/
def tidEv (y : Body) (x : Nat) (conv : Bool) : Option Ev :=
  if !(y.tid x).valid then some { code := 0x114, arg := 0, addr := x, synd := 1 }
  else if conv && !tdConv (y.tid x).img then some { code := 0x114, arg := 0, addr := x, synd := 2 }
  else none

/-- The barrier operand: none for z. -/
def barOf (c : Opd) (v : Dword) : Option Nat := if c = .z then none else some v.lo.toNat

/-- Alignment and bounds of the barrier operand. -/
def barEv (s : State) (cx : Cx) (bar : Option Nat) : Option Ev := bar.bind fun a => scratchEv s cx a 16

/-- The first event of a list of checks. -/
def firstEv : List (Option Ev) → Option Ev
  | [] => none
  | some e :: _ => some e
  | none :: r => firstEv r

/-! ### TLOAD, TSTORE, TLOADB, TMCAST (R246 to R252) -/

/-- R243: what a command's end does to its tile. -/
def endTile (s : State) (b : Nat) (x : Cmd) (status : Nat) : State :=
  match x.kind with
  | .tload _ t _ _ _ _ =>
    if status = 2 then
      let now := s.now
      s.modEngine b x.fresh fun y => y.modTile t fun z => stampReady now none { z with st := .ready, vrows := 0 }
    else s
  | .tstore keep t _ _ =>
    let now := s.now
    let s := s.modEngine b x.fresh fun y => y.modTile t fun z =>
      { z with st := .ready, stamp := { z.stamp with drne := some now } }
    if keep then s else s.retireTile b t false x.fresh
  | .tmcast t _ _ _ _ =>
    if status = 2 then
      let now := s.now
      x.mc.foldl (fun s e => match e.gen with
        | some g => if !e.refused && ((s.blk e.blk).body.tile t).rx && ((s.blk e.blk).body.tile t).gen == g then
            s.modBody e.blk fun y => y.modTile t fun z => stampReady now none { z with st := .ready, rx := false, vrows := 0 } else s
        | none => s) s
    else s
  | .tloadb _ _ _ _ | .rsum _ _ _ _ | .mma _ _ _ _ | .mzero _ | .mprom _ | .mlda _ _ _ | .mldb _ _ _
  | .msta _ _ _ _ _ _ _ _ _ | .mread _ _ _ | .mwrite _ _ _ | .fetchpg _ _ _ | .put _ _ _ _ _ _ | .get _ _ _ _ _
  | .postc _ _ _ => s

/-- The tile of a destination takes a box of this geometry; it refuses one that it cannot hold.
DEDUCED, unsafe (log 112). -/
def mcFits (z : Tile) (d : BitVec 512) (r : Region) : Bool :=
  rowBytes (tdElem d).bits (r.box 0) ≤ z.pitch && boxRows r ≤ z.rows && z.pitch % (32 * 2 ^ tdSwz d) == 0

/-- R247: a fill that moves nothing leaves its target tile, and those that a multicast finds armed, READY with
VROWS 0. -/
def emptyFill (s : State) (b : Nat) (x : Cmd) : State :=
  let now := s.now
  let ready (z : Tile) : Tile := stampReady now none { z with st := .ready, rx := false, vrows := 0 }
  match x.kind with
  | .tload _ t _ r _ _ => if r.box 0 = 0 then s.modEngine b x.fresh fun y => y.modTile t ready else s
  | .tmcast t d r _ _ =>
    if r.box 0 ≠ 0 then s
    else x.mc.foldl (fun s e =>
      let k := s.blk e.blk
      if k.st == .resident && (k.body.tile t).armed && mcFits (k.body.tile t) d r then
        s.modBody e.blk fun y => y.modTile t fun z => { ready z with swz := tdSwz d } else s) s
  | _ => s

/-- The end of a shuttle command all of whose landings have been performed. -/
def endShuttle (s : State) (b : Nat) (x : Cmd) : State :=
  finishCmd (endTile (emptyFill s b x) b x 0) b x (if x.mc.any (·.refused) then 1 else 0)

/-- Issues a shuttle command of n landings: its number to D; one that moves nothing completes at once (R247), but
for what `hold` keeps until the next commit. -/
def issueShuttle (s : State) (c : Cx) (d : Opd) (tc : Nat) (k : CmdKind) (nt : Bool) (n : Nat) (hold : Bool) (mc : List McDest) :
    State × Next :=
  let (s, num) := issueCmdWith s c tc k nt (List.range (if mc = [] then n else 0)) hold fun y => { y with mc := mc }
  let b := c.grp.block s
  let s := match (if n = 0 ∧ !hold then (s.blk b).body.cmds.getLast? else none) with
    | some x => endShuttle s b x
    | none => s
  numberTo (s, num) c d

/-- The words of a gather's index tile (R248). -/
def indexWords (y : Body) (x : Tile) : List Word :=
  (List.range x.rows).flatMap fun m => (List.range (x.pitch / 4)).map fun j =>
    .ofNat 32 (ofBytes (Tab.getRun 0 y.scratch (tileSector x m (j / 8) + 4 * (j % 8)) 4))

/-- A tile that a command begins to fill. -/
def beginFill (now swz : Nat) (x : Tile) : Tile :=
  { x with st := .filling, rx := false, swz := swz, stamp := { x.stamp with fills := some now } }

/-- TLOAD (R247 to R249). -/
def execTload (h : Hdr) (nt : Bool) (mode : LoadMode) (d a c : Opd) (t : BitVec 6) (x : BitVec 8) (idx : BitVec 6)
    (ctx : BitVec 2) (s : State) : Host.Outcome State Fault Refusal :=
  let n := t.toNat
  let need : List (Nat × TileNeed) := [(n, .fill)] ++ if mode = .gather then [(idx.toNat, .use)] else []
  .next (issueWake { plainOp (.tload h nt mode d a c t x idx ctx) h [⟨a, 8, false⟩, ⟨c, 1, false⟩] [(d, 2)] fun s cx v =>
    match tilesWait s cx need with
    | some u => (s, .stand (.retry u))
    | none =>
      match cmdWait s cx ctx.toNat with
      | some w => (s, .stand w)
      | none =>
        let b := cx.grp.block s
        let y := (s.blk b).body
        let img := (y.tid x.toNat).img
        let r := regionOf (rdGroup s cx a 8)
        let words := if mode = .gather then indexWords y (y.tile idx.toNat) else []
        let now := s.now
        let s := s.modBody b fun y => y.modTile n (beginFill now (tdSwz img))
        issueShuttle s cx d ctx.toNat (.tload mode n img r (barOf c (v.getD 1 0)) words) nt
          (boxRows r * sectorsOf (rowBytes (tdElem img).bits (r.box 0))) false [] with
    tiles := n :: (if mode = .gather then [idx.toNat] else []), xids := [x.toNat], tcs := [ctx.toNat], noAct := true
    pre := fun s cx v =>
      let y := (s.blk (cx.grp.block s)).body
      let img := (y.tid x.toNat).img
      match producerEv s cx with
      | some e => some e
      | none => afterTiles s cx need (firstEv [tidEv y x.toNat (mode == .conv), barEv s cx (barOf c (v.getD 1 0)),
          tileBoxEv (y.tile n) img (regionOf (rdGroup s cx a 8)) (tdSwz img) (mode != .plain)]) } s)

/-- TSTORE (R250). -/
def execTstore (h : Hdr) (nt keep : Bool) (d a : Opd) (t : BitVec 6) (x : BitVec 8) (ctx : BitVec 2) (s : State) :
    Host.Outcome State Fault Refusal :=
  let n := t.toNat
  let need : List (Nat × TileNeed) := [(n, if keep then .use else .drain)]
  .next (issueWake { plainOp (.tstore h nt keep d a t x ctx) h [⟨a, 8, false⟩] [(d, 2)] fun s cx _ =>
    match tilesWait s cx need with
    | some u => (s, .stand (.retry u))
    | none =>
      match cmdWait s cx ctx.toNat with
      | some w => (s, .stand w)
      | none =>
        let b := cx.grp.block s
        let img := ((s.blk b).body.tid x.toNat).img
        let r := regionOf (rdGroup s cx a 8)
        let now := s.now
        let s := s.modBody b fun y => y.modTile n fun z =>
          { z with st := .draining, stamp := { z.stamp with drns := some (z.stamp.drns.getD now), kept := z.stamp.kept || keep } }
        issueShuttle s cx d ctx.toNat (.tstore keep n img r) nt
          (boxRows r * sectorsOf (rowBytes (tdElem img).bits (r.box 0))) false [] with
    tiles := [n], xids := [x.toNat], tcs := [ctx.toNat], noAct := true
    pre := fun s cx _ =>
      let y := (s.blk (cx.grp.block s)).body
      match producerEv s cx with
      | some e => some e
      | none => afterTiles s cx need (firstEv [tidEv y x.toNat false,
          tileBoxEv (y.tile n) (y.tid x.toNat).img (regionOf (rdGroup s cx a 8)) (y.tile n).swz false]) } s)

/-- TLOADB (R251). -/
def execTloadb (h : Hdr) (nt : Bool) (d a c : Opd) (buf : BitVec 3) (x : BitVec 8) (ctx : BitVec 2) (s : State) :
    Host.Outcome State Fault Refusal :=
  .next (issueWake { plainOp (.tloadb h nt d a c buf x ctx) h [⟨a, 8, false⟩, ⟨c, 1, false⟩] [(d, 2)] fun s cx v =>
    match cmdWait s cx ctx.toNat with
    | some w => (s, .stand w)
    | none =>
      let img := ((s.blk (cx.grp.block s)).body.tid x.toNat).img
      let r := regionOf (rdGroup s cx a 8)
      issueShuttle s cx d ctx.toNat (.tloadb buf.toNat img r (barOf c (v.getD 1 0))) nt
        (boxRows r * (sectorsOf (rowBytes (tdElem img).bits (r.box 0)) + sectorsOf (scaleBytes img (r.box 0)))) false [] with
    xids := [x.toNat], tcs := [ctx.toNat], noAct := true
    pre := fun s cx v =>
      let y := (s.blk (cx.grp.block s)).body
      firstEv [producerEv s cx, if holdsEngine s cx then none else some (engineEv 1 0), tidEv y x.toNat false,
        barEv s cx (barOf c (v.getD 1 0)), bufBoxEv buf.toNat (y.tid x.toNat).img (regionOf (rdGroup s cx a 8))] } s)

/-- R252: the blocks a mask names, by their index in the gang. -/
def mcastBlocks (s : State) (b : Nat) (mask : Nat) : List Nat :=
  let l := s.launch (s.blk b).launch
  let gang := if l.k = 0 then [b] else gangOf s b
  (List.range 64).flatMap fun i => if mask / 2 ^ i % 2 = 1 then
    gang.filter fun e => (if l.k = 0 then 0 else (s.blk e).index % l.gang) == i else []

/-- R252: a mask with no bit, more than 16, or one that names no block of the gang. -/
def maskLegal (s : State) (b mask : Nat) : Bool :=
  let n := popcount mask 64
  1 ≤ n && n ≤ 16 && mask < 2 ^ (if (s.launch (s.blk b).launch).k = 0 then 1 else (s.launch (s.blk b).launch).gang)

/-- TMCAST (R252). -/
def execTmcast (h : Hdr) (nt : Bool) (d a b c : Opd) (t : BitVec 6) (x : BitVec 8) (ctx : BitVec 2) (s : State) :
    Host.Outcome State Fault Refusal :=
  .next (issueWake { plainOp (.tmcast h nt d a b c t x ctx) h [⟨a, 8, false⟩, ⟨b, 2, false⟩, ⟨c, 1, false⟩] [(d, 2)] fun s cx v =>
    match cmdWait s cx ctx.toNat with
    | some w => (s, .stand w)
    | none =>
      let k := cx.grp.block s
      let img := ((s.blk k).body.tid x.toNat).img
      let r := regionOf (rdGroup s cx a 8)
      let mask := v.getD 1 0
      let mc := (mcastBlocks s k mask.toNat).map fun e => { blk := e, gen := none, refused := false, landed := 0 : McDest }
      issueShuttle s cx d ctx.toNat (.tmcast t.toNat img r mask (barOf c (v.getD 2 0))) nt
        (boxRows r * sectorsOf (rowBytes (tdElem img).bits (r.box 0))) (cx.grp.rollback s) mc with
    tiles := [t.toNat], xids := [x.toNat], tcs := [ctx.toNat], noAct := true
    pre := fun s cx v =>
      let k := cx.grp.block s
      let y := (s.blk k).body
      let img := (y.tid x.toNat).img
      let r := regionOf (rdGroup s cx a 8)
      firstEv [producerEv s cx, tidEv y x.toNat false, barEv s cx (barOf c (v.getD 2 0)),
        if wholeBytes (tdElem img).bits (r.box 0) then none else some (shuttleEv 1),
        if maskLegal s k (v.getD 1 0).toNat then none else some (shuttleEv 7)] } s)

/-! ### The course of a shuttle command -/

/-- A command ended by a fault (R246). -/
def failCmd (s : State) (b : Nat) (x : Cmd) (e : Ev) : State :=
  cmdFault (finishCmd (endTile s b x 2) b x 2) b x e

/-- R269: an MMA issued earlier has yet to read a buffer for the last time. -/
def mmaReads (y : Body) (x : Cmd) (buf : Nat) : Bool :=
  (y.cmds.takeWhile fun c => !c.same x).any fun c => match c.kind with
    | .mma _ pb _ _ => (pb.toNat % 4 == buf || pb.toNat / 4 % 4 + 4 == buf) && !c.left.isEmpty
    | _ => false

/-- A byte count for the counters (R372). -/
def shuttleBytes (s : State) (b n : Nat) : State :=
  let k := s.blk b
  let cs := s.cslot k.core k.slot
  s.count cs.part (some cs.vf) (coreField k.core) 0x51 n

/-- A landing of TLOAD: sector n of its box. -/
def landTload (s : State) (b : Nat) (x : Cmd) (mode : LoadMode) (t : Nat) (d : BitVec 512) (r : Region) (bar : Option Nat)
    (idx : List Word) (n : Nat) : State :=
  let per := sectorsOf (rowBytes (tdElem d).bits (r.box 0))
  match readSector s b x d mode r idx (n / per) (n % per) with
  | (s, .wait) => s
  | (s, .fault e) => failCmd s b x e
  | (s, .ok bs) =>
    let last := (x.landed n).left.isEmpty
    let waits := waitsFor s b t x.tc x.num bar
    let now := s.now
    let s := s.modEngine b x.fresh fun y =>
      let a := tileSector (y.tile t) (n / per) (n % per)
      let y := countSector bar { y with scratch := Tab.setRun 0 y.scratch a bs }
      y.modTile t fun z =>
        let z := { z with stamp := { z.stamp with bytes := z.stamp.bytes + bs.length } }
        if last then stampReady now waits { z with st := .ready, vrows := validRows d mode r idx } else z
    shuttleBytes (s.setCmd b (x.landed n)) b bs.length

/-- A landing of TSTORE. -/
def landTstore (s : State) (b : Nat) (x : Cmd) (t : Nat) (d : BitVec 512) (r : Region) (n : Nat) : State :=
  let bits := (tdElem d).bits
  let rb := rowBytes bits (r.box 0)
  let per := sectorsOf rb
  let m := n / per
  let k := n % per
  let y := (s.blk b).body
  let v := ofBytes (Tab.getRun 0 y.scratch (tileSector (y.tile t) m k) 32)
  let els := (sectorElems bits (r.box 0) k).map fun (j : Nat) =>
    (setFirst (r.at 0 + (j : Int)) (plainRow r m), v / 2 ^ elemBit bits (j - k * perSector bits) % 2 ^ bits)
  match writeElems s b x d els with
  | (s, .wait) => s
  | (s, .fault e) => failCmd s b x e
  | (s, .ok _) =>
    let bytes := ((els.filter fun e => inExtents d 0 e.1).length * bits) / 8
    let s := s.modEngine b x.fresh fun y => y.modTile t fun z => { z with stamp := { z.stamp with bytes := z.stamp.bytes + bytes } }
    shuttleBytes (s.setCmd b (x.landed n)) b bytes

/-- R251: the scales of sector k of scale row m of a box. -/
def scaleCoords (d : BitVec 512) (r : Region) (m k : Nat) : List (Option Nat) :=
  let g := tdGroup d
  let c := plainRow r m
  let ext (i : Nat) : Nat := if i < tdRank d then tdExt d i else 1
  let row := (c.getD 1 0).toNat + ext 1 * ((c.getD 2 0).toNat + ext 2 * ((c.getD 3 0).toNat + ext 3 * (c.getD 4 0).toNat))
  let perRow := (tdExt d 0 + g - 1) / g
  (List.range 24).filterMap fun i =>
    let j := 24 * k + i
    if r.box 0 / g ≤ j then none
    else
      let q := r.at 0 / (g : Int) + j
      if inExtents d 1 c && 0 ≤ q && decide (q < (perRow : Int)) then
        some (some (30 * (row * ((perRow + 2) / 3)) + 10 * q.toNat)) else some none

/-- Reads scales by their places, counted in thirds of words times ten. -/
def readScales (s : State) (b : Nat) (x : Cmd) (d : BitVec 512) : List (Option Nat) → State × ERes (List Nat)
  | [] => (s, .ok [])
  | none :: r =>
    match readScales s b x d r with
    | (s, .ok l) => (s, .ok (0x1FC :: l))
    | y => y
  | some p :: r =>
    match engineRead s b x ((tdSbase d + 4 * (p / 30)) % 2 ^ 64) 4 with
    | (s, .wait) => (s, .wait)
    | (s, .fault e) => (s, .fault e)
    | (s, .ok bs) =>
      match readScales s b x d r with
      | (s, .ok l) => (s, .ok (ofBytes bs / 2 ^ (p % 30) % 2 ^ 10 :: l))
      | y => y

/-- The bytes of a run of scales, three to a word. -/
def packScales (l : List Nat) : List Byte :=
  toBytes (4 * ((l.length + 2) / 3)) (((List.range l.length).map fun i => l.getD i 0 * 2 ^ (32 * (i / 3) + 10 * (i % 3))).sum)

/-- A landing of TLOADB. -/
def landTloadb (s : State) (b : Nat) (x : Cmd) (buf : Nat) (d : BitVec 512) (r : Region) (bar : Option Nat) (n : Nat) : State :=
  let per := sectorsOf (rowBytes (tdElem d).bits (r.box 0))
  let all := per + sectorsOf (scaleBytes d (r.box 0))
  let rows := boxRows r
  let m := n / all
  let k := n % all
  if mmaReads (s.blk b).body x buf then s
  else
    let got := if k < per then readSector s b x d .plain r [] m k
      else match readScales s b x d (scaleCoords d r m (k - per)) with
        | (s, .ok l) => (s, .ok (packScales l))
        | (s, .wait) => (s, .wait)
        | (s, .fault e) => (s, .fault e)
    match got with
    | (s, .wait) => s
    | (s, .fault e) => failCmd s b x e
    | (s, .ok bs) =>
      let last := (x.landed n).left.isEmpty
      let a := if k < per then bufData buf + m * bufPitch buf rows + 32 * k else bufScale buf + m * scalePitch buf + 32 * (k - per)
      let s := s.modEngine b x.fresh fun y =>
        let y := countSector bar { y with bufs := Tab.setRun 0 y.bufs a bs }
        if last then { y with bufRecs := Tab.put y.bufRecs buf { rows := rows, pitch := bufPitch buf rows, src := none } } else y
      shuttleBytes (s.setCmd b (x.landed n)) b bs.length

/-! ### Multicasts (R252) -/

/-- Where a multicast keeps the words of a sector it has read. -/
def mcWords (n : Nat) (bs : List Byte) (t : Tab Word) : Tab Word :=
  Tab.put ((List.range 8).foldl (fun t i => Tab.put t (8 * n + i) (.ofNat 32 (ofBytes ((bs.drop (4 * i)).take 4)))) t)
    (2 ^ 40 + n) (.ofNat 32 bs.length)

/-- The sector as first read, if it has been. -/
def mcRead (n : Nat) (t : Tab Word) : Option (List Byte) :=
  (Tab.find t (2 ^ 40 + n)).map fun len =>
    ((List.range 8).flatMap fun i => toBytes 4 (Tab.get 0 t (8 * n + i)).toNat).take len.toNat

/-- Changes the entry of a destination. -/
def setDest (x : Cmd) (e : McDest) : Cmd := { x with mc := x.mc.map fun y => if y.blk == e.blk then e else y }

/-- R252: a destination refuses. -/
def refuseDest (s : State) (b : Nat) (x : Cmd) (t : Nat) (e : McDest) : State :=
  let k := s.blk b
  let cs := s.cslot k.core k.slot
  let s := s.count cs.part (some cs.vf) (coreField k.core) 0x45 1
  let s := s.modEngine b x.fresh fun y =>
    let z := Tab.get CtxStat.none y.ctxStat x.tc
    { y with ctxStat := Tab.put y.ctxStat x.tc { z with refused := z.refused + 1 } }
  let s := if (s.blk e.blk).st = .absent ∨ (s.blk e.blk).st = .ended then s
    else s.modBody e.blk fun y => y.modTile t fun z => { z with stamp := { z.stamp with refused := true } }
  s.setCmd b { setDest x { e with refused := true } with started := true }

/-- One landing of a multicast at one destination. -/
def landMcast (s : State) (b : Nat) (x : Cmd) (t : Nat) (d : BitVec 512) (r : Region) (bar : Option Nat) (e : McDest) : State :=
  let per := sectorsOf (rowBytes (tdElem d).bits (r.box 0))
  let k := s.blk e.blk
  let z := k.body.tile t
  let here := k.st == .resident
  let ok := here && match e.gen with
    | none => z.st == .filling && z.rx && mcFits z d r
    | some g => z.gen == g
  if !ok then refuseDest s b x t e
  else
    let n := e.landed
    let got := match mcRead n x.msum with
      | some bs => (s, ERes.ok bs)
      | none => readSector s b x d .plain r [] (n / per) (n % per)
    match got with
    | (s, .wait) => s
    | (s, .fault ev) => failCmd s b x ev
    | (s, .ok bs) =>
      let last := n + 1 = boxRows r * per
      let waits := waitsFor s e.blk t x.tc x.num bar
      let now := s.now
      let s := s.modBody e.blk fun y =>
        let a := tileSector { y.tile t with swz := tdSwz d } (n / per) (n % per)
        let y := countSector bar { y with scratch := Tab.setRun 0 y.scratch a bs }
        y.modTile t fun z =>
          let z := { z with taken := true, stamp := { z.stamp with
            bytes := z.stamp.bytes + bs.length, fills := some (z.stamp.fills.getD now) } }
          if last then stampReady now waits { z with st := .ready, rx := false, taken := false, swz := tdSwz d, vrows := validRows d .plain r [] }
          else z
      let y := setDest x { e with gen := some z.gen, landed := n + 1 }
      shuttleBytes (s.setCmd b { y with started := true, msum := if (mcRead n x.msum).isSome then x.msum else mcWords n bs x.msum })
        b bs.length

/-- Landings still due at a destination. -/
def destDue (x : Cmd) (e : McDest) : Bool :=
  match x.kind with
  | .tmcast _ d r _ _ => !e.refused && e.landed < boxRows r * sectorsOf (rowBytes (tdElem d).bits (r.box 0))
  | _ => false

/-! ### The events of the shuttle -/

/-- R246: a command of a context starts after those issued on it before, so not while one of them is held for a
commit (R252). -/
def shuttleTurn (s : State) (x : Cmd) : Bool :=
  !x.heldCommit && !s.blocks.any fun e => e.2.st == .resident && e.2.body.cmds.any fun c =>
    c.heldCommit && c.core == x.core && c.slot == x.slot && c.tc == x.tc && decide (c.num < x.num)

/-- A shuttle command whose landings have all been performed. -/
def shuttleDone (s : State) (b : Nat) (x : Cmd) : Bool :=
  shuttleTurn s x && cmdQuiet s b x && match x.kind with
    | .tload _ _ _ _ _ _ | .tstore _ _ _ _ | .tloadb _ _ _ _ => x.left.isEmpty
    | .tmcast _ _ _ _ _ => x.mc.all fun e => !destDue x e
    | .rsum _ _ _ _ | .mma _ _ _ _ | .mzero _ | .mprom _ | .mlda _ _ _ | .mldb _ _ _ | .msta _ _ _ _ _ _ _ _ _
    | .mread _ _ _ | .mwrite _ _ _ | .fetchpg _ _ _ | .put _ _ _ _ _ _ | .get _ _ _ _ _ | .postc _ _ _ => false

/-- SHUTTLE_COMMAND_COMPLETE (R246): a command all of whose landings have been performed. -/
def execShuttleCommandComplete (blk tc num : Nat) (s : State) : Host.Outcome State Fault Refusal :=
  guarded (fun s => match s.cmd blk tc num with
    | some x =>
      if shuttleDone s blk x then wake (endShuttle s blk x) else s
    | none => s) s

/-- MCAST_LANDING (R252): the next landing of a multicast at a destination. -/
def execMcastLanding (blk tc num dst : Nat) (s : State) : Host.Outcome State Fault Refusal :=
  guarded (fun s => match s.cmd blk tc num with
    | some x =>
      match x.kind, x.mc.find? fun e => e.blk == dst with
      | .tmcast t d r _ bar, some e =>
        if shuttleTurn s x && destDue x e then wake (landMcast s blk x t d r bar e) else s
      | _, _ => s
    | none => s) s

/-! ### Transaction barriers (R256, R257) -/

/-- The barrier at an address of a group's scratchpad, as a number. -/
def barRead (s : State) (c : Cx) (a : Nat) : Nat := ofBytes (scratchRead s c.grp a 16)
def barWrite (s : State) (c : Cx) (a w : Nat) : State := progress (scratchWrite s c.grp a (toBytes 16 w)) (c.grp.block s)

/-- TBINIT (R256). -/
def execTbinit (h : Hdr) (a b : Opd) (n : BitVec 16) (s : State) : Host.Outcome State Fault Refusal :=
  .next (issueWake { plainOp (.tbinit h a b n) h [⟨a, 1, false⟩, ⟨b, 1, false⟩] [] fun s c v =>
    let k := ((v.getD 1 0).toNat + n.toNat) % 2 ^ 16
    (barWrite s c (v.getD 0 0).toNat (2 ^ 16 * k + 2 ^ 32 * k), .seq) with
    noAct := true, pre := fun s c v => scratchEv s c (v.getD 0 0).toNat 16 } s)

/-- A change of a barrier by a thread, which gets the phase before it. -/
def barChange (s : State) (c : Cx) (d : Opd) (a : Nat) (da ds : Int) : State × Next :=
  let w := barRead s c a
  (wr32 (barWrite s c a (barrierStep w da ds)) c d (.ofNat 32 (w % 16)), .seq)

/-- ARRIVE (R256, R257). -/
def execArrive (h : Hdr) (d a : Opd) (n : BitVec 16) (s : State) : Host.Outcome State Fault Refusal :=
  .next (issueWake { plainOp (.arrive h d a n) h [⟨a, 1, false⟩] [(d, 1)] fun s c v =>
    if heldBy s c then (s, .stand (.retry .heldLine)) else barChange s c d (v.getD 0 0).toNat (-n.toNat) 0 with
    noAct := true, pre := fun s c v => scratchEv s c (v.getD 0 0).toNat 16 } s)

/-- EXPECT (R256, R257). -/
def execExpect (h : Hdr) (arv : Bool) (d a b : Opd) (n : BitVec 32) (s : State) : Host.Outcome State Fault Refusal :=
  .next (issueWake { plainOp (.expect h arv d a b n) h [⟨a, 1, false⟩, ⟨b, 1, false⟩] [(d, 1)] fun s c v =>
    if arv && heldBy s c then (s, .stand (.retry .heldLine))
    else barChange s c d (v.getD 0 0).toNat (if arv then -1 else 0) (((v.getD 1 0).toNat + n.toNat) % 2 ^ 48 : Nat) with
    noAct := true, pre := fun s c v => scratchEv s c (v.getD 0 0).toNat 16 } s)

/-- WAITPH (R256, R257). -/
def execWaitph (h : Hdr) (a b : Opd) (ph : BitVec 4) (s : State) : Host.Outcome State Fault Refusal :=
  .next (issue { plainOp (.waitph h a b ph) h [⟨a, 1, false⟩, ⟨b, 1, false⟩] [] fun s c v =>
    let p := ((v.getD 1 0).toNat + ph.toNat) % 16
    let addr := (v.getD 0 0).toNat
    if barRead s c addr % 16 ≠ p then (applyOrder (s.modThr c yieldDone) c .acquire .block, .seq) else (s, .wait (.phase addr p)) with
    noAct := true, pre := fun s c v => scratchEv s c (v.getD 0 0).toNat 16 } s)

end Sys2Proof.Machine
end

