-- ==== Sys2Proof/Machine/Matrix.lean ====
section
/-! DEFINITION. The matrix engine: parameter blocks and their checks (R262 to R265), the k-steps of an MMA
(R117, R266), buffer fills from tiles (R268), accumulators (R270, R271), MSTA (R272, R273), MREAD and
MWRITE (R274), and the commands of tc4 and tc5 (R275, R276). -/

namespace Sys2Proof.Machine

open Sys2Proof

/-! ### The parameter block (R264) -/

def pbBits (p : BitVec 512) (byte lo n : Nat) : Nat := tdBits p byte lo n
def pbAbuf (p : BitVec 512) : Nat := pbBits p 0 0 2
def pbBbuf (p : BitVec 512) : Nat := pbBits p 0 2 2 + 4
def pbAcct (p : BitVec 512) : Nat := pbBits p 0 4 3
def pbM (p : BitVec 512) : Nat := pbBits p 0 8 7
def pbN (p : BitVec 512) : Nat := pbBits p 0 16 7
def pbCtx (p : BitVec 512) : Nat := pbBits p 0 24 1
def pbAcc (p : BitVec 512) : Bool := pbBits p 0 25 1 == 1
def pbTrb (p : BitVec 512) : Bool := pbBits p 0 26 1 == 1
def pbK (p : BitVec 512) : Nat := pbBits p 4 0 16
def pbP (p : BitVec 512) : Nat := pbBits p 4 16 7
def pbXa (p : BitVec 512) : Nat := pbBits p 8 0 8
def pbXb (p : BitVec 512) : Nat := pbBits p 8 8 8

/-- R262: the pairs an MMA accepts, by FMT and SCL of A and of B. -/
def pairLegal (fa sa fb sb : Nat) : Bool :=
  let weights := (fb == 12 || fb == 13) && (sb == 0 || sb == 2 || sb == 3)
  (fa == 2 && sa == 0 && ((fb == 2 && sb == 0) || weights)) ||
  ((fa == 8 || fa == 9) && sa ≤ 1 && (((fb == 8 || fb == 9) && sb ≤ 1) || weights)) ||
  (fa == 10 && sa ≤ 1 && fb == 10 && sb ≤ 1)

/-- R117, R262: elements of a k-step, and the in-array format, by the format of A. -/
def kStep (fa : Nat) : Nat := if fa = 2 then 16 else if fa = 10 then 64 else 32
def inArray (fa : Nat) : Fl := if fa = 2 then fp32 else fp24

def kSteps (p ta : BitVec 512) : Nat := (pbK p + kStep (tdFmt ta) - 1) / kStep (tdFmt ta)

/-- Bytes of n packed elements. -/
def elemsBytes (bits n : Nat) : Nat := if bits = 3 then 4 * ((n + 9) / 10) else (n * bits + 7) / 8

/-- R265, R427: conditions 2 to 5 of a parameter block, 0 for none. `xs` is the block's range of
identifiers. DEDUCED, unsafe (log 23). -/
def pbCondition (y : Body) (xs : Nat) (p : BitVec 512) : Nat :=
  let a := y.tid (pbXa p)
  let b := y.tid (pbXb p)
  let aOk := pbXa p < xs && a.valid
  let bOk := pbXb p < xs && b.valid
  let range (n : Nat) : Bool := 1 ≤ n && n ≤ 64
  let kMax := elemsBytes (tdElem a.img).bits (pbK p) ≤ 256
  if !range (pbM p) || !range (pbN p) || !range (pbP p) || pbK p == 0 || (aOk && !kMax) then 2
  else if !aOk || !bOk then 3
  else if !pairLegal (tdFmt a.img) (tdScl a.img) (tdFmt b.img) (tdScl b.img) then 4
  else if pbTrb p && !((tdFmt b.img == 2 || tdFmt b.img == 8 || tdFmt b.img == 9) && tdScl b.img == 0) then 5
  else 0

/-- R265, R427: conditions 6 and 7 of the buffers at an MMA's start, 0 for none. -/
def startCondition (y : Body) (p ta tb : BitVec 512) : Nat :=
  let a := Tab.get BufRec.none y.bufRecs (pbAbuf p)
  let b := Tab.get BufRec.none y.bufRecs (pbBbuf p)
  let bRows := if pbTrb p then pbK p else pbN p
  let bLen := if pbTrb p then pbN p else pbK p
  if a.rows < pbM p ∨ b.rows < bRows then 6
  else if 256 < elemsBytes (tdElem ta).bits (pbK p) ∨ b.pitch < elemsBytes (tdElem tb).bits bLen then 7
  else 0

/-! ### Operands and sums (R108, R117, R266) -/

/-- Element k of data row m of a buffer, as a format reads it. -/
def bufElem (y : Body) (buf pitch m k : Nat) (e : Elem) : Val :=
  let row := bufData buf + m * pitch
  let word (o n : Nat) : Nat := ofBytes (Tab.getRun 0 y.bufs (row + o) n)
  if e.bits = 3 then elemValue e (word (4 * (k / 10)) 4 / 2 ^ (3 * (k % 10)) % 8)
  else if e.bits = 4 then elemValue e (word (k / 2) 1 / 2 ^ (4 * (k % 2)) % 16)
  else elemValue e (word (k * (e.bits / 8)) (e.bits / 8))

/-- R108: a value times the scale its descriptor gives it. -/
def scaled (y : Body) (buf m k : Nat) (d : BitVec 512) (v : Val) : Val :=
  if tdGroup d = 0 then v
  else
    let j := k / tdGroup d
    let w := ofBytes (Tab.getRun 0 y.bufs (bufScale buf + m * scalePitch buf + 4 * (j / 3)) 4)
    Val.mul v (scaleVal (w / 2 ^ (10 * (j % 3)) % 2 ^ 10))

def aVal (y : Body) (p ta : BitVec 512) (i k : Nat) : Val :=
  scaled y (pbAbuf p) i k ta (bufElem y (pbAbuf p) 256 i k (tdElem ta))

def bVal (y : Body) (p tb : BitVec 512) (k j : Nat) : Val :=
  let pitch := (Tab.get BufRec.none y.bufRecs (pbBbuf p)).pitch
  if pbTrb p then bufElem y (pbBbuf p) pitch k j (tdElem tb)
  else scaled y (pbBbuf p) j k tb (bufElem y (pbBbuf p) pitch j k (tdElem tb))

/-- R117: zero is +0 and a NaN has sign 0. -/
def plusZero : Val → Val
  | .nan _ => .nan false
  | .num s n d => if n = 0 then .num false 0 1 else .num s n d
  | .inf s => .inf s

/-- R117: the in-array sum of element (i, j) after k-step t. -/
def stepSum (y : Body) (p ta tb : BitVec 512) (t : Nat) (s : Nat) (i j : Nat) : Nat :=
  let f := inArray (tdFmt ta)
  let w := kStep (tdFmt ta)
  let ks := (List.range w).filterMap fun n => if t * w + n < pbK p then some (t * w + n) else none
  let exact := plusZero (Val.sum .rn (ks.map fun k => Val.mul (aVal y p ta i k) (bVal y p tb k j)))
  f.round .rn false 0 (plusZero (Val.add .rn (f.decode s) (f.decode (f.round .rn false 0 exact))))

/-- R117: the promotion of an in-array sum into an accumulator element. -/
def promote (f : Fl) (c : Word) (s : Nat) : Word :=
  .ofNat 32 (fp32.round .rn false 0 (match Val.add .rn (fp32.decode c.toNat) (f.decode s) with
    | .nan _ => .nan false
    | v => v))

/-- The tile a buffer was filled from, if it still has that generation (R365). -/
def fillSource (y : Body) (buf : Nat) : Option Nat :=
  match (Tab.get BufRec.none y.bufRecs buf).src with
  | some (t, g) => if (y.tile t).gen = g then some t else none
  | none => none

/-- R365: a k-step seen by the tiles behind its buffers. -/
def stampStep (now : Nat) (y : Body) (t : Nat) : Body :=
  y.modTile t fun z => { z with stamp := { z.stamp with
    comps := firstTime z.stamp.comps now, compe := some now, ksteps := z.stamp.ksteps + 1 } }

/-- The accumulator a command names. -/
def cmdAcc (x : Cmd) : Option Nat :=
  match x.kind with
  | .mma _ p _ _ => some (pbAcct p)
  | .mzero a | .mprom a => some a
  | .msta a _ _ _ _ _ _ _ _ => some a
  | .mread a _ _ | .mwrite a _ _ => some a
  | .tload _ _ _ _ _ _ | .tstore _ _ _ _ | .tloadb _ _ _ _ | .tmcast _ _ _ _ _ | .rsum _ _ _ _ | .mlda _ _ _
  | .mldb _ _ _ | .fetchpg _ _ _ | .put _ _ _ _ _ _ | .get _ _ _ _ _ | .postc _ _ _ => none

/-- An accumulating MMA. -/
def addsMma (x : Cmd) : Bool := match x.kind with | .mma _ p _ _ => pbAcc p | _ => false

/-- Commands of a block issued before one of them. -/
def earlier (y : Body) (x : Cmd) : List Cmd := y.cmds.takeWhile fun c => !c.same x

/-- R270: another MMA on a different context may be adding to the accumulator that an MMA adds to. -/
def interleaves (y : Body) (det : Bool) (x : Cmd) : Bool :=
  !det && addsMma x && y.cmds.any fun c => addsMma c && c.tc != x.tc && cmdAcc c == cmdAcc x && !c.left.isEmpty

/-- One k-step of an MMA (R117, R266). Where another may interleave with it, the promotions are left to be made one
element at a time, as landing 1 + element (R270). DEDUCED, unsafe (log 24). -/
def mmaStep (now : Nat) (det : Bool) (x : Cmd) (p ta tb : BitVec 512) (y : Body) : Body :=
  let t := x.beat
  let f := inArray (tdFmt ta)
  let cells := (List.range (pbM p)).flatMap fun i => (List.range (pbN p)).map fun j => (i, j)
  let sums := cells.map fun c => (64 * c.1 + c.2, stepSum y p ta tb t (Tab.get 0 x.msum (64 * c.1 + c.2)).toNat c.1 c.2)
  let last := t + 1 = kSteps p ta
  let up := (t + 1) % pbP p = 0 ∨ last
  let split := interleaves y det x
  let acc := if up ∧ !split then sums.foldl (fun a e =>
      let k := 4096 * pbAcct p + e.1
      let old := if !pbAcc p && t < pbP p then 0 else Tab.get 0 a k
      Tab.set 0 a k (promote f old e.2)) y.acc
    else y.acc
  let kept := sums.foldl (fun m e => Tab.set 0 m e.1 (.ofNat 32 e.2)) x.msum
  let x := if up ∧ split then { x with left := sums.map (·.1 + 1), msum := kept }
    else { x with beat := t + 1, left := if last then [] else x.left, msum := if up then [] else kept }
  let r := Tab.get AccRec.none y.accRecs (pbAcct p)
  let r : AccRec := { comps := firstTime r.comps now, compe := some now, ksteps := r.ksteps + 1 }
  let y := replaceCmd x { y with acc := acc, accRecs := Tab.put y.accRecs (pbAcct p) r }
  [pbAbuf p, pbBbuf p].foldl (fun y buf => match fillSource y buf with
    | some t => stampStep now y t
    | none => y) y

/-- The promotion of one element, which ends its k-step when it is the last (R270). -/
def mmaPromote (x : Cmd) (p ta : BitVec 512) (e : Nat) (y : Body) : Body :=
  let k := 4096 * pbAcct p + e
  let acc := Tab.set 0 y.acc k (promote (inArray (tdFmt ta)) (Tab.get 0 y.acc k) (Tab.get 0 x.msum e).toNat)
  let left := x.left.erase (e + 1)
  let x := if left = [] then
      { x with beat := x.beat + 1, left := if x.beat + 1 = kSteps p ta then [] else [0], msum := [] }
    else { x with left := left }
  replaceCmd x { y with acc := acc }

/-! ### MMA (R266) -/

/-- The parameter block a thread names. -/
def pbAt (s : State) (c : Cx) (a : Nat) : BitVec 512 := .ofNat 512 (ofBytes (scratchRead s c.grp a 64))

/-- MMA (R266). -/
def execMma (h : Hdr) (a : Opd) (imm : BitVec 32) (s : State) : Host.Outcome State Fault Refusal :=
  let ea (v : List Dword) : Nat := ((v.getD 0 0).lo + imm).toNat
  .next (issueWake { plainOp (.mma h a imm) h [⟨a, 1, false⟩] [] fun s c v =>
    let p := pbAt s c (ea v)
    let tc := 4 + pbCtx p
    match cmdWait s c tc with
    | some w => (s, .stand w)
    | none =>
      let y := (s.blk (c.grp.block s)).body
      let (s, num) := issueCmd s c tc (.mma (ea v) p (y.tid (pbXa p)).img (y.tid (pbXb p)).img) false [0] false
      (progress (scratchWrite s c.grp (ea v + 16) (toBytes 8 num)) (c.grp.block s), .seq) with
    noAct := true
    pre := fun s c v =>
      if !holdsEngine s c then some (engineEv 1 (ea v))
      else match scratchEv s c (ea v) 64 with
      | some e => some e
      | none =>
        let p := pbAt s c (ea v)
        let k := c.grp.cslot s
        if !k.eng (4 + pbCtx p) then some { code := 0x112, arg := 5, addr := 4 + pbCtx p, synd := c.grp.slot s }
        else
          let n := pbCondition (s.blk (c.grp.block s)).body (tensorCount s c.grp) p
          if n = 0 then none else some (engineEv n (ea v)) } s)

/-! ### MZERO and MPROM (R271) -/

def accOp (i : Instr) (h : Hdr) (d : Opd) (k : CmdKind) (tc : Nat) : Op :=
  { plainOp i h [] [(d, 2)] fun s c _ =>
      match cmdWait s c tc with
      | some w => (s, .stand w)
      | none => numberTo (issueCmd s c tc k false [0] false) c d with
    tcs := [tc], noAct := true, pre := fun s c _ => if holdsEngine s c then none else some (engineEv 1 0) }

/-- MZERO (R271). -/
def execMzero (h : Hdr) (d : Opd) (acc : BitVec 3) (ctx : Bool) (s : State) : Host.Outcome State Fault Refusal :=
  .next (issueWake (accOp (.mzero h d acc ctx) h d (.mzero acc.toNat) (4 + ctx.toNat)) s)

/-- MPROM (R271). -/
def execMprom (h : Hdr) (d : Opd) (acc : BitVec 3) (ctx : Bool) (s : State) : Host.Outcome State Fault Refusal :=
  .next (issueWake (accOp (.mprom h d acc ctx) h d (.mprom acc.toNat) (4 + ctx.toNat)) s)

/-! ### MLDA and MLDB (R268) -/

/-- R268: the geometry of the tiles of a buffer fill. -/
def mldOk (buf : Nat) (x : Tile) (sc : Option Tile) : Bool :=
  1 ≤ x.rows && (if buf < 4 then x.rows ≤ 64 && x.pitch ≤ 256
    else if x.rows ≤ 64 then x.pitch ≤ 512 else x.rows ≤ 256 && x.pitch ≤ 128 && sc.isNone) &&
  match sc with
  | none => true
  | some z => z.pitch ≤ scalePitch buf && x.rows ≤ z.rows

/-- A reader more, or less, on the tiles of a fill. -/
def moveReaders (f : Nat → Nat) (l : List Nat) (y : Body) : Body :=
  l.foldl (fun y t => y.modTile t fun z => { z with readers := f z.readers }) y

def mldOp (i : Instr) (h : Hdr) (d : Opd) (sc : Bool) (t st : Nat) (buf : Nat) (tc : Nat) (k : CmdKind) : Op :=
  let tiles := t :: (if sc then [st] else [])
  let need : List (Nat × TileNeed) := tiles.map fun u => (u, .use)
  { plainOp i h [] [(d, 2)] fun s c _ =>
      match tilesWait s c need with
      | some u => (s, .stand (.retry u))
      | none =>
        match cmdWait s c tc with
        | some w => (s, .stand w)
        | none =>
          let b := c.grp.block s
          let y := (s.blk b).body
          let n := (y.tile t).rows * ((y.tile t).pitch / 32 + if sc then (y.tile st).pitch / 32 else 0)
          numberTo (issueCmd (s.modBody b (moveReaders (· + 1) tiles)) c tc k false (List.range n) false) c d with
    tiles := tiles, tcs := [tc], noAct := true
    pre := fun s c _ =>
      let y := (s.blk (c.grp.block s)).body
      if !holdsEngine s c then some (engineEv 1 0)
      else afterTiles s c need
        (if mldOk buf (y.tile t) (if sc then some (y.tile st) else none) then none else some (engineEv 8 0)) }

/-- MLDA (R268). -/
def execMlda (h : Hdr) (d : Opd) (sc : Bool) (t st : BitVec 6) (buf : BitVec 2) (ctx : Bool) (s : State) :
    Host.Outcome State Fault Refusal :=
  .next (issueWake (mldOp (.mlda h d sc t st buf ctx) h d sc t.toNat st.toNat buf.toNat (4 + ctx.toNat)
    (.mlda t.toNat (if sc then some st.toNat else none) buf.toNat)) s)

/-- MLDB (R268). -/
def execMldb (h : Hdr) (d : Opd) (sc : Bool) (t st : BitVec 6) (buf : BitVec 2) (ctx : Bool) (s : State) :
    Host.Outcome State Fault Refusal :=
  .next (issueWake (mldOp (.mldb h d sc t st buf ctx) h d sc t.toNat st.toNat (4 + buf.toNat) (4 + ctx.toNat)
    (.mldb t.toNat (if sc then some st.toNat else none) (4 + buf.toNat))) s)

/-- One 32-byte sector of a fill from tiles. -/
def mldStep (x : Cmd) (t : Nat) (sc : Option Nat) (buf n : Nat) (y : Body) : Body :=
  let z := y.tile t
  let per := z.pitch / 32
  let all := per + match sc with | some u => (y.tile u).pitch / 32 | none => 0
  let m := n / all
  let k := n % all
  let (src, dst) := if k < per then (tileSector z m k, bufData buf + m * bufPitch buf z.rows + 32 * k)
    else (tileSector (y.tile (sc.getD 0)) m (k - per), bufScale buf + m * scalePitch buf + 32 * (k - per))
  let x := x.landed n
  let y := replaceCmd x { y with bufs := Tab.setRun 0 y.bufs dst (Tab.getRun 0 y.scratch src 32) }
  if x.left = [] then
    moveReaders (· - 1) (t :: sc.toList)
      { y with bufRecs := Tab.put y.bufRecs buf { rows := z.rows, pitch := bufPitch buf z.rows, src := some (t, z.gen) } }
  else y

/-! ### MSTA (R272, R273) -/

def mstaCount (n : Nat) : Nat := if n = 0 then 64 else n

/-- R272: the legality of an MSTA's operands. -/
def mstaOk (x : Tile) (sc : Option Tile) (nr nc : Nat) (e : Elem) (swz : Nat) : Bool :=
  nr ≤ 64 && nc ≤ 64 && !(e == .e2m1 && nc % 2 == 1) && nr ≤ x.rows && nc * e.bits / 8 ≤ x.pitch &&
  x.pitch % (32 * 2 ^ swz) == 0 &&
  match sc with
  | none => true
  | some z => nr ≤ z.rows && 32 ≤ z.pitch

/-- MSTA (R272). -/
def execMsta (h : Hdr) (d : Opd) (acc : BitVec 3) (b : Opd) (rm : Rm) (sat sc : Bool) (swz : BitVec 2) (t st : BitVec 6)
    (ofmt : Elem) (ctx : Bool) (s : State) : Host.Outcome State Fault Refusal :=
  let tc := 4 + ctx.toNat
  let n := t.toNat
  let tiles := n :: (if sc then [st.toNat] else [])
  let need : List (Nat × TileNeed) := tiles.map fun u => (u, .fill)
  let nr (v : List Dword) : Nat := mstaCount ((v.getD 0 0).toNat % 2 ^ 7)
  let nc (v : List Dword) : Nat := mstaCount ((v.getD 0 0).toNat / 2 ^ 8 % 2 ^ 7)
  .next (issueWake { plainOp (.msta h d acc b rm sat sc swz t st ofmt ctx) h [⟨b, 1, false⟩] [(d, 2)] fun s c v =>
    match tilesWait s c need with
    | some u => (s, .stand (.retry u))
    | none =>
      match cmdWait s c tc with
      | some w => (s, .stand w)
      | none =>
        let k := c.grp.block s
        let now := s.now
        let s := s.modBody k fun y =>
          let y := y.modTile n (beginFill now swz.toNat)
          if sc then y.modTile st.toNat (beginFill now 0) else y
        let num := nr v * (sectorsOf (nc v * ofmt.bits / 8) + if sc then 1 else 0)
        numberTo (issueCmd s c tc (.msta acc.toNat (nr v) (nc v) rm sat swz.toNat n (if sc then some st.toNat else none) ofmt)
          false (List.range num) false) c d with
    tiles := tiles, tcs := [tc], noAct := true
    pre := fun s c v =>
      let y := (s.blk (c.grp.block s)).body
      if !holdsEngine s c then some (engineEv 1 0)
      else afterTiles s c need
        (if mstaOk (y.tile n) (if sc then some (y.tile st.toNat) else none) (nr v) (nc v) ofmt swz.toNat then none
         else some (engineEv 9 0)) } s)

/-- Accumulator element (i, j). -/
def accElem (y : Body) (acc i j : Nat) : Val := fp32.decode (Tab.get 0 y.acc (4096 * acc + 64 * i + j)).toNat

/-- R273: the scale of a block of up to 32 columns of a row. DEDUCED, unsafe (log 22). -/
def blockScale (y : Body) (acc i blk nc : Nat) (e : Elem) : Nat :=
  let vs := ((List.range 32).filter fun j => 32 * blk + j < nc).map fun j => accElem y acc i (32 * blk + j)
  if vs.any fun v => v.isNan || v.isInf then 0x3FF
  else
    let amax := vs.foldl (fun m v => let a := v.withSign false; if Val.lt m a then a else m) (.num false 0 1)
    if amax.isZero then 0x1FC
    else
      let top : Val := match elemFl e with
        | some f => f.decode f.maxEnc
        | none => .num false 1 1
      let need := Val.div amax top
      ((List.range 1020).find? fun c => !Val.lt (scaleVal c) need).getD 1019

/-- R272: the code an element is stored as. -/
def mstaElem (y : Body) (x : Cmd) (seed : Dword) (acc i j nc : Nat) (rm : Rm) (sat : Bool) (sc : Bool) (e : Elem) : Nat :=
  let v := accElem y acc i j
  let s := blockScale y acc i (j / 32) nc e
  let q := if sc && s != 0x3FF then Val.div v (scaleVal s) else v
  elemConv e rm sat (stochBits seed x.wid x.icount (64 * i + j)) q

/-- One landing of an MSTA. -/
def mstaStep (now : Nat) (waits : Nat → Option Nat) (seed : Dword) (x : Cmd) (acc nr nc : Nat) (rm : Rm) (sat : Bool)
    (t : Nat) (sc : Option Nat) (e : Elem) (n : Nat) (y : Body) : Body :=
  let per := sectorsOf (nc * e.bits / 8)
  let isData := n < nr * per
  let m := if isData then n / per else n - nr * per
  let k := n % per
  let bytes := if isData then
      packSector e.bits (min 32 (nc * e.bits / 8 - 32 * k))
        ((sectorElems e.bits nc k).map fun j => mstaElem y x seed acc m j nc rm sat sc.isSome e)
    else toBytes 4 (((List.range ((nc + 31) / 32)).map fun q => blockScale y acc m q nc e * 2 ^ (10 * q)).sum)
  let u := if isData then t else sc.getD 0
  let y := { y with scratch := Tab.setRun 0 y.scratch (tileSector (y.tile u) m (if isData then k else 0)) bytes }
  let y := y.modTile u fun z => { z with stamp := { z.stamp with bytes := z.stamp.bytes + bytes.length } }
  let x := x.landed n
  let y := replaceCmd x y
  if x.left = [] then
    let r := Tab.get AccRec.none y.accRecs acc
    let ready (u : Nat) (y : Body) : Body := y.modTile u fun z =>
      stampReady now (waits u) { z with st := .ready, vrows := nr, stamp := { z.stamp with
        comps := r.comps, compe := r.compe, ksteps := r.ksteps } }
    let y := (t :: sc.toList).foldl (fun y u => ready u y) y
    { y with accRecs := Tab.put y.accRecs acc AccRec.none }
  else y

/-! ### Order on accumulators (R270) -/

/-- R270: every operation on the accumulator issued earlier has taken effect; outside a DET launch two
accumulating MMAs of different contexts may interleave. -/
def accReady (y : Body) (det : Bool) (x : Cmd) : Bool :=
  match cmdAcc x with
  | none => true
  | some a => (earlier y x).all fun c =>
    cmdAcc c != some a || c.left.isEmpty || (!det && addsMma c && addsMma x && c.tc != x.tc)

/-- R275: the commands of one context start in issue order. -/
def ctxTurn (y : Body) (x : Cmd) : Bool := (earlier y x).all fun c => c.tc != x.tc || c.started

/-- An operation on an accumulator still has to take effect. -/
def accBusy (y : Body) (a : Nat) : Bool := y.cmds.any fun c => cmdAcc c == some a && !c.left.isEmpty

/-! ### MREAD and MWRITE (R274) -/

def mIndex (v : Dword) (i : BitVec 12) : Nat := (v.toNat + i.toNat) % 4096

/-- MREAD (R274): behind earlier operations on the accumulator it keeps its place among them, its
register empty. -/
def execMread (h : Hdr) (d : Opd) (acc : BitVec 3) (b : Opd) (i : BitVec 12) (s : State) :
    Host.Outcome State Fault Refusal :=
  .next (issue { plainOp (.mread h d acc b i) h [⟨b, 1, false⟩] [(d, 1)] fun s c v =>
    let k := c.grp.block s
    let y := (s.blk k).body
    let e := mIndex (v.getD 0 0) i
    match d with
    | .g r =>
      if accBusy y acc.toNat then
        (((issueCmd s c 8 (.mread acc.toNat e r.toNat) false [0] false).1).modThr c fun t =>
          { t with empty := Tab.set false t.empty r.toNat true }, .seq)
      else (wrLate s c r.toNat (Tab.get 0 y.acc (4096 * acc.toNat + e)), .seq)
    | .s _ | .p _ | .q _ | .j _ | .a _ | .tc _ | .z => (s, .seq) with
    noAct := true, pre := fun s c _ => if holdsEngine s c then none else some (engineEv 1 0) } s)

/-- MWRITE (R274). -/
def execMwrite (h : Hdr) (acc : BitVec 3) (b c : Opd) (i : BitVec 12) (s : State) : Host.Outcome State Fault Refusal :=
  .next (issue { plainOp (.mwrite h acc b c i) h [⟨b, 1, false⟩, ⟨c, 1, false⟩] [] fun s cx v =>
    let k := cx.grp.block s
    let e := mIndex (v.getD 0 0) i
    if accBusy (s.blk k).body acc.toNat then
      ((issueCmd s cx 8 (.mwrite acc.toNat e (v.getD 1 0).lo) false [0] false).1, .seq)
    else (s.modBody k fun y => { y with acc := Tab.set 0 y.acc (4096 * acc.toNat + e) (v.getD 1 0).lo }, .seq) with
    noAct := true, pre := fun s c _ => if holdsEngine s c then none else some (engineEv 1 0) } s)

/-! ### The events of the matrix engine -/

/-- R265: an MMA that may begin its first k-step. -/
def mmaMayStart (y : Body) (det : Bool) (x : Cmd) : Bool :=
  !x.started && ctxTurn y x && accReady y det x && match x.kind with
    | .mma _ _ _ _ => true
    | _ => false

/-- MMA_START (R265): the buffer checks, and the first k-step may run. -/
def execMmaStart (blk tc num : Nat) (s : State) : Host.Outcome State Fault Refusal :=
  guarded (fun s => match s.cmd blk tc num with
    | some x =>
      let y := (s.blk blk).body
      match x.kind with
      | .mma addr p ta tb =>
        if mmaMayStart y (s.launch (s.blk blk).launch).det x then
          let n := startCondition y p ta tb
          if n = 0 then s.setCmd blk { x with started := true }
          else wake (cmdFault (finishCmd s blk x 2) blk x (engineEv n addr))
        else s
      | _ => s
    | none => s) s

/-- A landing that the matrix engine may perform now. -/
def matrixDue (y : Body) (det : Bool) (x : Cmd) : Bool :=
  !x.left.isEmpty && accReady y det x && match x.kind with
    | .mma _ _ _ _ => x.started
    | .mzero _ | .mprom _ | .msta _ _ _ _ _ _ _ _ _ => ctxTurn y x
    | .mlda _ _ buf | .mldb _ _ buf => ctxTurn y x && !mmaReads y x buf
    | .mread _ _ _ | .mwrite _ _ _ => true
    | .tload _ _ _ _ _ _ | .tstore _ _ _ _ | .tloadb _ _ _ _ | .tmcast _ _ _ _ _ | .rsum _ _ _ _ | .fetchpg _ _ _
    | .put _ _ _ _ _ _ | .get _ _ _ _ _ | .postc _ _ _ => false

/-- What a landing of a matrix command does to a body that holds the command. -/
def matrixStep (now : Nat) (waits : Nat → Option Nat) (seed : Dword) (det : Bool) (x : Cmd) (n : Nat) (y : Body) : Body :=
  match y.cmds.find? fun c => c.same x with
  | none => y
  | some x =>
    match x.kind with
    | .mma _ p ta tb => if n = 0 then mmaStep now det x p ta tb y else mmaPromote x p ta (n - 1) y
    | .mzero a =>
      replaceCmd (x.landed n) { y with
        acc := y.acc.filter fun e => e.1 / 4096 != a, accRecs := Tab.put y.accRecs a AccRec.none }
    | .mprom _ => replaceCmd (x.landed n) y
    | .mlda t sc buf | .mldb t sc buf => mldStep x t sc buf n y
    | .msta acc nr nc rm sat _ t sc e => mstaStep now waits seed x acc nr nc rm sat t sc e n y
    | .mread acc i r =>
      let t := Tab.get Thread.none y.threads x.thr
      let v := Tab.get 0 y.acc (4096 * acc + i)
      let y := removeCmd x y
      if t.st = .gone then y else { y with threads := Tab.put y.threads x.thr (t.setReg r v) }
    | .mwrite acc i v => removeCmd x { y with acc := Tab.set 0 y.acc (4096 * acc + i) v }
    | .tload _ _ _ _ _ _ | .tstore _ _ _ _ | .tloadb _ _ _ _ | .tmcast _ _ _ _ _ | .rsum _ _ _ _ | .fetchpg _ _ _
    | .put _ _ _ _ _ _ | .get _ _ _ _ _ | .postc _ _ _ => y

/-- A landing of a matrix command. -/
def landMatrix (s : State) (b : Nat) (x : Cmd) (n : Nat) : State :=
  let k := s.blk b
  let l := s.launch k.launch
  let waits (t : Nat) : Option Nat := waitsFor s b t x.tc x.num none
  let now := s.now
  let s := s.modEngine b x.fresh (matrixStep now waits l.seed l.det x n)
  let s := if x.tc = 8 then tcComplete s x.core x.slot 8 x.num else s
  match x.kind with
  | .mma _ _ _ _ =>
    let cs := s.cslot k.core k.slot
    if n = 0 then s.count cs.part (some cs.vf) (coreField k.core) 0x50 1 else s
  | _ => s

/-- R276: the command stands at a boundary where the engine can stop: the end of a k-step, or of a 64-byte beat. -/
def atBoundary (y : Body) (x : Cmd) : Bool :=
  let beats (n : Nat) : Bool := x.left.all fun i => x.left.contains (i ^^^ 1) || decide (n ≤ i ^^^ 1)
  let pitch (t : Nat) : Nat := (y.tile t).pitch / 32
  match x.kind with
  | .mma _ _ _ _ => x.left.all (· == 0)
  | .mlda t sc _ | .mldb t sc _ => beats ((y.tile t).rows * (pitch t + match sc with | some u => pitch u | none => 0))
  | .msta _ nr nc _ _ _ _ sc e => beats (nr * (sectorsOf (nc * e.bits / 8) + sc.isSome.toNat))
  | .mzero _ | .mprom _ | .mread _ _ _ | .mwrite _ _ _ | .tload _ _ _ _ _ _ | .tstore _ _ _ _ | .tloadb _ _ _ _
  | .tmcast _ _ _ _ _ | .rsum _ _ _ _ | .fetchpg _ _ _ | .put _ _ _ _ _ _ | .get _ _ _ _ _ | .postc _ _ _ => true

/-- A matrix command on tc4 or tc5 whose work is done. -/
def matrixDone (x : Cmd) : Bool :=
  x.left.isEmpty && match x.kind with
    | .mma _ _ _ _ | .mzero _ | .mprom _ | .mlda _ _ _ | .mldb _ _ _ | .msta _ _ _ _ _ _ _ _ _ => true
    | .mread _ _ _ | .mwrite _ _ _ | .tload _ _ _ _ _ _ | .tstore _ _ _ _ | .tloadb _ _ _ _ | .tmcast _ _ _ _ _
    | .rsum _ _ _ _ | .fetchpg _ _ _ | .put _ _ _ _ _ _ | .get _ _ _ _ _ | .postc _ _ _ => false

/-- MATRIX_COMMAND_COMPLETE (R275). -/
def execMatrixCommandComplete (blk tc num : Nat) (s : State) : Host.Outcome State Fault Refusal :=
  .next (match s.cmd blk tc num with
    | some x => if matrixDone x then wake (finishCmd s blk x 0) else s
    | none => s)

end Sys2Proof.Machine
end

