-- ==== Sys2Proof/Machine/Alu.lean ====
section
/-! DEFINITION. The results of the integer, floating, packed and special-function instructions as
functions of their operands (R139 to R145, R155 to R172), and of the PAIR sub-operations (R100, R101). -/

namespace Sys2Proof.Machine

open Sys2Proof

/-! ### Integer (R139 to R145) -/

def mulHigh (a b : Word) : Word := .ofInt 32 (a.toInt * b.toInt / 2 ^ 32)
def mulHighU (a b : Word) : Word := .ofNat 32 (a.toNat * b.toNat / 2 ^ 32)

/-- R141. -/
def divU (a b : Word) : Word := if b = 0 then .allOnes 32 else .ofNat 32 (a.toNat / b.toNat)
def remU (a b : Word) : Word := if b = 0 then a else .ofNat 32 (a.toNat % b.toNat)
def divS (a b : Word) : Word := if b = 0 then .allOnes 32 else .ofInt 32 (Int.tdiv a.toInt b.toInt)
def remS (a b : Word) : Word := if b = 0 then a else .ofInt 32 (Int.tmod a.toInt b.toInt)

def minS (a b : Word) : Word := if a.toInt ≤ b.toInt then a else b
def maxS (a b : Word) : Word := if a.toInt ≤ b.toInt then b else a
def minU (a b : Word) : Word := if a.toNat ≤ b.toNat then a else b
def maxU (a b : Word) : Word := if a.toNat ≤ b.toNat then b else a
def absW (a : Word) : Word := if a.toInt < 0 then 0 - a else a

/-- R142: the count, reduced with WRAP. -/
def shiftCount (w : Nat) (wrap : Bool) (n : Word) : Nat := if wrap then n.toNat % w else n.toNat

def shiftL {w : Nat} (wrap : Bool) (a : BitVec w) (n : Word) : BitVec w :=
  if w ≤ shiftCount w wrap n then 0 else a <<< shiftCount w wrap n
def shiftR {w : Nat} (wrap : Bool) (a : BitVec w) (n : Word) : BitVec w :=
  if w ≤ shiftCount w wrap n then 0 else a >>> shiftCount w wrap n
def shiftA {w : Nat} (wrap : Bool) (a : BitVec w) (n : Word) : BitVec w :=
  if w ≤ shiftCount w wrap n then (if a.msb then .allOnes w else 0) else a.sshiftRight (shiftCount w wrap n)

def rotL (a n : Word) : Word := a.rotateLeft (n.toNat % 32)

/-- R143. -/
def funnel (left : Bool) (a b c : Word) : Word :=
  let v := Dword.mk b a
  if left then Dword.hi (v <<< (c.toNat % 32)) else Dword.lo (v >>> (c.toNat % 32))

def popW (a : Word) : Word := .ofNat 32 (popcount32 a.toNat 32)
where
  /-- Set bits among the n low bits. -/
  popcount32 (m : Nat) : Nat → Nat
    | 0 => 0
    | n + 1 => m % 2 + popcount32 (m / 2) n

def clzW (a : Word) : Word := .ofNat 32 (((List.range 32).find? fun i => a.getLsbD (31 - i)).getD 32)
def ctzW (a : Word) : Word := .ofNat 32 (((List.range 32).find? fun i => a.getLsbD i).getD 32)
def brevW (a : Word) : Word :=
  (List.range 32).foldl (fun x i => if a.getLsbD i then x ||| BitVec.ofNat 32 (2 ^ (31 - i)) else x) 0

/-- R143: position and length of a field from b. -/
def fieldPos (b : Word) : Nat := b.toNat % 256
def fieldLen (b : Word) : Nat :=
  if fieldPos b < 32 then min (b.toNat / 256 % 256) (32 - fieldPos b) else 0

def bfe (sgn : Bool) (a b : Word) : Word :=
  let l := fieldLen b
  if l = 0 then 0
  else
    let f := a.toNat / 2 ^ fieldPos b % 2 ^ l
    if sgn ∧ 2 ^ (l - 1) ≤ f then .ofNat 32 (f + (2 ^ 32 - 2 ^ l)) else .ofNat 32 f

def bfi (a b c : Word) : Word :=
  let l := fieldLen b
  if l = 0 then c
  else
    let old := c.toNat / 2 ^ fieldPos b % 2 ^ l
    .ofNat 32 (c.toNat - old * 2 ^ fieldPos b + a.toNat % 2 ^ l * 2 ^ fieldPos b)

/-- R143: one byte of BYSEL under its control byte. -/
def byselByte (a c : Word) (s : Nat) : Nat :=
  let src := s % 8
  let pick := (if src < 4 then a.toNat / 2 ^ (8 * src) else c.toNat / 2 ^ (8 * (src - 4))) % 256
  let rev := if s / 8 % 2 = 1 then
    ((List.range 8).map fun i => pick / 2 ^ i % 2 * 2 ^ (7 - i)).sum else pick
  let fill := match s / 16 % 4 with
    | 0 => rev
    | 1 => if 128 ≤ rev then 255 else 0
    | 2 => if rev % 2 = 1 then 255 else 0
    | _ => 255 - rev
  match s / 64 % 4 with
  | 0 => fill
  | 1 => 0
  | 2 => 255
  | _ => fill % 128

def bysel (a sel c : Word) : Word :=
  .ofNat 32 (((List.range 4).map fun i => byselByte a c (sel.toNat / 2 ^ (8 * i) % 256) * 2 ^ (8 * i)).sum)

/-- R143: the immediate of BYSEL spread over the four control bytes. -/
def byselImm (imm : BitVec 16) : Word :=
  .ofNat 32 (((List.range 4).map fun i => imm.toNat / 2 ^ (4 * i) % 16 * 2 ^ (8 * i)).sum)

/-- R145. -/
def lea (scale : Nat) (iu : Bool) (a : Dword) (b : Word) (imm : BitVec 16) : Dword :=
  a + ((if iu then b.zeroExtend 64 else b.signExtend 64) <<< scale) + imm.signExtend 64

/-! ### FP32 (R155 to R160) -/

/-- The value with its sign inverted; a NaN keeps its sign (R105). -/
def negVal : Val → Val
  | .num b n d => .num (!b) n d
  | .inf b => .inf (!b)
  | .nan b => .nan b

def fAdd (r : Rnd) (rnd : Nat → Nat) (a b : Word) : Word :=
  f32Out r (rnd 0) (Val.add r.rm (f32In r.ftz a) (f32In r.ftz b))
def fSub (r : Rnd) (rnd : Nat → Nat) (a b : Word) : Word :=
  f32Out r (rnd 0) (Val.add r.rm (f32In r.ftz a) (negVal (f32In r.ftz b)))
def fMul (r : Rnd) (rnd : Nat → Nat) (a b : Word) : Word :=
  f32Out r (rnd 0) (Val.mul (f32In r.ftz a) (f32In r.ftz b))
def fFma (r : Rnd) (rnd : Nat → Nat) (a b c : Word) : Word :=
  f32Out r (rnd 0) (Val.fma r.rm (f32In r.ftz a) (f32In r.ftz b) (f32In r.ftz c))
def fDiv (r : Rnd) (rnd : Nat → Nat) (a b : Word) : Word :=
  f32Out r (rnd 0) (Val.div (f32In r.ftz a) (f32In r.ftz b))

/-- R156. -/
def fMinMax (max? ftz : Bool) (a b : Word) : Word :=
  .ofNat 32 (fp32.round .rn false 0 (Val.minmax max? (f32In ftz a) (f32In ftz b)))

/-- R157: a sign operation on the bits of a number; a NaN gives the canonical NaN of its sign. -/
def fSign (ftz : Bool) (a : Word) (sign : Bool → Bool) : Word :=
  let x := ftzIn ftz a.toNat
  match fp32.decode x with
  | .nan b => .ofNat 32 (fp32.nanCode b)
  | .inf _ | .num _ _ _ => .ofNat 32 (x % 2 ^ 31 + if sign (2 ^ 31 ≤ x) then 2 ^ 31 else 0)

def fAbs (ftz : Bool) (a : Word) : Word := fSign ftz a fun _ => false
def fNeg (ftz : Bool) (a : Word) : Word := fSign ftz a not
def fCopys (ftz : Bool) (a b : Word) : Word := fSign ftz a fun _ => b.msb

/-- R158. -/
def fcmp (c : FCmp) (a b : Val) : Bool :=
  let un := a.isNan || b.isNan
  match c with
  | .eq => !un && Val.eqv a b
  | .ne => !un && !Val.eqv a b
  | .lt => !un && Val.lt a b
  | .le => !un && !Val.lt b a
  | .gt => !un && Val.lt b a
  | .ge => !un && !Val.lt a b
  | .equ => un || Val.eqv a b
  | .neu => un || !Val.eqv a b
  | .ltu => un || Val.lt a b
  | .leu => un || !Val.lt b a
  | .gtu => un || Val.lt b a
  | .geu => un || !Val.lt a b
  | .num => !un
  | .nan => un

/-- R159: the class of a code. -/
def fclassOf (f : Fl) (x : Nat) : Nat :=
  let normal := 2 ^ f.fb ≤ x % 2 ^ (f.bits - 1)
  match f.decode x with
  | .nan b => if b then 9 else 8
  | .inf b => if b then 0 else 7
  | .num b n _ =>
    if n = 0 then (if b then 3 else 4)
    else if normal then (if b then 1 else 6) else if b then 2 else 5

def classFl : ClassFmt → Fl
  | .f32 => fp32 | .f16 => fp16 | .bf16 => bf16 | .f64 => fp64

/-! ### Packed 16-bit (R161) and FP64 (R162) -/

/-- A result element by element of `b` bits. -/
def perEl (b n : Nat) (v : Nat → Nat) : Word :=
  .ofNat 32 (((List.range n).map fun i => v i % 2 ^ b * 2 ^ (b * i)).sum)

def hAdd (f : Fl) (r : Rnd) (rnd : Nat → Nat) (a b : Word) : Word :=
  perEl 16 2 fun i => f.round r.rm r.sat (rnd i) (Val.add r.rm (f.decode (getEl 16 a i)) (f.decode (getEl 16 b i)))
def hMul (f : Fl) (r : Rnd) (rnd : Nat → Nat) (a b : Word) : Word :=
  perEl 16 2 fun i => f.round r.rm r.sat (rnd i) (Val.mul (f.decode (getEl 16 a i)) (f.decode (getEl 16 b i)))
def hFma (f : Fl) (r : Rnd) (rnd : Nat → Nat) (a b c : Word) : Word :=
  perEl 16 2 fun i => f.round r.rm r.sat (rnd i)
    (Val.fma r.rm (f.decode (getEl 16 a i)) (f.decode (getEl 16 b i)) (f.decode (getEl 16 c i)))

def dAdd (r : Rnd) (rnd : Nat → Nat) (a b : Dword) : Dword :=
  .ofNat 64 (fp64.round r.rm r.sat (rnd 0) (Val.add r.rm (fp64.decode a.toNat) (fp64.decode b.toNat)))
def dMul (r : Rnd) (rnd : Nat → Nat) (a b : Dword) : Dword :=
  .ofNat 64 (fp64.round r.rm r.sat (rnd 0) (Val.mul (fp64.decode a.toNat) (fp64.decode b.toNat)))
def dFma (r : Rnd) (rnd : Nat → Nat) (a b c : Dword) : Dword :=
  .ofNat 64 (fp64.round r.rm r.sat (rnd 0)
    (Val.fma r.rm (fp64.decode a.toNat) (fp64.decode b.toNat) (fp64.decode c.toNat)))

/-! ### Conversions (R164 to R167) -/

/-- R164: the source bits of a code. -/
def cvt (r : Rnd) (rnd : Nat → Nat) (df sf : Elem) (a : Dword) : Dword :=
  .ofNat 64 (elemConv df r.rm r.sat (rnd 0) (elemValue sf (a.toNat % 2 ^ sf.bits)) % 2 ^ df.bits)

/-- R165. -/
def cvtpk (r : Rnd) (rnd : Nat → Nat) (df src : Elem) (k : Nat) (a b c : Word) : Word :=
  let conv (v : Word) (e : Nat) : Nat := elemConv df r.rm r.sat (rnd e) (elemValue src v.toNat) % 2 ^ df.bits
  let w := setEl df.bits (setEl df.bits c (2 * k) (conv a (2 * k))) (2 * k + 1) (conv b (2 * k + 1))
  if df = .s3 then .ofNat 32 (w.toNat % 2 ^ 30) else w

/-- R166. -/
def cvtupk (df sf : Elem) (i : Nat) (a : Word) : Word :=
  .ofNat 32 (elemConv df .rn false 0 (elemValue sf (getEl sf.bits a i)))

/-- R167. -/
def rndi (r : Rnd) (rnd : Nat → Nat) (a : Word) : Word :=
  match f32In r.ftz a with
  | .num b n d => f32Out r 0 (.num b (roundIntMag r.rm b n d (rnd 0)) 1)
  | .inf b => f32Out r 0 (.inf b)
  | .nan b => f32Out r 0 (.nan b)

/-! ### Packed FP8, dot products, scaling (R168 to R171) -/

def q8Fl (five : Bool) : Fl := if five then e5m2 else e4m3

def q8 (five : Bool) (r : Rnd) (rnd : Nat → Nat) (a b : Word) (op : Val → Val → Val) : Word :=
  let f := q8Fl five
  perEl 8 4 fun i => f.round r.rm r.sat (rnd i) (op (f.decode (getEl 8 a i)) (f.decode (getEl 8 b i)))

/-- R169. -/
def idp4 (ua ub : Bool) (a b c : Word) : Word :=
  let byte (u : Bool) (w : Word) (i : Nat) : Int :=
    let x := getEl 8 w i
    if u ∨ x < 128 then x else (x : Int) - 256
  .ofInt 32 (c.toInt + ((List.range 4).map fun i => byte ua a i * byte ub b i).sum)

/-- R170: the sum of products and c, signed NaN by the first NaN operand. -/
def dotVal (rm : Rm) (as bs : List Val) (c : Val) : Val :=
  match (as ++ bs ++ [c]).find? Val.isNan with
  | some v => v
  | none => Val.sum rm (c :: (as.zip bs).map fun p => Val.mul p.1 p.2)

def fdp (fa fb : Fl) (n : Nat) (r : Rnd) (rnd : Nat → Nat) (a b c : Word) : Word :=
  let els (f : Fl) (w : Word) : List Val := (List.range n).map fun i => f.decode (getEl f.bits w i)
  f32Out r (rnd 0) (dotVal r.rm (els fa a) (els fb b) (fp32.decode c.toNat))

/-- R171. Scales beyond 2^±1000 round as 2^±1000 does. DEDUCED, safe (log 21). -/
def scalex (r : Rnd) (rnd : Nat → Nat) (e8m2 : Bool) (i : Nat) (a b : Word) : Word :=
  let scale := if e8m2 then scaleVal (b.toNat / 2 ^ (10 * i) % 1024)
    else Val.dyadic false 1 (max (-1000) (min 1000 b.toInt))
  f32Out r (rnd 0) (if scale.isNan then .nan false else Val.mul (fp32.decode a.toNat) scale)

/-! ### PAIR sub-operations (R100, R101) -/

def subRnd (x : SubOp) : Rnd :=
  { rm := match (x.smod.extractLsb' 0 3).toNat with
      | 0 => .rn | 1 => .rz | 2 => .ru | 3 => .rd | _ => .rs
    sat := x.smod.getLsbD 3, ftz := x.smod.getLsbD 4 }

/-- The result of a sub-operation of a, b and its own D. -/
def subValue (x : SubOp) (rnd : Nat → Nat) (a b d : Word) : Word :=
  let r := subRnd x
  let r0 : Rnd := { r with ftz := false }
  let ftz := x.smod.getLsbD 4
  match x.sop with
  | .iadd => a + b
  | .isub => a - b
  | .imul => a * b
  | .imulh => mulHigh a b
  | .imulhu => mulHighU a b
  | .imad => a * b + d
  | .imin => minS a b
  | .imax => maxS a b
  | .iminu => minU a b
  | .imaxu => maxU a b
  | .iabs => absW a
  | .ineg => 0 - a
  | .and => a &&& b
  | .or => a ||| b
  | .xor => a ^^^ b
  | .not => ~~~ a
  | .andn => a &&& ~~~ b
  | .shl => shiftL false a b
  | .shr => shiftR false a b
  | .sar => shiftA false a b
  | .rotl => rotL a b
  | .popc => popW a
  | .clz => clzW a
  | .ctz => ctzW a
  | .brev => brevW a
  | .bfe => bfe false a b
  | .bysel => bysel a b 0
  | .mov => a
  | .fadd => fAdd r rnd a b
  | .fsub => fSub r rnd a b
  | .fmul => fMul r rnd a b
  | .ffma => fFma r rnd a b d
  | .fmin => fMinMax false ftz a b
  | .fmax => fMinMax true ftz a b
  | .fabs => fAbs ftz a
  | .fneg => fNeg ftz a
  | .fcopys => fCopys ftz a b
  | .fdiv => fDiv r rnd a b
  | .hadd2 => hAdd fp16 r0 rnd a b
  | .hmul2 => hMul fp16 r0 rnd a b
  | .hfma2 => hFma fp16 r0 rnd a b d
  | .badd2 => hAdd bf16 r0 rnd a b
  | .bmul2 => hMul bf16 r0 rnd a b
  | .bfma2 => hFma bf16 r0 rnd a b d
  | .cvt =>
    let (df, sf) : Elem × Elem := match (x.smod.extractLsb' 4 2).toNat with
      | 0 => (.s32, .f32) | 1 => (.u32, .f32) | 2 => (.f32, .s32) | _ => (.f32, .u32)
    (cvt r0 rnd df sf (a.zeroExtend 64)).lo
  | .rndi => rndi r rnd a
  | .q8add => q8 false r0 rnd a b (Val.add r.rm)
  | .q8mul => q8 false r0 rnd a b Val.mul
  | .q8min => q8 false r0 rnd a b (Val.minmax false)
  | .q8max => q8 false r0 rnd a b (Val.minmax true)
  | .idp4 => idp4 (x.smod.getLsbD 4) (x.smod.getLsbD 5) a b d
  | .fdp2 => fdp bf16 bf16 2 r0 rnd a b d
  | .scalex => scalex r0 rnd false 0 a b
  | .rcp => sfuResult .rcp a
  | .rsq => sfuResult .rsq a
  | .sqrt => sfuResult .sqrt a
  | .exp2 => sfuResult .exp2 a
  | .log2 => sfuResult .log2 a
  | .exp => sfuResult .exp a
  | .log => sfuResult .log a
  | .sinpi => sfuResult .sinpi a
  | .cospi => sfuResult .cospi a
  | .tanh => sfuResult .tanh a
  | .sigm => sfuResult .sigm a

/-- R100: sub-operations whose D is set empty at issue. -/
def subLate (x : SubOp) : Bool := x.sop.sfu || x.sop == .fdiv

end Sys2Proof.Machine
end

