-- ==== Sys2Proof/Machine/Replay.lean ====
section
/-! DEFINITION. The Kerell log (R376 to R378): recording of atomics, timer reads and vectorings, and their
replay. -/

namespace Sys2Proof.Machine

open Sys2Proof

/-- R377: a log entry. -/
def logEntry (wid icount kind value seq : Nat) : List Byte :=
  toBytes 8 wid ++ toBytes 6 icount ++ toBytes 1 kind ++ toBytes 1 0 ++ toBytes 8 value ++ toBytes 4 seq ++ toBytes 4 0

/-- A device write into a log, in its context's slot 0. -/
def logStore (s : State) (l : Nat) (off : Nat) (bs : List Byte) : State :=
  (storeTo s (ctxAgent s (s.launch l).ctx) ((s.launch l).logBase + off) 1 false false bs).1

/-- R377: writes one entry, or sets TRUNC when the log is full. -/
def logAppend (s : State) (l : Nat) (rec_ : List Byte) : State :=
  let x := s.launch l
  if x.logLen < 64 + 32 * (x.logN + 1) then logStore s l 4 (toBytes 1 2)
  else (logStore s l (64 + 32 * x.logN) rec_).modLaunch l fun x => { x with logN := x.logN + 1 }

/-- R377: the header, at acceptance. -/
def logHeader (s : State) (l : Nat) : State :=
  let x := s.launch l
  logStore s l 0 (toBytes 4 0x5A4B4C31 ++ toBytes 4 0 ++ toBytes 8 0 ++ toBytes 8 x.kpc.toNat ++
    toBytes 8 (x.word 1).toNat ++ toBytes 8 x.lastWid.toNat ++ toBytes 8 x.seed.toNat ++ List.replicate 16 0)

/-- R377: COMPLETE and COUNT, when the launch has ended. -/
def logClose (s : State) (l : Nat) : State :=
  let x := s.launch l
  if x.logOn ≠ 1 then s
  else
    let trunc := match peek s (ctxAgent s x.ctx) (x.logBase + 4) 1 with
      | some bs => ofBytes bs / 2 % 2
      | none => 0
    logStore (logStore s l 4 (toBytes 1 (1 + 2 * trunc))) l 8 (toBytes 8 x.logN)

/-- The key of an atomic's 32-byte sector: of memory, or of a block's scratchpad. -/
def sectorKey (loc : Nat) : Nat := loc / 32
def scratchSector (b addr : Nat) : Nat := 2 ^ 80 + b * 2 ^ 20 + addr / 32

/-- A provisional entry of an atomic keeps its sector until the commit numbers it. -/
def pendingAtomic (sector : Nat) (r : List Byte) : Bool := r.length == 48 && ofBytes (r.drop 32) == sector

/-- R377: atomics of the launch applied to a sector, those of the block's own interval included. -/
def seqOf (s : State) (b sector : Nat) : Nat :=
  Tab.get 0 (s.launch (s.blk b).launch).logSeq sector + ((s.blk b).traces.filter (pendingAtomic sector)).length

/-- Enters one event of a block into the log, or keeps it until the block's commit. -/
def noteEntry (s : State) (c : Cx) (kind value : Nat) (sector : Option Nat) : State :=
  let b := c.grp.block s
  let l := (s.blk b).launch
  let w := (wid s c).toNat
  let ic := (s.thr c).icount.toNat
  if c.grp.rollback s ∧ !c.grp.isAct then
    s.modBlk b fun k => { k with traces := k.traces ++ [logEntry w ic kind value 0 ++
      (match sector with | some x => toBytes 16 x | none => [])] }
  else
    let n := match sector with | some x => Tab.get 0 (s.launch l).logSeq x | none => 0
    let s := match sector with
      | some x => s.modLaunch l fun y => { y with logSeq := Tab.put y.logSeq x (n + 1) }
      | none => s
    if (s.launch l).logOn = 1 then logAppend s l (logEntry w ic kind value n) else s

/-- R202, R377: a log entry of a committed interval. -/
def commitEntry (s : State) (l : Nat) (r : List Byte) : State :=
  if r.length = 48 then
    let x := ofBytes (r.drop 32)
    let n := Tab.get 0 (s.launch l).logSeq x
    let s := s.modLaunch l fun y => { y with logSeq := Tab.put y.logSeq x (n + 1) }
    if (s.launch l).logOn = 1 then logAppend s l (r.take 24 ++ toBytes 4 n ++ toBytes 4 0) else s
  else if (s.launch l).logOn = 1 then logAppend s l r else s

/-- R378: the entry of the replayed log for an event of a thread, with its number. -/
def replayEntry (s : State) (c : Cx) (kind : Nat) : Option (Nat × List Byte) :=
  let l := s.launch (s.blk (c.grp.block s)).launch
  let key := toBytes 8 (wid s c).toNat ++ toBytes 6 (s.thr c).icount.toNat ++ toBytes 1 kind
  (List.range l.replay.length).findSome? fun i =>
    let r := l.replay.getD i []
    if r.take 15 = key then some (i, r) else none

/-- R378, R416: the event of a replay that diverged. -/
def divergedEv (s : State) (c : Cx) (va : Nat) (e : Option (Nat × List Byte)) : Ev :=
  { code := 0x303, arg := 0, addr := va
    synd := match e with
      | some (i, _) => i
      | none => (s.launch (s.blk (c.grp.block s)).launch).replay.length }

/-- What the log says of an atomic before it is performed. -/
inductive LogAsk where
  | go | hold | diverged (e : Ev)
  deriving DecidableEq, Repr

/-- R378: an atomic waits until those of its sector with lower SEQ have been applied. -/
def askReplay (s : State) (c : Cx) (sector va : Nat) : LogAsk :=
  let b := c.grp.block s
  if (s.launch (s.blk b).launch).logOn ≠ 2 then .go
  else match replayEntry s c 1 with
  | none => .diverged (divergedEv s c va none)
  | some (i, r) =>
    let q := ofBytes ((r.drop 24).take 4)
    if seqOf s b sector < q then .hold
    else if q < seqOf s b sector then .diverged (divergedEv s c va (some (i, r))) else .go

/-- R377, R378: an atomic of a thread has been performed, returning a value. -/
def noteAtomic (s : State) (c : Cx) (sector va value : Nat) : State × Option Ev :=
  let l := s.launch (s.blk (c.grp.block s)).launch
  if l.logOn = 0 then (s, none)
  else
    let ev := if l.logOn = 2 then
        (match replayEntry s c 1 with
          | none => some (divergedEv s c va none)
          | some (i, r) =>
            if ofBytes ((r.drop 16).take 8) = value then none else some (divergedEv s c va (some (i, r))))
      else none
    (noteEntry s c 1 value (some sector), ev)

/-- R377, R378: a timer read. -/
def noteTimer (s : State) (c : Cx) (v : Dword) : State × Except Ev Dword :=
  let l := s.launch (s.blk (c.grp.block s)).launch
  if l.logOn = 2 then
    match replayEntry s c 2 with
    | some (_, r) => (s, .ok (.ofNat 64 (ofBytes ((r.drop 16).take 8))))
    | none => (s, .error (divergedEv s c 0 none))
  else if l.logOn = 1 then (noteEntry s c 2 v.toNat none, .ok v)
  else (s, .ok v)

end Sys2Proof.Machine
end

