-- ==== Sys2Proof/Machine/Atomics.lean ====
section
/-! DEFINITION. The atomics (R220 to R223): their operations, where each is performed, and their entries
in a recorded log (R377, R378). -/

namespace Sys2Proof.Machine

open Sys2Proof

/-! ### Operations (R221) -/

def rnPlain : Rnd := { rm := .rn, sat := false, ftz := false }

/-- R221: the new value of a 4-byte location. -/
def aop32 (o : Aop) (m v : Word) : Word :=
  match o with
  | .add => m + v
  | .and => m &&& v
  | .or => m ||| v
  | .xor => m ^^^ v
  | .min => if v.toInt < m.toInt then v else m
  | .max => if m.toInt < v.toInt then v else m
  | .minu => if v.toNat < m.toNat then v else m
  | .maxu => if m.toNat < v.toNat then v else m
  | .exch => v
  | .inc => if v.toNat ≤ m.toNat then 0 else m + 1
  | .dec => if m = 0 ∨ v.toNat < m.toNat then v else m - 1
  | .fadd => fAdd rnPlain (fun _ => 0) m v
  | .fmin => fMinMax false false m v
  | .fmax => fMinMax true false m v
  | .hadd2 => hAdd fp16 rnPlain (fun _ => 0) m v
  | .badd2 => hAdd bf16 rnPlain (fun _ => 0) m v

/-- R221: the new value of an 8-byte location; the operations of 4 bytes alone leave it. -/
def aop64 (o : Aop) (m v : Dword) : Dword :=
  match o with
  | .add => m + v
  | .and => m &&& v
  | .or => m ||| v
  | .xor => m ^^^ v
  | .min => if v.toInt < m.toInt then v else m
  | .max => if m.toInt < v.toInt then v else m
  | .minu => if v.toNat < m.toNat then v else m
  | .maxu => if m.toNat < v.toNat then v else m
  | .exch => v
  | .fadd => dAdd rnPlain (fun _ => 0) m v
  | .fmin => .ofNat 64 (fp64.round .rn false 0 (Val.minmax false (fp64.decode m.toNat) (fp64.decode v.toNat)))
  | .fmax => .ofNat 64 (fp64.round .rn false 0 (Val.minmax true (fp64.decode m.toNat) (fp64.decode v.toNat)))
  | .inc | .dec | .hadd2 | .badd2 => m

/-- The bytes an operation leaves. -/
def aopBytes (o : Aop) (n : Nat) (m v : List Byte) : List Byte :=
  if n = 4 then toBytes 4 (aop32 o (.ofNat 32 (ofBytes m)) (.ofNat 32 (ofBytes v))).toNat
  else toBytes 8 (aop64 o (.ofNat 64 (ofBytes m)) (.ofNat 64 (ofBytes v))).toNat

/-- What an atomic does to the old bytes: the bytes it writes, or none. -/
inductive AtomKind where
  | aop (o : Aop)
  | cas
  deriving DecidableEq, Repr

/-- R222: the bytes written, none by a comparison that fails. -/
def AtomKind.new (k : AtomKind) (old b c : List Byte) : Option (List Byte) :=
  match k with
  | .aop o => some (aopBytes o old.length old b)
  | .cas => if old = c then some b else none

/-- R352: what a remote window serves. -/
def AtomKind.remoteOk (k : AtomKind) (n : Nat) (red : Bool) : Bool :=
  n == 8 && !red && match k with
    | .aop o => o == .add
    | .cas => true

/-! ### Performing an atomic -/

/-- What an atomic finds. -/
inductive ARes where
  | old (loc : Nat) (v : List Byte)
  | absent (loc : Nat)
  | far (win off : Nat)
  | ev (e : Ev)
  | wait (w : Wait)
  deriving DecidableEq, Repr

/-- An atomic on a line whose copies the directories keep (R223, R336): class 1 or 2, and not provisional. -/
def tracked (ag : Agent) (p : Piece) : Bool := ag.blk.isNone && p.cached && leafCc p.leaf != 0

/-- The old bytes of an atomic: with ownership or at the home, where the values are the same (R223); on class 0 at
the home, with the cluster's own bytes there (R186); or the block's provisional copy (R202). -/
def atomicOld (s : State) (ag : Agent) (p : Piece) : State × List Byte :=
  if tracked ag p then (s, s.bytes p.pa p.len)
  else if ag.blk.isSome then readPiece s ag 1 true p
  else readPiece s ag 3 false p

/-- The write of an atomic. -/
def atomicWrite (s : State) (ag : Agent) (p : Piece) (bs : List Byte) : State × WRes :=
  if tracked ag p then
    match homeWrite s (ag.writer true) p.loc p.pa (leafMk p.leaf) (offsets p.loc bs) with
    | (s, some e) => (s, .ev e)
    | (s, none) => (s, .done)
  else writePiece s ag 3 false true p bs

/-- R336: where an atomic is performed, and the copies that moves. -/
def atomicMoves (s : State) (ag : Agent) (sc : Scope) (p : Piece) : State :=
  if tracked ag p then
    let cl := coreCluster ag.core
    let home := p.pa / 2 ^ 46
    fitDirs (cohAtomic s cl ag.ctx p.loc home (sc != .block) (byteMask (p.loc % 128) p.len)) (cl / 48) p.loc home
  else s

/-- R222, R223: an atomic on global memory; the replayed log is asked about its sector, and about that of one that
is not performed for want of a resident page (R189, R377). DEDUCED, unsafe (log 33). -/
def atomicAt (s : State) (c : Cx) (i : Instr) (va n : Nat) (k : AtomKind) (red : Bool) (sc : Scope) (b x : List Byte) :
    State × ARes :=
  let ag := actAgent s c
  match resolve s ag { r := true, w := true, x := false, remoteOk := k.remoteOk n red } va n with
  | (s, .error e) => (s, .ev e)
  | (s, .ok []) => (s, .absent 0)
  | (s, .ok (p :: ps)) =>
    let gone := (p :: ps).any Piece.absent
    if p.remote && !gone then
      (if ag.blk.isSome then (s, .wait (.interval i)) else (s, .far (remoteWin p.pa) (remoteOff p.pa)))
    else if !gone && ag.blk.isNone && s.held.any (fun h => h.pa == p.pa / 128 * 128) then
      (s, .wait (.retry (.heldAt (p.pa / 128 * 128))))
    else if !gone && ag.blk.any (fun z => !provFits s z (p :: ps)) then (s, .wait .pressure)
    else match askReplay s c (sectorKey p.loc) va with
    | .hold => (s, .wait (.retry .lag))
    | .diverged e => (s, .ev e)
    | .go =>
      if gone then (s, .absent p.loc)
      else
        let (s, old) := atomicOld s ag p
        let s := atomicMoves s ag sc p
        match k.new old b x with
        | none => (s, .old p.loc old)
        | some new =>
          match atomicWrite s ag p new with
          | (s, .done) => (s, .old p.loc old)
          | (s, .ev e) => (s, .ev e)

/-- Sends a FETCH-ADD or CMP-SWAP for a thread (R352); its answer fills the destination. -/
def sendAtomic (s : State) (c : Cx) (d : Opd) (win off : Nat) (k : AtomKind) (b x : List Byte) : State :=
  let w := s.win (c.grp.cslot s).vf win
  let (s, reg, regs) := match d with
    | .g r => (s.modThr c fun t => openGroup t r.toNat [0, 0], r.toNat, 2)
    | .s _ | .p _ | .q _ | .j _ | .a _ | .tc _ | .z => (s, 0, 0)
  let ic := (s.thr c).icount.toNat % 2 ^ 64
  send s w.qpn
    (fun p => .atomic w.qpn p w.rkey (w.rbase + off) (k == .cas) (.ofNat 64 (ofBytes b)) (.ofNat 64 (ofBytes x)))
    (fun p => { psn := p, blk := c.grp.name, num := regs + 16 * ic + 2 ^ 68 * (2 ^ 40 * win + off), kind := 7, thr := c.n, reg := reg })

/-- R220, R432: an address that is not a multiple of the size. -/
def alignEv (va n : Nat) : Option Ev :=
  if va % n = 0 then none else some { code := 0x108, arg := 0, addr := va, synd := n }

/-- R220: the address of a global atomic. -/
def eaA (f : FA) (a : Dword) : Dword := a + f.imm.signExtend 64

/-- A global atomic: `red` returns nothing. -/
def atomOp (i : Instr) (h : Hdr) (f : FA) (k : AtomKind) (red : Bool) : Op :=
  let n := width f.size
  let regs := groupRegs n
  { plainOp i h ([⟨f.a, 2, f.e.getLsbD 0⟩, ⟨f.b, regs, f.e.getLsbD 1⟩] ++
        (match k with | .cas => [⟨f.c, regs, f.e.getLsbD 2⟩] | .aop _ => []))
      (if red then [] else [(f.d, regs)]) fun s c x =>
      if ordReleases f.order && heldBy s c then (s, .stand (.retry .heldLine))
      else
        let va := (eaA f (x.getD 0 0)).toNat
        let b := bytesOf n (rdGroup s c f.b regs)
        let y := bytesOf n (rdGroup s c f.c regs)
        let fin (s : State) : State × Next :=
          afterAccess (applyOrder (noteHint s (threadAgent s c) va n f.hint) c f.order f.scope) c va n true true
        match atomicAt s c i va n k red f.scope b y with
        | (s, .ev e) => (s, .event e)
        | (s, .wait w) => (s, .stand w)
        | (s, .absent loc) =>
          match noteAtomic s c (sectorKey loc) va 0 with
          | (s, some e) => (s, .event e)
          | (s, none) => fin (wrLateP (landGroup s c f.d (List.replicate regs 0)) c f.resp.toNat true)
        | (s, .far win off) => fin (progress (sendAtomic s c f.d win off k b y) (c.grp.block s))
        | (s, .old loc v) =>
          match noteAtomic s c (sectorKey loc) va (if red then 0 else ofBytes (v.take 8)) with
          | (s, some e) => (s, .event e)
          | (s, none) => fin (progress (landGroup s c f.d (wordsOf n v)) (c.grp.block s)) with
    ends := f.scope != .block
    pre := fun _ _ x => alignEv (eaA f (x.getD 0 0)).toNat n }

def opAtom (h : Hdr) (aop : Aop) (f : FA) : Op := atomOp (.atom h aop f) h f (.aop aop) false
def opCas (h : Hdr) (f : FA) : Op := atomOp (.cas h f) h f .cas false
def opCas128 (h : Hdr) (f : FA) : Op := atomOp (.cas128 h f) h f .cas false
def opRed (h : Hdr) (aop : Aop) (f : FA) : Op := atomOp (.red h aop f) h f (.aop aop) true

/-- ATOM (R220). -/
def execAtom (h : Hdr) (aop : Aop) (f : FA) (s : State) : Host.Outcome State Fault Refusal :=
  guarded (issueWake (opAtom h aop f)) s

/-- CAS (R220). -/
def execCas (h : Hdr) (f : FA) (s : State) : Host.Outcome State Fault Refusal :=
  guarded (issueWake (opCas h f)) s

/-- CAS128 (R220). -/
def execCas128 (h : Hdr) (f : FA) (s : State) : Host.Outcome State Fault Refusal :=
  guarded (issueWake (opCas128 h f)) s

/-- RED (R220). -/
def execRed (h : Hdr) (aop : Aop) (f : FA) (s : State) : Host.Outcome State Fault Refusal :=
  guarded (issueWake (opRed h aop f)) s

/-- ATOMS (R220): an atomic on the scratchpad, at block scope. -/
def execAtoms (h : Hdr) (aop : Aop) (f : FA) (s : State) : Host.Outcome State Fault Refusal :=
  let n := width f.size
  let regs := groupRegs n
  let ea (x : List Dword) : Nat := ((x.getD 0 0).lo + f.imm.signExtend 32).toNat
  .next (issueWake { plainOp (.atoms h aop f) h [⟨f.a, 1, f.e.getLsbD 0⟩, ⟨f.b, regs, f.e.getLsbD 1⟩] [(f.d, regs)]
      fun s c x =>
        let a := ea x
        let sector := scratchSector (c.grp.block s) a
        if ordReleases f.order && heldBy s c then (s, .stand (.retry .heldLine))
        else match askReplay s c sector a with
        | .hold => (s, .stand (.retry .lag))
        | .diverged e => (s, .event e)
        | .go =>
          let old := scratchRead s c.grp a n
          let s := scratchWrite s c.grp a (aopBytes aop n old (bytesOf n (rdGroup s c f.b regs)))
          match noteAtomic s c sector a (ofBytes old) with
          | (s, some e) => (s, .event e)
          | (s, none) =>
            (applyOrder (progress (landGroup s c f.d (wordsOf n old)) (c.grp.block s)) c f.order .block, .seq) with
    pre := fun s c x => scratchEv s c (ea x) n } s)

end Sys2Proof.Machine
end

