-- ==== Sys2Proof/Machine/RingSum.lean ====
section
/-! DEFINITION. The ring-sum pass (R341 to R345): RSUM, the packets of a pass and its cancellation. -/

namespace Sys2Proof.Machine

open Sys2Proof

/-! ### The ring descriptor (R342) -/

/-- n bytes of a descriptor at an offset. -/
def ringNum (d : List Byte) (o n : Nat) : Nat := ofBytes ((d.drop o).take n)

def ringStops (d : List Byte) : Nat := ringNum d 0 1 % 128
def ringRet (d : List Byte) : Bool := ringNum d 0 1 / 128 == 1
def ringKind (d : List Byte) : Nat := ringNum d 1 1 % 4
def ringPkts (d : List Byte) : Nat := ringNum d 4 2
def ringStop (d : List Byte) (i : Nat) : Nat := ringNum d (0x40 + 2 * i) 2

/-- R343: the XOR of the 48 words. -/
def ringDigest (d : List Byte) : Word :=
  (List.range 48).foldl (fun x i => x ^^^ BitVec.ofNat 32 (ringNum d (4 * i) 4)) 0

/-- Condition 4 of DESCRIPTOR does not hold. -/
def ringLegal (d : List Byte) : Bool :=
  let n := ringStops d
  1 ≤ n && n ≤ 64 && ringKind d != 3 && 1 ≤ ringPkts d && ringPkts d ≤ 4096 && ringNum d 0 4 / 1024 == 0 &&
    ringNum d 6 2 == 0 && ringNum d 8 56 == 0 &&
    (List.range 64).all fun i => if i < n then ringStop d i < 4096 else ringStop d i == 0

/-- The stops that name a core's field and cluster. -/
def ringHere (d : List Byte) (core : Nat) : List Nat :=
  (List.range (ringStops d)).filter fun i => ringStop d i == coreCluster core % 48 + 64 * coreField core

/-- Bytes of the source tile and of the result tile. -/
def ringBytes (d : List Byte) (src : Bool) : Nat := ringPkts d * if src && ringKind d == 2 then 128 else 256

def ringEv (cond addr : Nat) : Ev := { code := 0x114, arg := 0, addr := addr, synd := cond }

/-! ### RSUM -/

/-- The pass of a name that is in being. -/
def State.passNamed (s : State) (ctx addr : Nat) (num : Word) : Option (Nat × Pass) :=
  s.passes.find? fun e => e.2.ctx == ctx && e.2.addr == addr && e.2.num == num

/-- What a stop's own command of the present pass says to another RSUM there. -/
inductive PassAsk where
  | join | wait | clash
  deriving DecidableEq, Repr

def passAsk (s : State) (p : Option (Nat × Pass)) (i core : Nat) : PassAsk :=
  match p with
  | none => .join
  | some (_, x) =>
    if x.stops.any fun t => t.issued && !t.done && coreCluster (s.blk t.blk).core == coreCluster core then .clash
    else if (x.stops.getD i RStop.none).issued then .wait else .join

/-- A pass number not in use. -/
def freshPass (s : State) : Nat := s.passes.foldl (fun (m : Nat) (e : Nat × Pass) => max m (e.1 + 1)) 0

/-- R343: a stop joins the pass of its name, or begins it. Stop 0's descriptor is the pass's. -/
def joinPass (s : State) (ctx addr : Nat) (num : Word) (d : List Byte) (i b n : Nat) : State :=
  let mine : RStop := { RStop.none with issued := true, blk := b, num := n, digest := ringDigest d }
  let (p, x) := match s.passNamed ctx addr num with
    | some e => e
    | none => (freshPass s,
        { Pass.none with
          live := true, ctx := ctx, addr := addr, num := num, desc := d, stops := List.replicate 64 RStop.none })
  s.setPass p { x with
    desc := if i = 0 then d else x.desc
    stops := (List.range 64).map fun j => if j = i then mine else x.stops.getD j RStop.none }

/-- The tile of a result, 64 for a stop that receives none. -/
def resultTile (d : List Byte) (i : Nat) (t : BitVec 6) : Nat :=
  if ringRet d || i + 1 == ringStops d then t.toNat else 64

/-- DEDUCED, unsafe (log 46). -/
def opRsum (h : Hdr) (d a b : Opd) (src res : BitVec 6) : Op :=
  { plainOp (.rsum h d a b src res) h [⟨a, 2, false⟩, ⟨b, 1, false⟩] [(d, 2)] fun s c v =>
      let va := (v.getD 0 0).toNat
      let num := (v.getD 1 0).lo
      if heldBy s c then (s, .stand (.retry .heldLine))
      else match issueRead s c va 192 with
      | (s, .fault e) => (s, .event e)
      | (s, .wait) => (s, .stand (.retry .lag))
      | (s, .ok r) =>
        if !ringLegal r then (s, .event (ringEv 4 va))
        else match ringHere r (c.grp.core s) with
        | [i] =>
          let k := c.grp.block s
          let y := (s.blk k).body
          let ctx := c.grp.ctx s
          match passAsk s (s.passNamed ctx va num) i (c.grp.core s) with
          | .clash => (s, .event (ringEv 6 va))
          | .wait => (s, .stand (.retry (.pass ((s.passNamed ctx va num).elim 0 (·.1)))))
          | .join =>
            let rt := resultTile r i res
            let need : List (Nat × TileNeed) := (src.toNat, .use) :: if rt < 64 then [(rt, .fill)] else []
            match tilesEv s c need with
            | some e => (s, .event e)
            | none =>
              match tilesWait s c need with
              | some t => (s, .stand (.retry t))
              | none =>
                let z := y.tile src.toNat
                let w := y.tile rt
                if z.swz ≠ 0 ∨ z.rows * z.pitch < ringBytes r true ∨
                    (rt < 64 ∧ (w.swz ≠ 0 ∨ w.rows * w.pitch < ringBytes r false)) then (s, .event (ringEv 7 va))
                else
                  let now := s.now
                  let p := match s.passNamed ctx va num with
                    | some (p, _) => p
                    | none => freshPass s
                  let (s, n) := issueCmd s c 6 (.rsum p i src.toNat rt) false [] (c.grp.rollback s)
                  let s := joinPass s ctx va num r i k n
                  let s := s.modBody k fun y =>
                    let y := moveReaders (· + 1) [src.toNat] y
                    if rt < 64 then y.modTile rt (beginFill now 0) else y
                  numberTo (s, n) c d
        | _ => (s, .event (ringEv 5 va)) with
    tiles := [src.toNat, res.toNat], tcs := [6], noAct := true
    pre := fun _ _ v => if (v.getD 0 0).toNat % 64 ≠ 0 then some (ringEv 3 (v.getD 0 0).toNat) else none }

/-- RSUM (R341 to R344). -/
def execRsum (h : Hdr) (d a b : Opd) (src res : BitVec 6) (s : State) : Host.Outcome State Fault Refusal :=
  guarded (issueWake (opRsum h d a b src res)) s

/-! ### The packets of a pass -/

/-- The command of a stop that has issued. -/
def stopCmd (s : State) (t : RStop) : Option Cmd := if t.issued && !t.done then s.cmd t.blk 6 t.num else none

def setStop (x : Pass) (i : Nat) (t : RStop) : Pass :=
  { x with stops := (List.range x.stops.length).map fun j => if j = i then t else x.stops.getD j RStop.none }

/-- The end of a stop's command: complete, or cancelled. -/
def endStop (s : State) (p i status : Nat) : State :=
  let x := s.pass p
  let t := x.stops.getD i RStop.none
  let s := s.setPass p (setStop x i { t with done := true })
  match stopCmd s t with
  | none => s
  | some c =>
    match c.kind with
    | .rsum _ _ src res =>
      let now := s.now
      let waits := waitsFor s t.blk res 6 t.num none
      let s := s.modEngine t.blk c.fresh fun y =>
        let y := moveReaders (· - 1) [src] y
        if res < 64 then y.modTile res fun z =>
          if z.st = .filling then stampReady now waits { z with st := .ready, vrows := if status = 0 then z.rows else 0 } else z
        else y
      finishCmd s t.blk c status
    | _ => s

/-- R343: a pass ends once the command at every stop has completed. -/
def endPass (s : State) (p : Nat) : State :=
  let x := s.pass p
  if (x.stops.take (ringStops x.desc)).all (·.done) then { s with passes := Tab.erase s.passes p } else s

/-- R344: a stop of a cancelled pass whose command is to complete: one held for a commit starts there first. -/
def cancelDue (s : State) (t : RStop) : Bool :=
  t.issued && !t.done && match stopCmd s t with
    | some c => !c.heldCommit
    | none => true

/-- R344: every stop's command completes cancelled, and so will that of a stop still to issue for the pass. -/
def cancelPass (s : State) (p : Nat) : State :=
  let s := s.setPass p { s.pass p with live := false, packets := [] }
  let due := (List.range 64).filter fun i => cancelDue s ((s.pass p).stops.getD i RStop.none)
  endPass (due.foldl (fun s i => endStop s p i 3) s) p

/-- Packet q of a stop's source tile: 64 words. -/
def sourceWords (y : Body) (src q : Nat) (bf : Bool) : List Word :=
  let base := 64 * (y.tile src).base
  (List.range 64).map fun i =>
    if bf then .ofNat 32 (ofBytes (Tab.getRun 0 y.scratch (base + 128 * q + 2 * i) 2) * 65536)
    else .ofNat 32 (ofBytes (Tab.getRun 0 y.scratch (base + 256 * q + 4 * i) 4))

/-- R118: one element of the sum. -/
def ringAdd (kind : Nat) (p v : Word) : Word :=
  if kind = 1 then p + v
  else .ofNat 32 (fp32.round .rn false 0 (match Val.add .rn (fp32.decode p.toNat) (fp32.decode v.toNat) with
    | .nan _ => .nan false
    | x => x))

/-- A result packet lands at a stop. -/
def landPacket (s : State) (p i q : Nat) (ws : List Word) : State :=
  let x := s.pass p
  let t := x.stops.getD i RStop.none
  match stopCmd s t with
  | none => s
  | some c =>
    match c.kind with
    | .rsum _ _ _ res =>
      let s := s.modEngine t.blk c.fresh fun y =>
        let y := { y with scratch := Tab.setRun 0 y.scratch (64 * (y.tile res).base + 256 * q) (bytesOf 256 ws) }
        y.modTile res fun z => { z with stamp := { z.stamp with bytes := z.stamp.bytes + 256 } }
      s.setPass p (setStop x i { t with landq := t.landq + 1 })
    | _ => s

/-- A stop whose work in the pass is done ends its command; the last one ends the pass. -/
def settleStop (s : State) (p i : Nat) : State :=
  let x := s.pass p
  let t := x.stops.getD i RStop.none
  let n := ringPkts x.desc
  let recv := ringRet x.desc || i + 1 == ringStops x.desc
  endPass (if t.issued && !t.done && t.sentq == n && (!recv || t.landq == n) then endStop s p i 0 else s) p

/-- R343: packet q of a stop is combined with what has come, and sent on or landed. -/
def combineAt (s : State) (p i q : Nat) (come : Option (List Word)) : State :=
  let x := s.pass p
  let t := x.stops.getD i RStop.none
  match stopCmd s t with
  | none => s
  | some c =>
    match c.kind with
    | .rsum _ _ src _ =>
      let now := s.now
      let v := sourceWords (s.blk t.blk).body src q (ringKind x.desc == 2)
      let ws := match come with
        | none => v
        | some l => (List.range 64).map fun k => ringAdd (ringKind x.desc) (l.getD k 0) (v.getD k 0)
      let s := s.modEngine t.blk c.fresh fun y => stampStep now y src
      let n := ringStops x.desc
      let rest := x.packets.filter fun e => e.ret || e.stop != i || e.q != q
      let next (j : Nat) (ret : Bool) : RPacket := { q := q, stop := j, ret := ret, words := ws }
      if i + 1 < n then
        s.setPass p { setStop x i { t with sentq := q + 1 } with packets := rest ++ [next (i + 1) false] }
      else
        let back := if ringRet x.desc then ((List.range n).filter (· != i)).map fun j => next j true else []
        landPacket (s.setPass p { setStop x i { t with sentq := q + 1 } with packets := rest ++ back }) p i q ws
    | _ => s

/-- What may come next for a stop: a packet to combine, or result packets to land. -/
inductive PacketDue where
  | combine (q : Nat) (come : Option (List Word))
  | land (e : RPacket)
  deriving DecidableEq, Repr

def packetsDue (s : State) (x : Pass) (i : Nat) : List PacketDue :=
  let t := x.stops.getD i RStop.none
  match stopCmd s t with
  | none => []
  | some c =>
    if c.heldCommit then []
    else
      let forward : List PacketDue :=
        if t.sentq < ringPkts x.desc then
          (if i = 0 then [.combine t.sentq none]
           else match x.packets.find? fun e => !e.ret && e.stop == i && e.q == t.sentq with
            | some e => [.combine e.q (some e.words)]
            | none => [])
        else []
      forward ++ ((x.packets.filter fun e => e.ret && e.stop == i).take 1).map .land

/-- RSUM_PACKET (R343, R344): the next packet of a stop, or the cancellation of a broken pass. -/
def execRsumPacket (pass stop : Nat) (s : State) : Host.Outcome State Fault Refusal :=
  .next (match Tab.find s.passes pass with
    | none => s
    | some x =>
      if !x.live then wake (cancelPass s pass)
      else match chooseOne s (packetsDue s x stop) with
      | none => s
      | some (.combine q come) =>
        let t := x.stops.getD stop RStop.none
        if t.digest ≠ (x.stops.getD 0 RStop.none).digest then wake (cancelPass s pass)
        else wake (settleStop (combineAt s pass stop q come) pass stop)
      | some (.land e) =>
        let s := landPacket s pass stop e.q e.words
        let y := s.pass pass
        wake (settleStop (s.setPass pass { y with packets := y.packets.erase e }) pass stop))

end Sys2Proof.Machine
end

