-- ==== Sys2Proof/Machine/SnapWin.lean ====
section
/-! DEFINITION. FETCHPG (R219), snapshots (R206 to R208, R227 to R231) and the window instructions PUT,
GET, WAITW, WREAD and POSTC (R205, R232 to R236) with the course of their commands. -/

namespace Sys2Proof.Machine

open Sys2Proof

/-- An instruction that waits with its result until its operation completes; `parks` says that this is a park
point, as it is for those of R302 and R316 (R41). -/
def opWait (s : State) (d : Opd) (w64 : Bool) (v : Dword) (await : List Await) (parks : Bool) : State × Next :=
  (s, .wait (.op { d := d, w64 := w64, v := v, await := await, get := none, parks := parks, halts := false }))

/-- The status −n as a 32-bit word. -/
def statusNeg (n : Nat) : Dword := .ofNat 64 (2 ^ 32 - n)

/-! ### FETCHPG (R219) -/

/-- FETCHPG (R219). -/
def execFetchpg (h : Hdr) (d : Opd) (f : F2) (s : State) : Host.Outcome State Fault Refusal :=
  guarded (fun s => issueWake { plainOp (.fetchpg h d f) h [⟨f.a, 2, f.ea⟩] [(d, 2)] fun s c v =>
    if heldBy s c then (s, .stand (.retry .heldLine))
    else
      let va := (v.getD 0 0 + f.off.signExtend 64).toNat
      let ag := threadAgent s c
      match resolve s ag Acc.read va 1 with
      | (s, .error e) => (s, .event e)
      | (s, .ok ps) =>
        let k : CmdKind := match ps with
          | [p] => match (if p.ro.isSome then Walk.bad 0 0 0 else s.walk p.asid p.va) with
            | .leaf _ epa e => .fetchpg p.loc epa e
            | .bad _ _ _ => .fetchpg p.loc 0 2
          | _ => .fetchpg 0 0 2
        numberTo (issueCmd s c 7 k false [] false) c d with
    tcs := [7] } s) s

/-- The end of a FETCHPG command, or of one step of it. -/
def stepFetch (s : State) (b : Nat) (x : Cmd) (loc epa : Nat) (e : Dword) : State × ERes Bool :=
  if leafKind e ≠ 3 then (s, .ok true)
  else
    let lvl := match s.walk (loc / 2 ^ 55) (loc % 2 ^ 55) with
      | .leaf l _ _ => l
      | .bad l _ _ => l
    fetchLeaf s (cmdAgent s b x) (loc / 2 ^ 55) (loc % 2 ^ 55) lvl epa e

/-- FETCHPG_COMPLETE (R219): the page is copied and its leaf rewritten, or its source fails. -/
def execFetchpgComplete (blk num : Nat) (s : State) : Host.Outcome State Fault Refusal :=
  guarded (fun s => match s.cmd blk 7 num with
    | some x =>
      match x.kind with
      | .fetchpg loc epa e =>
        match stepFetch s blk x loc epa e with
        | (s, .ok true) => wake (finishCmd s blk x 0)
        | (s, .ok false) | (s, .wait) => s
        | (s, .fault ev) => wake (failCmd s blk x ev)
      | _ => s
    | none => s) s

/-- FETCH_NOFRAME (R219): the pool has stayed empty, and the command completes without the page. -/
def execFetchNoframe (blk num : Nat) (s : State) : Host.Outcome State Fault Refusal :=
  guarded (fun s => match s.cmd blk 7 num with
    | some x =>
      match x.kind with
      | .fetchpg loc epa e =>
        match stepFetch s blk x loc epa e with
        | (s1, .ok false) =>
          let part := (cmdAgent s1 blk x).part
          wake (finishCmd (s1.count part none (s1.granHome x.core (loc / 2 ^ 55) (loc % 2 ^ 55)) 0x43 1) blk x 0)
        | _ => s
      | _ => s
    | none => s) s

/-! ### Opening and closing levels (R206, R207, R228, R229) -/

def rangesInUse (x : Ctx) : Nat := (x.levels.map fun l => l.ranges.length).sum

def Range.meets (r t : Range) : Bool := r.asid == t.asid && r.base < t.base + t.len && t.base < r.base + r.len

/-- R228: a range lies inside the ranges of a level. -/
def coveredBy (l : List Range) (asid : Nat) : Nat → Nat → Nat → Bool
  | 0, pos, stop => stop ≤ pos
  | n + 1, pos, stop =>
    if stop ≤ pos then true
    else match l.find? fun r => r.asid == asid && r.base ≤ pos && pos < r.base + r.len with
    | some r => coveredBy l asid n (r.base + r.len) stop
    | none => false

def emptyLevel : Level := { scope := .block, ranges := [] }

/-- R228: the snapshot of a range, with the value for D. -/
def openSnap (s : State) (ctx : Nat) (scope : Scope) (add : Bool) (r : Range) : State × Dword :=
  let x := s.ctx ctx
  let depth := x.levels.length
  if !add && depth == 4 then (s, statusNeg 1)
  else if add && depth == 0 then (s, statusNeg 4)
  else
    let lvl := if add then depth else depth + 1
    if r.len ≠ 0 ∧ rangesInUse x = 16 then (s, statusNeg 2)
    else if r.len ≠ 0 ∧ (s.ctxs.any fun e => e.1 != ctx && e.2.levels.any fun l => l.ranges.any (Range.meets r)) = true then
      (s, statusNeg 3)
    else if r.len ≠ 0 ∧ 1 < lvl ∧
        coveredBy (x.levels.getD (lvl - 2) emptyLevel).ranges r.asid 17 r.base (r.base + r.len) = false then
      (s, statusNeg 5)
    else
      let top := if add then x.levels.getD (lvl - 1) emptyLevel else { scope := scope, ranges := [] }
      let top := if r.len = 0 then top else { top with ranges := top.ranges ++ [r] }
      (s.modCtx ctx fun x => { x with levels := x.levels.take (lvl - 1) ++ [top] }, .ofNat 64 lvl)

/-- Generations of the lines whose shadows a close has freed (R229). -/
def setGens (s : State) (ctx l : Nat) : List (Nat × Shadow) → State
  | [] => s
  | (k, x) :: r =>
    let g := if (Tab.find s.shadows (ctx * 2 ^ 96 + (l - 1) * 2 ^ 93 + shadowLine k)).isSome ∧ 1 < l then l - 1 else 0
    setGens { s with wgen := Tab.set 0 s.wgen (x.pa / 128) g } ctx l r

/-- The shadows a context holds at a level. -/
def shadowsAt (s : State) (ctx lvl : Nat) : List (Nat × Shadow) :=
  s.shadows.filter fun e => shadowCtx e.1 == ctx && shadowLvl e.1 == lvl

/-- R207: one level folded into the one below it. -/
def foldLevel (s : State) (ctx m : Nat) : State :=
  (shadowsAt s ctx m).foldl (fun s e =>
    let k := ctx * 2 ^ 96 + (m - 1) * 2 ^ 93 + shadowLine e.1
    let sh := Tab.erase s.shadows e.1
    { s with shadows := if 1 < m ∧ (Tab.find s.shadows k).isNone then Tab.put sh k e.2 else sh }) s

/-- accept(L) of R207. -/
def acceptLevels (s : State) (ctx l : Nat) : State :=
  let depth := (s.ctx ctx).levels.length
  let gone := s.shadows.filter fun e => shadowCtx e.1 == ctx && l ≤ shadowLvl e.1
  let s := (List.range (depth + 1 - l)).foldl (fun s i => foldLevel s ctx (depth - i)) s
  setGens (s.modCtx ctx fun x => { x with levels := x.levels.take (l - 1) }) ctx l gone

/-- The restore of a line: no home write, so that it takes no shadow (R229). On classes 1 and 2 the copies of the
line are invalidated (R208). -/
def restoreLine (s : State) (loc : Nat) (x : Shadow) : State :=
  let s := s.store x.pa x.bytes
  match s.walk (loc / 2 ^ 55) (loc % 2 ^ 55) with
  | .leaf _ _ e =>
    if leafCc e = 0 then s
    else invalidateLine (recallOwner s (x.pa / 2 ^ 46) loc false) (x.pa / 2 ^ 46) loc none
  | .bad _ _ _ => s

/-- reject(L) of R207. -/
def rejectLevels (s : State) (ctx l : Nat) : State :=
  let gone := s.shadows.filter fun e => shadowCtx e.1 == ctx && l ≤ shadowLvl e.1
  let lowest (e : Nat × Shadow) : Bool :=
    !(gone.any fun f => shadowLine f.1 == shadowLine e.1 && shadowLvl f.1 < shadowLvl e.1)
  let s := (gone.filter lowest).foldl (fun s e => restoreLine s (shadowLine e.1 * 128) e.2) s
  let s := { s with shadows := s.shadows.filter fun e => !(shadowCtx e.1 == ctx && decide (l ≤ shadowLvl e.1)) }
  setGens (s.modCtx ctx fun x => { x with levels := x.levels.take (l - 1) }) ctx l gone

/-- R433: a range a SNAP may name. -/
def snapLegal (a l : Dword) : Bool :=
  a.toNat % 128 == 0 && l.toNat % 128 == 0 && a.toNat < 2 ^ 57 && a.toNat % 2 ^ 55 + l.toNat ≤ 2 ^ 55

/-- SNAP as one operation (R228, R231). -/
def opSnap (h : Hdr) (scope : Scope) (add : Bool) (d a b : Opd) : Op :=
  { plainOp (.snap h scope add d a b) h [⟨a, 2, false⟩, ⟨b, 2, false⟩] [(d, 1)] fun s c v =>
      if heldBy s c then (s, .stand (.retry .heldLine))
      else
        let va := (v.getD 0 0).toNat
        let r : Range :=
          { asid := (threadAgent s c).asids.getD (va / 2 ^ 55 % 4) 0, base := va % 2 ^ 55, len := (v.getD 1 0).toNat }
        let (s, x) := openSnap (applyOrder s c .acqRel scope) (c.grp.ctx s) scope add r
        opWait s d false x [] false with
    ends := true
    pre := fun _ _ v => if snapLegal (v.getD 0 0) (v.getD 1 0) then none
      else some { code := 0x108, arg := 0, addr := (v.getD 0 0).toNat, synd := 128 } }

/-- SNAP (R228). -/
def execSnap (h : Hdr) (scope : Scope) (add : Bool) (d a b : Opd) (s : State) : Host.Outcome State Fault Refusal :=
  .next (issueWake (opSnap h scope add d a b) s)

/-- A close of levels of the thread's context, by the operation given. -/
def closeOp (i : Instr) (h : Hdr) (d a : Opd) (imm : BitVec 32) (rel : Bool) (close : State → Nat → Nat → State) : Op :=
  { plainOp i h [⟨a, 1, false⟩] [(d, 1)] fun s c v =>
      let l := ((v.getD 0 0).lo + imm).toNat
      let ctx := c.grp.ctx s
      if l = 0 ∨ (s.ctx ctx).levels.length < l then opWait s d false (statusNeg 1) [] false
      else if rel && heldBy s c then (s, .stand (.retry .heldLine))
      else
        let sc := ((s.ctx ctx).levels.getD (l - 1) emptyLevel).scope
        opWait (close (if rel then applyOrder s c .release sc else s) ctx l).releaseHeld d false 0 [] false with
    ends := true }

def opAccept (h : Hdr) (d a : Opd) (imm : BitVec 32) : Op := closeOp (.accept h d a imm) h d a imm false acceptLevels

/-- ACCEPT (R229). -/
def execAccept (h : Hdr) (d a : Opd) (imm : BitVec 32) (s : State) : Host.Outcome State Fault Refusal :=
  .next (issueWake (opAccept h d a imm) s)

def opReject (h : Hdr) (d a : Opd) (imm : BitVec 32) : Op := closeOp (.reject h d a imm) h d a imm true rejectLevels

/-- REJECT (R229). -/
def execReject (h : Hdr) (d a : Opd) (imm : BitVec 32) (s : State) : Host.Outcome State Fault Refusal :=
  .next (issueWake (opReject h d a imm) s)

/-- R230: what SNAPQ reads. -/
def snapqValue (s : State) (ctx part sel : Nat) : Nat :=
  let x := s.ctx ctx
  let sum (f : Nat → Nat) : Nat := ((List.range 48).map f).sum
  if sel = 0 then x.levels.length + 2 ^ 8 * rangesInUse x
  else if sel ≤ 4 then (if sel ≤ x.levels.length then (shadowsAt s ctx sel).length else 0)
  else if sel = 5 then sum fun f => s.poolLines part f - s.poolUsed part f
  else sum (s.poolLines part)

/-- SNAPQ (R230). -/
def execSnapq (h : Hdr) (d : Opd) (sel : BitVec 3) (s : State) : Host.Outcome State Fault Refusal :=
  .next (issue (plainOp (.snapq h d sel) h [] [(d, 2)] fun s c _ =>
    put64 s c d (.ofNat 64 (snapqValue s (c.grp.ctx s) (c.grp.cslot s).part sel.toNat))) s)

/-! ### PUT, GET and POSTC (R233, R236) -/

def windowEv (w off : Nat) : Ev := { code := 0x117, arg := 0, addr := off, synd := w }

/-- The virtual function whose windows a group's threads name (R232). -/
def Grp.vf (s : State) (g : Grp) : Nat := (g.cslot s).vf

/-- R433: the remote range of a PUT or GET. -/
def rangeWinEv (s : State) (c : Cx) (w off len : Nat) : Option Ev :=
  let x := s.win (c.grp.vf s) w
  if (x.kind = 1 ∨ x.kind = 2) ∧ off + len ≤ x.rlen then none else some (windowEv w off)

/-- The window a command is on. -/
def cmdWin (x : Cmd) : Option Nat :=
  match x.kind with
  | .put _ _ _ _ _ w | .get _ _ _ _ w | .postc _ _ w => some w
  | .tload _ _ _ _ _ _ | .tstore _ _ _ _ | .tloadb _ _ _ _ | .tmcast _ _ _ _ _ | .rsum _ _ _ _ | .mma _ _ _ _
  | .mzero _ | .mprom _ | .mlda _ _ _ | .mldb _ _ _ | .msta _ _ _ _ _ _ _ _ _ | .mread _ _ _ | .mwrite _ _ _
  | .fetchpg _ _ _ => none

/-- The blocks' uncompleted commands of a virtual function on a window. -/
def winCmds (s : State) (vf w : Nat) : List (Nat × Cmd) :=
  s.blocks.flatMap fun e => (e.2.body.cmds.filter fun x => cmdWin x == some w && (s.ctx x.ctx).vf == vf).map fun x => (e.1, x)

/-- The number by which a command waits for another block's command. -/
def waitKey (b : Nat) (x : Cmd) : Nat := 2 ^ 80 * b + x.key

/-- R233: ORD waits for the commands of its context on its window that have not completed at its issue. -/
def orderAfter (s : State) (ctx vf w : Nat) : Tab Word :=
  (winCmds s vf w).foldl (fun t e => if e.2.ctx = ctx then Tab.put t (waitKey e.1 e.2) 1 else t) []

/-- A command ordered after others has none of them left before it. -/
def ordReady (s : State) (vf w : Nat) (x : Cmd) : Bool :=
  x.msum.all fun e => !(winCmds s vf w).any fun y => waitKey y.1 y.2 == e.1

/-- Chunks of at most the path MTU (R347). -/
def chunksOf (len : Nat) : Nat := max 1 ((len + 4095) / 4096)

/-- Issues a window command. -/
def issueWindow (s : State) (c : Cx) (d : Opd) (k : CmdKind) (w : Nat) (ord : Bool) (left : List Nat) : State × Next :=
  let vf := c.grp.vf s
  let after := if ord then orderAfter s (c.grp.ctx s) vf w else []
  let (s, n) := issueCmdWith s c 7 k false left false fun x => { x with msum := after }
  numberTo (s, n) c d

def opPut (h : Hdr) (sig ord : Bool) (d a b c : Opd) (w : BitVec 10) : Op :=
  { plainOp (.put h sig ord d a b c w) h [⟨a, 2, false⟩, ⟨b, 2, false⟩, ⟨c, 1, false⟩] [(d, 2)] fun s cx v =>
      if heldBy s cx then (s, .stand (.retry .heldLine))
      else
        let len := (v.getD 2 0).lo.toNat
        issueWindow s cx d (.put sig ord (v.getD 0 0).toNat (v.getD 1 0).toNat len w.toNat) w.toNat ord
          (List.range (chunksOf len)) with
    tcs := [7], ends := true
    pre := fun s cx v => rangeWinEv s cx w.toNat (v.getD 1 0).toNat (v.getD 2 0).lo.toNat }

/-- PUT (R233). -/
def execPut (h : Hdr) (sig ord : Bool) (d a b c : Opd) (w : BitVec 10) (s : State) : Host.Outcome State Fault Refusal :=
  .next (issueWake (opPut h sig ord d a b c w) s)

/-- GET (R233): its landings are pieces of at most 32 bytes. -/
def execGet (h : Hdr) (ord : Bool) (d a b c : Opd) (w : BitVec 10) (s : State) : Host.Outcome State Fault Refusal :=
  .next (issueWake { plainOp (.get h ord d a b c w) h [⟨a, 2, false⟩, ⟨b, 2, false⟩, ⟨c, 1, false⟩] [(d, 2)] fun s cx v =>
      if heldBy s cx then (s, .stand (.retry .heldLine))
      else
        let len := (v.getD 2 0).lo.toNat
        issueWindow s cx d (.get ord (v.getD 0 0).toNat (v.getD 1 0).toNat len w.toNat) w.toNat ord
          (List.range ((len + 31) / 32)) with
    tcs := [7]
    pre := fun s cx v => rangeWinEv s cx w.toNat (v.getD 1 0).toNat (v.getD 2 0).lo.toNat } s)

def opPostc (h : Hdr) (d a : Opd) (w : BitVec 10) : Op :=
  { plainOp (.postc h d a w) h [⟨a, 2, false⟩] [(d, 2)] fun s c v =>
      if heldBy s c then (s, .stand (.retry .heldLine))
      else
        let vf := c.grp.vf s
        let k := (s.win vf w.toNat).post
        let s := s.modWin vf w.toNat fun x => { x with post := x.post + 1 }
        let s := applyOrder s c .release .system
        let (s, _) := issueCmd s c 7 (.postc (v.getD 0 0).toNat k.toNat w.toNat) false [0] false
        (wr64 s c d k, .seq) with
    tcs := [7], ends := true
    pre := fun s c v =>
      let x := s.win (c.grp.vf s) w.toNat
      if (v.getD 0 0).toNat % 64 ≠ 0 then some { code := 0x108, arg := 0, addr := (v.getD 0 0).toNat, synd := 64 }
      else if x.kind = 0 ∨ x.kind = 2 then some (windowEv w.toNat 0)
      else if w.toNat = 1023 ∧ c.grp.ctx s ≠ (s.vf (c.grp.vf s)).steward then some { code := 0x111, arg := 0, addr := 0, synd := 1 }
      else none }

/-- POSTC (R236). -/
def execPostc (h : Hdr) (d a : Opd) (w : BitVec 10) (s : State) : Host.Outcome State Fault Refusal :=
  .next (issueWake (opPostc h d a w) s)

/-! ### WAITW and WREAD (R234, R235, R471) -/

/-- WAITW (R234). -/
def execWaitw (h : Hdr) (sent : Bool) (d a b : Opd) (w : BitVec 10) (s : State) : Host.Outcome State Fault Refusal :=
  .next (issueWake (plainOp (.waitw h sent d a b w) h [⟨a, 2, false⟩, ⟨b, 1, false⟩] [(d, 1)] fun s c v =>
    let vf := c.grp.vf s
    let thr := v.getD 0 0
    let fin (s : State) (st : Word) : State × Next := ((wr32 s c d st).modThr c yieldDone, .seq)
    if winBroken s vf w.toNat then fin s 2
    else if thr.toNat ≤ (winCounter (s.win vf w.toNat) sent).toNat then
      fin (if sent then s else applyOrder s c .acquire .system) 0
    else if b = .z then (s, .wait (.win w.toNat sent thr none d))
    else if (v.getD 1 0).lo = 0 then fin s 1
    else (s, .wait (.win w.toNat sent thr (some (s.now + (v.getD 1 0).lo.toNat)) d))) s)

/-- WREAD (R235). -/
def execWread (h : Hdr) (sent acq : Bool) (d : Opd) (w : BitVec 10) (s : State) : Host.Outcome State Fault Refusal :=
  .next (issue (plainOp (.wread h sent acq d w) h [] [(d, 2)] fun s c _ =>
    let x := s.win (c.grp.vf s) w.toNat
    let v := if x.kind = 0 then 0 else winCounter x sent
    put64 (if acq then applyOrder s c .acquire .system else s) c d v) s)

/-! ### The course of window commands -/

/-- Bytes of a PUT or POSTC, as memory holds them once the block has committed (R233, R236). -/
def windowRead (s : State) (b : Nat) (x : Cmd) (va n : Nat) : State × ERes (List Byte) :=
  let ag := { cmdAgent s b x with blk := none }
  match loadAt s ag va n 3 false with
  | (s, .bytes bs) => (s, .ok bs)
  | (s, .ev e) => (s, .fault e)
  | (s, .absent) => fetchFirst s ag Acc.read va n
  | (s, .pressure) => (s, .wait)
  | (s, .far bs fs) =>
    match patchFar x.got bs fs with
    | some bs => (s, .ok bs)
    | none => (askPeers s b x ag.vf fs, .wait)

/-- Sends one chunk of a PUT; the last one carries SIG, and counts as sent. -/
def sendChunk (s : State) (b : Nat) (x : Cmd) (vf : Nat) (sig : Bool) (off len w n : Nat) (bs : List Byte) : State :=
  let win := s.win vf w
  let last := n + 1 = chunksOf len
  let s := if len = 0 && !sig then s
    else
      let s := send s win.qpn
        (fun p => .write win.qpn p win.rkey (win.rbase + off + 4096 * n) bs (if sig && last then some 1 else none))
        (fun p => { psn := p, blk := b, num := x.key, kind := 0, thr := x.tc, reg := 0 })
      let cs := s.cslot x.core x.slot
      s.count cs.part (some cs.vf) (coreField x.core) 0x52 bs.length
  let s := if last then s.modWin vf w fun y => { y with sent := y.sent + 1 } else s
  s.setCmd b (x.landed n)

/-- One step of a PUT: its next chunk. -/
def landPut (s : State) (b : Nat) (x : Cmd) (sig : Bool) (src off len w : Nat) : State :=
  let vf := (cmdAgent s b x).vf
  match x.left with
  | [] => s
  | n :: _ =>
    if !ordReady s vf w x then s
    else if len = 0 then sendChunk s b x vf sig off len w n []
    else match windowRead s b x (src + 4096 * n) (min 4096 (len - 4096 * n)) with
    | (s, .ok bs) => sendChunk s b x vf sig off len w n bs
    | (s, .wait) => s
    | (s, .fault e) => failCmd s b x e

/-- R233: a GET asks for its next chunk. -/
def askChunk (s : State) (b : Nat) (x : Cmd) (vf off len w : Nat) : State :=
  let win := s.win vf w
  let n := min 4096 (len - 4096 * x.beat)
  let s := send s win.qpn (fun p => .read win.qpn p win.rkey (win.rbase + off + 4096 * x.beat) n)
    (fun p => { psn := p, blk := b, num := x.key, kind := 1, thr := x.tc, reg := 4096 * x.beat })
  s.setCmd b { x with beat := x.beat + 1, started := true }

/-- Bytes of a GET that have come, all of them or none. -/
def gotRun (t : Tab Byte) (k n : Nat) : Option (List Byte) :=
  let l := (List.range n).filterMap fun i => Tab.find t (k + i)
  if l.length = n then some l else none

/-- One step of a GET: it asks for a chunk, or lands a piece that has come. -/
def landGet (s : State) (b : Nat) (x : Cmd) (dst off len w : Nat) : State :=
  let vf := (cmdAgent s b x).vf
  if !ordReady s vf w x then s
  else if 4096 * x.beat < len then askChunk s b x vf off len w
  else match chooseOne s (x.left.filter fun n => (gotRun x.got (32 * n) (min 32 (len - 32 * n))).isSome) with
  | none => s
  | some n =>
    match gotRun x.got (32 * n) (min 32 (len - 32 * n)) with
    | none => s
    | some bs =>
      match engineWrite s b x ((dst + 32 * n) % 2 ^ 64) bs with
      | (s, .ok _) =>
        let cs := s.cslot x.core x.slot
        (s.setCmd b (x.landed n)).count cs.part (some cs.vf) (coreField x.core) 0x53 bs.length
      | (s, .wait) => s
      | (s, .fault e) => failCmd s b x e

/-- R236: posts on a window go out in the order of their numbers. -/
def postTurn (s : State) (vf w k : Nat) : Bool :=
  !((winCmds s vf w).any fun e => !e.2.left.isEmpty && match e.2.kind with
    | .postc _ j _ => j < k
    | _ => false)

/-- One step of a POSTC: the record goes out, or to Tolquel (R288). Where the window is too short for a record the
manual gives no place, and the offset is a free choice. DESIGN CHOICE, safe (log 113). -/
def landPostc (s : State) (b : Nat) (x : Cmd) (src k w : Nat) : State :=
  let vf := (cmdAgent s b x).vf
  let win := s.win vf w
  if !postTurn s vf w k then s
  else match windowRead s b x src 64 with
  | (s, .wait) => s
  | (s, .fault e) => failCmd s b x e
  | (s, .ok bs) =>
    if win.kind = 3 then
      (s.modVf vf fun f => { f with requests := f.requests ++ [bs] }).setCmd b (x.landed 0)
    else
      let at_ := if win.rlen / 64 = 0 then 64 * Config.choose k else k % (win.rlen / 64) * 64
      let s := send s win.qpn (fun p => .write win.qpn p win.rkey (win.rbase + at_) bs (some 1))
        (fun p => { psn := p, blk := b, num := x.key, kind := 0, thr := x.tc, reg := 0 })
      let cs := s.cslot x.core x.slot
      (s.setCmd b (x.landed 0)).count cs.part (some cs.vf) (coreField x.core) 0x52 64

/-- A window command whose work is done, or whose queue pair is in the error state (R471). -/
def windowDone (s : State) (b : Nat) (x : Cmd) : Bool :=
  ((cmdWin x).any fun w => winBroken s (cmdAgent s b x).vf w) || x.left.isEmpty && cmdQuiet s b x && match x.kind with
    | .put _ _ _ _ _ _ | .postc _ _ _ => true
    | .get _ _ _ len _ => len ≠ 0 || ordReady s (cmdAgent s b x).vf ((cmdWin x).getD 0) x
    | _ => false

/-- WINDOW_COMMAND_COMPLETE (R233, R236). -/
def execWindowCommandComplete (blk num : Nat) (s : State) : Host.Outcome State Fault Refusal :=
  .next (match s.cmd blk 7 num with
    | some x => if windowDone s blk x then wake (finishCmd s blk x 0) else s
    | none => s)

/-! ### LANDING -/

/-- A landing of a command still to come, where the order among them is free. -/
def landingDue (s : State) (b : Nat) (x : Cmd) : Bool :=
  !x.heldCommit && !x.left.isEmpty && match x.kind with
    | .tload _ _ _ _ _ _ | .tstore _ _ _ _ => shuttleTurn s x
    | .tloadb buf _ _ _ => shuttleTurn s x && !mmaReads (s.blk b).body x buf
    | .put _ _ _ _ _ w => ordReady s (cmdAgent s b x).vf w x
    | .get _ _ _ len w => ordReady s (cmdAgent s b x).vf w x &&
        (decide (4096 * x.beat < len) || x.left.any fun n => (gotRun x.got (32 * n) (min 32 (len - 32 * n))).isSome)
    | .postc _ k w => postTurn s (cmdAgent s b x).vf w k
    | .mma _ _ _ _ | .mzero _ | .mprom _ | .mlda _ _ _ | .mldb _ _ _ | .msta _ _ _ _ _ _ _ _ _ | .mread _ _ _
    | .mwrite _ _ _ => matrixDue (s.blk b).body (s.launch (s.blk b).launch).det x
    | .tmcast _ _ _ _ _ | .rsum _ _ _ _ | .fetchpg _ _ _ => false

/-- LANDING (R204, R248 to R251, R266 to R274, R233): one landing of an engine command. -/
def execLanding (blk tc num : Nat) (s : State) : Host.Outcome State Fault Refusal :=
  guarded (fun s => match s.cmd blk tc num with
    | some x =>
      if !landingDue s blk x then s
      else
        let n := (chooseOne s x.left).getD 0
        wake (match x.kind with
          | .tload mode t d r bar idx => landTload s blk x mode t d r bar idx n
          | .tstore _ t d r => landTstore s blk x t d r n
          | .tloadb buf d r bar => landTloadb s blk x buf d r bar n
          | .mma _ _ _ _ | .mzero _ | .mprom _ | .mlda _ _ _ | .mldb _ _ _ | .msta _ _ _ _ _ _ _ _ _ | .mread _ _ _
          | .mwrite _ _ _ => landMatrix s blk x n
          | .put sig _ src off len w => landPut s blk x sig src off len w
          | .get _ dst off len w => landGet s blk x dst off len w
          | .postc src k w => landPostc s blk x src k w
          | .tmcast _ _ _ _ _ | .rsum _ _ _ _ | .fetchpg _ _ _ => s)
    | none => s) s

end Sys2Proof.Machine
end

