-- ==== Sys2Proof/Machine/Launch.lean ====
section
/-! DEFINITION. LAUNCH and LAUNCHW: the acceptance of launch packets and their checks (R310 to R316,
R319, R376). -/

namespace Sys2Proof.Machine

open Sys2Proof

/-- The sixteen words of a packet. -/
def packetWords (bs : List Byte) : List Dword := (List.range 16).map fun i => .ofNat 64 (ofBytes ((bs.drop (8 * i)).take 8))

/-- R314: DK of a dependence. -/
def depKind (d : Dword × Dword) : Nat := bitsOf d.2 0 2
def depTc (d : Dword × Dword) : Nat := bitsOf d.2 2 3
def depWin (d : Dword × Dword) : Nat := bitsOf d.2 8 10

def Launch.deps (l : Launch) : List (Dword × Dword) := (List.range l.ndep).map l.dep

/-- R32, R33: check 2 of R315. -/
def levelsLegal (l : Launch) : Bool :=
  let sum := l.lo 6
  sum ≤ 64 && 3 ≤ l.w 0 && l.w 0 ≤ 6 && (l.b == 1 || l.b == 2) && (l.k == 0 || (decide (l.b < l.k) && l.k ≤ 5)) &&
    l.e0 * l.skeins ≤ 1024 && (l.k == 0 || l.gang ≤ 64) && l.lastWid.toNat < 2 ^ sum

/-- Check 3. -/
def claimsLegal (l : Launch) : Bool :=
  8 ≤ l.g && l.g ≤ 128 && l.g % 8 == 0 && l.prod < l.skeins && l.tiles ≤ 64 && l.xids ≤ 256 && l.scr ≤ 8192

/-- The context a packet runs in: its own, or the accepting one. -/
def Launch.runsIn (l : Launch) (accepting : Nat) : Nat := if l.ctxid = 0 || l.fence then accepting else l.ctxid

/-- R315: the first check that a packet fails, 0 for none. DEDUCED, unsafe (log 65). -/
def checkPacket (s : State) (accepting : Nat) (steward landed : Bool) (l : Launch) : Nat :=
  let vf := (s.ctx accepting).vf
  let depsOk := l.deps.all fun d => depKind d != 3 && !(depKind d == 0 && landed)
  let x := s.ctx (l.runsIn accepting)
  let cwinOk := !l.cen || (s.win vf l.cwin).kind == 1
  if 1 < bitsOf (l.word 0) 0 4 then 1
  else if l.fence then (if !depsOk then 5 else if !cwinOk then 8 else 0)
  else if !levelsLegal l then 2
  else if !claimsLegal l then 3
  else if l.hrule = 3 || (l.hrule != 0 && !(l.b ≤ l.hlvl && l.hlvl ≤ 5)) then 4
  else if !depsOk then 5
  else if l.ctxid ≠ 0 && !(steward && x.live && x.vf == vf) then 6
  else if l.drain != x.drain then 7
  else if !cwinOk then 8
  else 0

/-- A launch number not in use in the table of launches. -/
def freshLaunch (s : State) : Nat := s.launches.foldl (fun (m : Nat) (e : Nat × Launch) => max m (e.1 + 1)) 0

/-- R319: the number of a virtual function's next launch. -/
def nextLnum (v : Vf) : Nat := if (v.launches + 1) % 2 ^ 32 = 0 then 1 else (v.launches + 1) % 2 ^ 32

/-- R376: a launch takes what LOG-SET has armed for its context. DEDUCED, unsafe (log 66). -/
def takeLog (s : State) (id : Nat) : State :=
  let l := s.launch id
  let x := s.ctx l.ctx
  if x.logMode = 1 && l.det then
    logHeader ((s.modCtx l.ctx fun c => { c with logMode := 0 }).modLaunch id fun y =>
      { y with logOn := 1, logBase := x.logBase, logLen := x.logLen }) id
  else if x.logMode = 2 && l.replays then
    (s.modCtx l.ctx fun c => { c with logMode := 0 }).modLaunch id fun y =>
      { y with logOn := 2, logBase := x.logBase, logLen := x.logLen }
  else s

/-- R326: a virtual function has work: a launch of one of its contexts that has not ended. -/
def hasWork (s : State) (v : Nat) : Bool :=
  s.launches.any fun e => e.2.live && !e.2.fence && decide (e.2.state < 2) && (s.ctx e.2.ctx).vf == v

/-- R326: a virtual function that becomes runnable: one that has no work yet, as a launch of it is accepted.
DEDUCED, safe (log 114). -/
def runnable (s : State) (v : Nat) : State :=
  let running := (s.blocks.filterMap fun e =>
    if e.2.st == .resident then some (s.ctx (s.launch e.2.launch).ctx).vf else none).eraseDups
  if running = [] ∨ hasWork s v then s
  else
    let least := running.foldl (fun m u => min m (s.vf u).vtime) (s.vf (running.headD 0)).vtime
    s.modVf v fun f => { f with vtime := max f.vtime least }

/-- R311: the fields whose DRAM holds the journal of a window's launches: the window's home field and the next
healthy one. The home field is that of its queue pair's port, and of the accepting core where it has none.
DEDUCED, unsafe (log 109). -/
def journalFields (s : State) (x : Win) (core : Nat) : List Nat :=
  let home := if (s.qp x.qpn).live then (s.qp x.qpn).port % 48 else coreField core
  (((List.range 48).map fun i => (home + i) % 48).filter fun f => (s.field f).state < 2).take 2

/-- R311, R316: the acceptance of a packet on a window; the answer is its acceptance number. -/
def accept (s : State) (vf w accepting core slot : Nat) (steward landed : Bool) (pkt : List Byte) : State × Dword :=
  let k := (s.win vf w).sent + 1
  let l : Launch := { Launch.none with
    live := true, pkt := packetWords pkt, vf := vf, win := w, seq := k.toNat, landed := landed, tacc := s.now
    core := core, slot := slot, journal := journalFields s (s.win vf w) core }
  let code := checkPacket s accepting steward landed l
  let numbered := bitsOf (l.word 0) 0 4 == 0
  let n := nextLnum (s.vf vf)
  let run := if code = 1 || code = 6 then accepting else l.runsIn accepting
  let l := { l with ctx := run, lnum := if numbered then n else 0 }
  let l := if code = 0 then l else { l with state := 2, status := 3, detail := code, tend := s.now }
  let id := freshLaunch s
  let s := if code = 0 && !l.fence then runnable s (s.ctx run).vf else s
  let s := (s.modWin vf w fun x => { x with sent := k }).setLaunch id l
  let s := if numbered then s.modVf vf fun v => { v with launches := n } else s
  let s := s.count (s.vf vf).part (some vf) (coreField core) 0x54 1
  (if code = 0 && !l.fence then takeLog s id else s, k)

/-- The local range of a window, as the device reaches it. -/
def windowAgent (s : State) (vf : Nat) (x : Win) : Agent :=
  { ctx := (s.asid x.asid).owner, vf := vf, part := (s.vf vf).part, asids := [x.asid], av := 1, aro := 0, launch := 0
    wid := none, core := 0, slot := 0, cluster := none, blk := none, own := none, thr := 0, force := true }

/-- R316: what LAUNCH and LAUNCHW do once the packet's bytes are at hand. -/
def acceptFor (s : State) (c : Cx) (d : Opd) (w : Nat) (landed : Bool) (pkt : List Byte) : State × Next :=
  let k := c.grp.cslot s
  let s := applyOrder s c .release .wafer
  let (s, v) := accept s k.vf w (c.grp.ctx s) (c.grp.core s) (c.grp.slot s) (k.priv != 0) landed pkt
  opWait s d true v [] true

def opLaunch (h : Hdr) (d a : Opd) (w : BitVec 10) : Op :=
  { plainOp (.launch h d a w) h [⟨a, 2, false⟩] [(d, 2)] fun s c v =>
      if heldBy s c then (s, .stand (.retry .heldLine))
      else if (s.win (c.grp.vf s) w.toNat).kind ≠ 2 then opWait (applyOrder s c .release .wafer) d true (-5) [] true
      else match issueRead s c (v.getD 0 0).toNat 128 with
      | (s, .fault e) => (s, .event e)
      | (s, .wait) => (s, .stand (.retry .lag))
      | (s, .ok pkt) => acceptFor s c d w.toNat false pkt with
    ends := true
    pre := fun _ _ v =>
      if (v.getD 0 0).toNat % 128 ≠ 0 then some { code := 0x108, arg := 0, addr := (v.getD 0 0).toNat, synd := 128 } else none }

/-- LAUNCH (R316). -/
def execLaunch (h : Hdr) (d a : Opd) (w : BitVec 10) (s : State) : Host.Outcome State Fault Refusal :=
  guarded (issueWake (opLaunch h d a w)) s

/-- DEDUCED, unsafe (log 58). -/
def opLaunchw (h : Hdr) (d : Opd) (w : BitVec 10) : Op :=
  { plainOp (.launchw h d w) h [] [(d, 2)] fun s c _ =>
      let vf := c.grp.vf s
      let x := s.win vf w.toNat
      if heldBy s c then (s, .stand (.retry .heldLine))
      else if x.kind ≠ 2 then opWait (applyOrder s c .release .wafer) d true (-5) [] true
      else if x.landed.toNat ≤ x.consumed.toNat then opWait (applyOrder s c .release .wafer) d true (-1) [] true
      else
        let at_ := x.lbase + 128 * (x.consumed.toNat % (x.len / 128))
        match loadAt s (windowAgent s vf x) at_ 128 3 false with
        | (s, .ev e) => (s, .event e)
        | (s, .bytes bs) | (s, .far bs _) =>
          acceptFor (s.modWin vf w.toNat fun y => { y with consumed := y.consumed + 1 }) c d w.toNat true bs
        | (s, .absent) | (s, .pressure) =>
          acceptFor (s.modWin vf w.toNat fun y => { y with consumed := y.consumed + 1 }) c d w.toNat true
            (List.replicate 128 0) with
    ends := true }

/-- LAUNCHW (R316). -/
def execLaunchw (h : Hdr) (d : Opd) (w : BitVec 10) (s : State) : Host.Outcome State Fault Refusal :=
  guarded (issueWake (opLaunchw h d w)) s

end Sys2Proof.Machine
end

