-- ==== Sys2Proof/Machine/Compart.lean ====
section
/-! DEFINITION. Call gates (R295 to R300) and the compartment and privileged instructions (R291, R301 to
R308): GATE, RETG, CPSET, CPGET, TLBINV, ASIDBIND, CKPT, CROLL, HALT and RESUME. -/

namespace Sys2Proof.Machine

open Sys2Proof

/-! ### GATE and RETG (R297, R299) -/

/-- GATE (R297): a rendezvous of the skein, whose completion checks the entry and calls.
DEDUCED, unsafe (log 116). -/
def execGate (h : Hdr) (n : BitVec 8) (args res : BitVec 5) (s : State) : Host.Outcome State Fault Refusal :=
  .next (issue { plainOp (.gate h n args res) h [] [] fun s c _ =>
    if heldBy s c then (s, .stand (.retry .heldLine)) else (s, .wait (.rdv (.gate n args res))) with
    -- the registers that pass, and those that the results replace, are full (R83, R297)
    waits := List.range (max args.toNat res.toNat) } s)

/-- R299: the results and the return in a caller's thread. -/
def returnTo (a res : Nat) (callee : Thread) (ret : Dword) (cycle : Nat) (t : Thread) : Thread :=
  if t.st = .inAct a then
    { ((List.range res).foldl (fun t i => t.setReg i (callee.reg i)) t) with
      st := .running, pc := ret, icount := callee.icount, ready := cycle }
  else t

/-- R299, R300: a thread returns into its caller's present state, and into its checkpoint.
DEDUCED, unsafe (log 53). -/
def returnGate (s : State) (a n : Nat) : State :=
  let x := s.actv a
  let t := Tab.get Thread.none x.threads n
  let t := { t with icount := t.icount + 1 }
  let f := returnTo a x.res t (Tab.get { retPc := 0 } x.callers n).retPc s.cycle
  let one (y : Body) : Body := { y with threads := Tab.put y.threads n (f (Tab.get Thread.none y.threads n)) }
  s.modBlk x.blk fun k => { k with body := one k.body, ckpt := if k.ckpt.threads = [] then k.ckpt else one k.ckpt }

/-- The activation ends when its last thread has returned (R299). -/
def endActivation (s : State) (a : Nat) : State :=
  if (s.actv a).live && (s.live (.act a)).isEmpty then s.setAct a Act.none else s

/-- RETG (R299). -/
def execRetg (h : Hdr) (e : BitVec 3) (s : State) : Host.Outcome State Fault Refusal :=
  let g := s.pick.grp
  let out := issueWake (plainOp (.retg h e) h [] [] fun s c _ =>
    match c.grp with
    | .act a =>
      let owed := (List.range (s.actv a).res).filter fun i => Tab.get false (s.thr c).empty i
      if owed ≠ [] then (s, .stand (.retry (.empty owed)))
      else (progress (returnGate s a c.n) (s.actv a).blk, .exited)
    | .blk _ | .slice _ _ => (s, .event (gateEv 0 9))) s
  .next (match g with
    | .act a => endActivation out a
    | .blk _ | .slice _ _ => out)

/-! ### What a core's slots hold (R291, R322) -/

/-- Register entries the resident blocks and activations of a slot hold; a thread that returns frees its frame
(R299). -/
def slotRegsUsed (s : State) (core slot : Nat) : Nat :=
  ((s.blocks.filter fun e => e.2.st == .resident && e.2.core == core && e.2.slot == slot).map fun e =>
    let l := s.launch e.2.launch
    l.g * l.e0 * l.skeins).sum +
  ((s.acts.filter fun e => e.2.live && e.2.entered && e.2.core == core && e.2.slot == slot).map fun e =>
    e.2.frame * (s.live (.act e.1)).length).sum

/-- The slot holds a resident block or an activation. -/
def slotBusy (s : State) (core slot : Nat) : Bool :=
  (s.blocks.any fun e => e.2.st == .resident && e.2.core == core && e.2.slot == slot) ||
  s.acts.any fun e => e.2.live && e.2.entered && e.2.core == core && e.2.slot == slot

/-- A core that is enabled and has not failed (R23). -/
def coreAlive (s : State) (n : Nat) : Bool :=
  n < 9216 && (s.field (coreField n)).state != 4 && (s.field (coreField n)).cores.getLsbD (n % 192)

/-! ### CPSET and CPGET (R290, R291, R303) -/

def CSlot.word (k : CSlot) : Nat → Dword
  | 0 => k.w0
  | 1 => k.w1
  | 2 => k.w2
  | _ => k.w3

/-- R290: the bits of a word that are not reserved. -/
def slotMask : Nat → Dword
  | 0 => 0x001FFFFF1FFFFFFF
  | 1 => 0xFFFFFFFF0001FFFF
  | 2 => 0xFF01FFFF1FFFFFFF
  | _ => 0xFFFFFFFFFFFFFFFF

def CSlot.setWord (k : CSlot) (w : Nat) (v : Dword) : CSlot :=
  let v := v &&& slotMask w
  match w with
  | 0 => { k with w0 := v }
  | 1 => { k with w1 := v }
  | 2 => { k with w2 := v }
  | _ => { k with w3 := v }

/-- Two runs of numbers meet. -/
def runsMeet (a n b m : Nat) : Bool := n != 0 && m != 0 && a < b + m && b < a + n

/-- R291: the conditions on a valid slot's own words. -/
def slotSane (k : CSlot) : Bool :=
  k.priv != 3 && k.maxsc != 0 && 10 ≤ k.ckper && k.ckper ≤ 1000 && 1 ≤ k.rfSize && k.rfBase + k.rfSize ≤ 256 &&
  k.spMask != 0 && k.l0Ways != 0 && k.ttBase + k.ttCnt ≤ 64 && k.xBase + k.xCnt ≤ 256

/-- R291: the conditions a valid slot meets. -/
def slotLegal (s : State) (core i : Nat) (k : CSlot) : Bool :=
  slotSane k &&
  (List.range 4).all fun j =>
    let o := s.cslot core j
    j == i || !o.valid ||
      !(runsMeet k.rfBase k.rfSize o.rfBase o.rfSize || (BitVec.ofNat 32 k.spMask &&& BitVec.ofNat 32 o.spMask) != 0 ||
        (BitVec.ofNat 16 k.l0Ways &&& BitVec.ofNat 16 o.l0Ways) != 0 || runsMeet k.ttBase k.ttCnt o.ttBase o.ttCnt ||
        runsMeet k.xBase k.xCnt o.xBase o.xCnt || o.ctxid == k.ctxid)

/-- What may change while the slot is busy: CKPER and MAXSC. -/
def sameButPeriod (a b : CSlot) : Bool :=
  setBits (setBits a.w0 19 2 0) 32 10 0 == setBits (setBits b.w0 19 2 0) 32 10 0 && a.w1 == b.w1 && a.w2 == b.w2 && a.w3 == b.w3

/-- R303: the write of a slot word, with its status. Clearing VALID scrubs the slot. -/
def writeSlot (s : State) (core i w : Nat) (v : Dword) : State × Nat :=
  if !coreAlive s core then (s, 1)
  else
    let old := s.cslot core i
    let new := old.setWord w v
    if slotBusy s core i && !sameButPeriod old new then (s, 2)
    else if new.valid then (if slotLegal s core i new then (s.setCslot core i new, 0) else (s, 3))
    else (s.setCslot core i (if old.valid then CSlot.none else new), 0)

/-- R322: the words of a slot filled from a context's template. -/
def fillFrom (s : State) (ctx : Nat) : CSlot :=
  let x := s.ctx ctx
  let asid (i : Nat) : Nat := Tab.get 0 x.asids i % 2 ^ 16
  { CSlot.none with
    w0 := .ofNat 64 (ctx % 2 ^ 16 + 2 ^ 16 + x.priv % 4 * 2 ^ 17 + x.maxsc % 4 * 2 ^ 19 + x.drain.toNat * 2 ^ 21 +
      x.av.toNat * 2 ^ 23 + x.aro.toNat * 2 ^ 26 + x.ckper % 1024 * 2 ^ 32 + x.vf % 64 * 2 ^ 42 + x.part % 32 * 2 ^ 48)
    w1 := x.tmpl1 &&& slotMask 1, w2 := x.tmpl2 &&& slotMask 2
    w3 := .ofNat 64 (asid 0 + 2 ^ 16 * asid 1 + 2 ^ 32 * asid 2 + 2 ^ 48 * asid 3) }

/-- R326: the virtual function of a slot is charged for its slice. -/
def chargeSlice (s : State) (core i : Nat) : State :=
  let k := s.cslot core i
  let w := (s.vf k.vf).weight
  if !k.valid || w == 0 then s
  else (s.modVf k.vf fun f => { f with vtime := f.vtime + (s.now - k.since) / 1000 * 256 / w }).setCslot core i { k with since := s.now }

/-- A slot is taken from its context, whose engine contexts (R204, R291) and activations' scratchpad bytes (R300)
stay with it. DEDUCED, unsafe (log 57). -/
def freeSlot (s : State) (core i : Nat) : State :=
  let s := chargeSlice s core i
  let k := s.cslot core i
  let s := if k.valid && (s.ctx k.ctxid).live then
      s.modCtx k.ctxid fun x => { x with tcs := Tab.put x.tcs core k.tcs, spads := Tab.put x.spads core k.spad } else s
  s.setCslot core i CSlot.none

/-- R322: a free slot is filled from a context's template, with what the context left on the core. -/
def giveSlot (s : State) (core i ctx : Nat) : State :=
  s.setCslot core i { fillFrom s ctx with
    since := s.now, tcs := Tab.get [] (s.ctx ctx).tcs core, spad := Tab.get [] (s.ctx ctx).spads core }

/-- R302: an instruction performed after an acq-rel fence at wafer scope; its thread waits with its status, and
may park there (R41). -/
def fencedOp (i : Instr) (h : Hdr) (d : Opd) (srcs : List Src) (priv : Nat)
    (target : State → Cx → List Dword → Option Ev) (act : State → Cx → List Dword → State × Nat × List Await) : Op :=
  { plainOp i h srcs [(d, 1)] fun s c v =>
      if heldBy s c then (s, .stand (.retry .heldLine))
      else
        let (s, st, await) := act (applyOrder s c .acqRel .wafer) c v
        opWait s d false (.ofNat 64 st) await true with
    ends := true, priv := fun _ _ => priv, target := target }

def opCpset (h : Hdr) (d a b : Opd) (slot word : BitVec 2) : Op :=
  fencedOp (.cpset h d a b slot word) h d [⟨a, 2, false⟩, ⟨b, 1, false⟩] 2 (fun _ _ _ => none) fun s _ v =>
    let (s, st) := writeSlot s (v.getD 1 0).toNat slot.toNat word.toNat (v.getD 0 0)
    (s, st, [])

/-- CPSET (R303). -/
def execCpset (h : Hdr) (d a b : Opd) (slot word : BitVec 2) (s : State) : Host.Outcome State Fault Refusal :=
  .next (issueWake (opCpset h d a b slot word) s)

/-- R303: the word that a CPGET finds; those of an invalid slot are zero. -/
def slotWordAt (s : State) (core slot word : Nat) : Dword :=
  if coreAlive s core && (s.cslot core slot).valid then (s.cslot core slot).word word else 0

/-- CPGET (R303): no fence precedes it, and the word is read at its completion. -/
def execCpget (h : Hdr) (d b : Opd) (slot word : BitVec 2) (s : State) : Host.Outcome State Fault Refusal :=
  .next (issue { plainOp (.cpget h d b slot word) h [⟨b, 1, false⟩] [(d, 2)] fun s _ v =>
    (s, .wait (.op { d := d, w64 := true, v := 0, await := [], get := some ((v.getD 0 0).toNat, slot.toNat, word.toNat)
                     parks := true, halts := false })) with
    priv := fun _ _ => 2 } s)

/-! ### TLBINV and ASIDBIND (R185, R304, R305) -/

/-- A target of another virtual function (R94, R436). DEDUCED, unsafe (log 48). -/
def foreignEv (level : Nat) : Ev := { code := 0x111, arg := 4, addr := 0, synd := level }

/-- A location lies in pages of an ASID. -/
def inPages (asid va len loc : Nat) : Bool :=
  loc / 2 ^ 55 == asid && va % 2 ^ 55 ≤ loc % 2 ^ 55 && loc % 2 ^ 55 < va % 2 ^ 55 + len

/-- Where the bytes of a cached line lie, and its leaf. -/
def lineLeaf (s : State) (core loc : Nat) : Option (Nat × Dword) :=
  let asid := loc / 2 ^ 55
  match Tab.find s.tlb (tlbKey asid loc) with
  | some ent => some (leafPa s core asid loc ent, ent.leaf)
  | none => match s.walk asid (loc % 2 ^ 55) with
    | .leaf l epa e => some (leafPa s core asid loc (TlbEnt.mk e l epa), e)
    | .bad _ _ _ => none

/-- Writes back and drops one cluster's copy, with the L0 copies under it. -/
def flushLine (s : State) (w : Writer) (key : Nat) : State :=
  let loc := key % 2 ^ 64 * 128
  let cl := key / 2 ^ 64
  match lineLeaf s (4 * cl) loc with
  | some (pa, e) => (writeBack s w cl loc pa (leafMk e) true).1
  | none => s.dropCline (4 * cl) loc

/-- R185: writes back and drops the copies of lines in a range. -/
def flushLines (s : State) (w : Writer) (asid va len : Nat) : List (Nat × CLine) → State
  | [] => s
  | (key, _) :: r =>
    flushLines (if inPages asid va len (key % 2 ^ 64 * 128) then flushLine s w key else s) w asid va len r

/-- R185: TLB entries, lines and directory entries of a range, everywhere on the wafer. -/
def invalidate (s : State) (w : Writer) (asid va len : Nat) : State :=
  let s := flushLines s w asid va len s.fab.clines
  let lines {α : Type} (unit_ : Nat) (t : Tab α) : Tab α := t.filter fun e => !inPages asid va len (e.1 % 2 ^ 64 * unit_)
  { s with
    tlb := s.tlb.filter fun e => !inPages asid va len (e.1 / 2 ^ 39 * 2 ^ 55 + e.1 % 2 ^ 39 * 2 ^ 16)
    fab := { s.fab with
      clines := lines 128 s.fab.clines, l0 := lines 128 s.fab.l0, l2 := lines 128 s.fab.l2, fcache := lines 128 s.fab.fcache
      fdir := lines 512 s.fab.fdir, sdir := lines 512 s.fab.sdir }
    cores := s.cores.map fun e => (e.1, { e.2 with
      lines := e.2.lines.filter fun l => !inPages asid va len (l.1 / 2 ^ 51 * 2 ^ 55 + l.1 % 2 ^ 51 * 64)
      failed := e.2.failed.filter fun l => !inPages asid va len (l / 2 ^ 51 * 2 ^ 55 + l % 2 ^ 51 * 64) }) }

/-- R305: the accesses of a range that are on their way: those a peer has yet to answer for a virtual function
that may use it, which name no address, and the writes held at homes. DEDUCED, safe (log 115). -/
def accessesOut (s : State) (vf asid va len : Nat) : List Await :=
  ((s.qps.filter fun q => q.2.live && (q.2.vf == vf || (s.asid asid).shared)).flatMap fun q =>
    (q.2.out.filter fun o => o.kind != 2 && o.kind != 9).map fun o => .answered q.1 o.psn) ++
  (s.held.filter fun h => inPages asid va len h.loc).map fun h => .homed h.loc

def opTlbinv (h : Hdr) (all : Bool) (d a b c : Opd) : Op :=
  { fencedOp (.tlbinv h all d a b c) h d [⟨a, 2, false⟩, ⟨b, 2, false⟩, ⟨c, 1, false⟩] 1
      (fun s cx v =>
        let asid := (v.getD 2 0).toNat
        if (s.asid asid).live ∧ (s.asid asid).vf ≠ cx.grp.vf s then some (foreignEv 1) else none)
      fun s cx v =>
        let asid := (v.getD 2 0).toNat
        if !(s.asid asid).live then (s, 1, [])
        else
          let w : Writer := { ctx := cx.grp.ctx s, blk := some (cx.grp.block s), thr := cx.n, precise := false, known := [] }
          let (va, len) := if all then (0, 2 ^ 55)
            else ((v.getD 0 0).toNat, if b = .z then 65536 else (v.getD 1 0).toNat)
          let s := invalidate s w asid va len
          (s, 0, accessesOut s (cx.grp.vf s) asid va len) with
    pre := fun _ _ v =>
      if !all && ((v.getD 0 0).toNat % 65536 != 0 || (v.getD 1 0).toNat % 65536 != 0) then
        some { code := 0x108, arg := 0, addr := (v.getD 0 0).toNat, synd := 0x10000 } else none }

/-- TLBINV (R305). -/
def execTlbinv (h : Hdr) (all : Bool) (d a b c : Opd) (s : State) : Host.Outcome State Fault Refusal :=
  .next (issueWake (opTlbinv h all d a b c) s)

/-- R304: a binding in a context, and in every slot that holds it. -/
def bindSlot (s : State) (ctx i : Nat) (asid : Option (Nat × Bool)) : State :=
  let m : BitVec 3 := .ofNat 3 (2 ^ (i - 1))
  let f (k : CSlot) : CSlot :=
    if k.valid && k.ctxid == ctx then
      match asid with
      | some (x, ro) => { k with
          w0 := setBits (setBits k.w0 (22 + i) 1 1) (25 + i) 1 ro.toNat
          w3 := setBits k.w3 (16 * i) 16 x }
      | none => { k with w0 := setBits k.w0 (22 + i) 1 0 }
    else k
  let s := s.modCtx ctx fun x => match asid with
    | some (n, ro) => { x with
        asids := Tab.put x.asids i n, av := x.av ||| m, aro := if ro then x.aro ||| m else x.aro &&& ~~~m }
    | none => { x with av := x.av &&& ~~~m }
  { s with cores := s.cores.map fun e => (e.1, { e.2 with slots := e.2.slots.map fun k => (k.1, f k.2) }) }

/-- R304: an ASID a steward may bind. -/
def bindable (s : State) (vf part asid : Nat) : Bool :=
  let x := s.asid asid
  x.live && (x.vf == vf || (x.shared && x.part == part))

def opAsidbind (h : Hdr) (ro unb : Bool) (d a b : Opd) (slot : BitVec 2) : Op :=
  fencedOp (.asidbind h ro unb d a b slot) h d [⟨a, 1, false⟩, ⟨b, 1, false⟩] 1
    (fun s c v =>
      let x := s.ctx (v.getD 0 0).toNat
      if x.live && x.vf != c.grp.vf s then some (foreignEv 1) else none)
    fun s c v =>
      let ctx := (v.getD 0 0).toNat
      let asid := (v.getD 1 0).toNat
      if !(s.ctx ctx).live then (s, 1, [])
      else if unb then (bindSlot s ctx slot.toNat none, 0, [])
      else if bindable s (c.grp.vf s) (c.grp.cslot s).part asid then (bindSlot s ctx slot.toNat (some (asid, ro)), 0, [])
      else (s, 1, [])

/-- ASIDBIND (R304). -/
def execAsidbind (h : Hdr) (ro unb : Bool) (d a b : Opd) (slot : BitVec 2) (s : State) : Host.Outcome State Fault Refusal :=
  .next (issueWake (opAsidbind h ro unb d a b slot) s)

/-! ### CKPT (R306) -/

def opCkpt (h : Hdr) (d : Opd) : Op :=
  fencedOp (.ckpt h d) h d [] 0 (fun _ _ _ => none) fun s c _ => (s, if c.grp.rollback s then 0 else 4, [])

/-- CKPT (R306). -/
def execCkpt (h : Hdr) (d : Opd) (s : State) : Host.Outcome State Fault Refusal := .next (issueWake (opCkpt h d) s)

/-! ### CROLL (R307) -/

/-- A halted block whose record still waits for room keeps what a steward asks of it (R411). -/
def awaitsRecord (k : Block) : Bool := k.halted && !k.pending.isEmpty

/-- R307 for one block: the block, and whether the instruction waits for it to leave its core. A HALT that has
named it stays asked for, and a block that leaves its place takes those tied to it along (R43, R44, R308), but never
the one that issues. -/
def crollBlock (s : State) (me : Option Nat) (stay : Bool) (b : Nat) : State × Bool :=
  let k := s.blk b
  let leave (s : State) : State := ((tiedTo s b).filter fun x => some x != me).foldl evictBlock s
  if k.st ≠ .resident then (s, false)
  else if awaitsRecord k then (s.modBlk b fun k => { k with crollNext := some stay }, false)
  else if k.halted then (leave s, false)
  else if !(s.cslot k.core k.slot).drain then (if stay then rollbackBlock s b else leave s, false)
  else if stay then (s, false)
  else (leave s, true)

def crollBlocks (s : State) (me : Option Nat) (stay : Bool) : List Nat → State × List Await
  | [] => (s, [])
  | b :: r =>
    let (s, w) := crollBlock s me stay b
    let (s, l) := crollBlocks s me stay r
    (s, if w then .parked b :: l else l)

/-- The resident blocks of a context, on one core or on all. -/
def residentOf (s : State) (ctx : Nat) (core : Option Nat) : List Nat :=
  (s.blocks.filter fun e => e.2.st == .resident && (s.launch e.2.launch).ctx == ctx &&
    (core.isNone || core == some e.2.core)).map (·.1)

/-- The activations under a context, on one core or on all. -/
def actsOf (s : State) (ctx : Nat) (core : Option Nat) : List Nat :=
  (s.acts.filter fun e => e.2.live && e.2.ctx == ctx && (core.isNone || core == some e.2.core)).map (·.1)

/-- R300: activations that hold a place under a context park at yield points, and are saved with it; a halted one
is saved as it stands, and a halt asked for comes first. -/
def parkActs (s : State) (ctx : Nat) (core : Option Nat) : State :=
  (actsOf s ctx core).foldl (fun s a => s.modAct a fun x =>
    if x.entered then { x with park := if x.park = .halt ∨ x.park = .leave then .leave else .save } else x) s

/-- R300: the activations under a context halt; one that has no place is halted as it stands. -/
def haltActs (s : State) (ctx : Nat) : State :=
  (actsOf s ctx none).foldl (fun s a => s.modAct a fun x =>
    if x.entered then (if x.halted then x else { x with park := haltFirst x.park }) else { x with halted := true }) s

/-- The activations of a list that an instruction waits for, but the one that issues it. -/
def actAwaits (s : State) (g : Grp) (l : List Nat) : List Await :=
  (l.filter fun a => (s.actv a).park != .none && g != .act a).map .actParked

def opCroll (h : Hdr) (stay : Bool) (d a b : Opd) : Op :=
  fencedOp (.croll h stay d a b) h d [⟨a, 1, false⟩, ⟨b, 1, false⟩] 1
    (fun s c v =>
      let x := s.ctx (v.getD 0 0).toNat
      if x.live && x.vf != c.grp.vf s then some (foreignEv 1) else none)
    fun s c v =>
      let ctx := (v.getD 0 0).toNat
      let core := if b = .z then none else some (v.getD 1 0).toNat
      if !(s.ctx ctx).live || core.any (fun n => (slotHolding s n ctx).isNone) then (s, 1, [])
      else
        let (s, await) := crollBlocks s (some (c.grp.block s)) stay ((residentOf s ctx core).filter (· != c.grp.block s))
        let s := if stay then s else parkActs s ctx core
        (s, 0, if stay then await else await ++ actAwaits s c.grp (actsOf s ctx core))

/-- CROLL (R307). -/
def execCroll (h : Hdr) (stay : Bool) (d a b : Opd) (s : State) : Host.Outcome State Fault Refusal :=
  .next (issueWake (opCroll h stay d a b) s)

/-! ### HALT and RESUME (R308, R408) -/

/-- The level R94 asks for, by target context. -/
def targetLevel (s : State) (c : Cx) (ctx : Nat) : Nat :=
  if ctx = c.grp.ctx s then 0 else if (s.ctx ctx).vf = c.grp.vf s then 1 else 2

/-- Live launches of a context, not fences. -/
def liveLaunches (s : State) (ctx : Nat) : List Nat :=
  (s.launches.filter fun e => e.2.live && e.2.ctx == ctx && !e.2.fence && e.2.state < 2).map (·.1)

/-- The blocks of a context that have started and not ended, all or the one named. -/
def targetBlocks (s : State) (ctx : Nat) (ident : Option Dword) : List Nat :=
  (s.blocks.filter fun e => (e.2.st == .resident || e.2.st == .saved) && (s.launch e.2.launch).ctx == ctx &&
    (ident.isNone || ident == some e.2.ident)).map (·.1)

/-- An identifier that names a block of a launch (R34). -/
def Launch.names (l : Launch) (b : Dword) : Bool :=
  (List.range 6).all (fun i => l.levelValue b i < l.ext i && (decide (l.b ≤ i) || l.levelValue b i == 0)) &&
    b.toNat < 2 ^ l.lo 6

/-- Launches with a block of that identifier that has not started. -/
def namedAhead (s : State) (ctx : Nat) (ident : Dword) : List Nat :=
  (liveLaunches s ctx).filter fun l => (s.launch l).names ident &&
    !(s.blocks.any fun e => e.2.launch == l && e.2.ident == ident && e.2.st != .absent)

/-- R308: asks a block to halt: a resident one parks, another halts when it next runs. -/
def haltBlock (s : State) (b : Nat) : State :=
  s.modBlk b fun k =>
    if k.halted then k
    else if k.st = .resident then
      { k with haltNext := true, park := haltFirst k.park, dbgHalt := (k.park != .halt && k.park != .leave) || k.dbgHalt }
    else { k with haltNext := true }

/-- What HALT does to its target, the blocks that have not started among it. -/
def haltTarget (s : State) (ctx : Nat) (ident : Option Dword) : State :=
  let s := (targetBlocks s ctx ident).foldl haltBlock s
  match ident with
  | some b => (namedAhead s ctx b).foldl (fun s l => s.modLaunch l fun x => { x with haltIds := x.haltIds ++ [b] }) s
  | none => haltActs ((liveLaunches s ctx).foldl (fun s l => s.modLaunch l fun x =>
      { x with haltRest := true, haltNot := [] }) s) ctx

/-- The context and block operands of HALT and RESUME. -/
def targetOf (s : State) (c : Cx) (a b : Opd) (v : List Dword) : Nat × Option Dword :=
  (if a = .z then c.grp.ctx s else (v.getD 0 0).toNat, if b = .z then none else some (v.getD 1 0))

/-- Some block of a live context is meant. -/
def targetThere (s : State) (ctx : Nat) (ident : Option Dword) : Bool :=
  (s.ctx ctx).live && match ident with
    | none => true
    | some b => !(targetBlocks s ctx (some b)).isEmpty || !(namedAhead s ctx b).isEmpty

/-- The privilege R94 asks of HALT and RESUME. -/
def targetEvent (s : State) (c : Cx) (a b : Opd) (v : List Dword) : Option Ev :=
  let ctx := (targetOf s c a b v).1
  if (s.ctx ctx).live && (c.grp.cslot s).priv < targetLevel s c ctx then some (foreignEv (targetLevel s c ctx)) else none

/-- A HALT names the group that issues it. -/
def namesSelf (s : State) (c : Cx) (ctx : Nat) (ident : Option Dword) : Bool :=
  match c.grp with
  | .blk b => (targetBlocks s ctx ident).contains b
  | .act a => ident.isNone && (s.actv a).ctx == ctx
  | .slice _ _ => false

/-- HALT waits for all it names but its own block, whose thread parks just after it (R302, R308).
DEDUCED, unsafe (log 55). -/
def opHalt (h : Hdr) (d a b : Opd) : Op :=
  { fencedOp (.halt h d a b) h d [⟨a, 1, false⟩, ⟨b, 2, false⟩] 0 (fun s c v => targetEvent s c a b v) fun s _ _ => (s, 0, []) with
    body := fun s c v =>
      let (ctx, ident) := targetOf s c a b v
      if heldBy s c then (s, .stand (.retry .heldLine))
      else
        let s := applyOrder s c .acqRel .wafer
        if !targetThere s ctx ident then opWait s d false 1 [] true
        else
          let self := namesSelf s c ctx ident
          let await := ((targetBlocks s ctx ident).filter fun n => c.grp != .blk n).map Await.parked
          let s := haltTarget s ctx ident
          let acts := if ident.isNone then actAwaits s c.grp (actsOf s ctx none) else []
          (s, .wait (.op { d := d, w64 := false, v := 0, await := await ++ acts, get := none, parks := !self, halts := self })) }

/-- HALT (R308). -/
def execHalt (h : Hdr) (d a b : Opd) (s : State) : Host.Outcome State Fault Refusal :=
  .next (issueWake (opHalt h d a b) s)

/-- R375, R408, R414: the stopped threads of a group go on: they issue again, past their own breakpoint;
those whose trap is the handler's are vectored. -/
def resumeThreads (s : State) (g : Grp) : State :=
  let stops : List (Nat × Ev) := (s.live g).filterMap fun n => ((s.thr ⟨g, n⟩).stop).map fun e => (n, e)
  stops.foldl (fun s x =>
    let c : Cx := ⟨g, x.1⟩
    let s := s.modThr c fun t => { t with stop := none, skipBp := true, ready := s.cycle }
    if codeClass x.2.code == 0 && !x.2.isDebug && (handlerRefuses s c).isNone then
      let nthr := (stops.filter fun y => y.2.code == x.2.code && (s.thr ⟨g, y.1⟩).pc == (s.thr c).pc).length
      match takeTrap s c x.2 nthr with
      | (s, .handler) => s
      | (s, .steward e) => takeEvents s g [(x.1, e)]
      | (s, .later) => requestPark (s.modThr c fun t => { t with stop := some x.2 }) (g.block s) .pressure
    else s) s

/-- The slices of a block that stopped go on. -/
def resumeSlices (s : State) (b : Nat) : State :=
  s.modBody b fun y => { y with skeins := y.skeins.map fun e =>
    (e.1, { e.2 with slice := { e.2.slice with stop := none } }) }

/-- R308, R411, R450: a block's halt is cleared; its resumption acquires at wafer scope.
DESIGN CHOICE, unsafe (log 56). -/
def resumeBlock (s : State) (b : Nat) : State :=
  let k := s.blk b
  if awaitsRecord k then s.modBlk b fun k => { k with resumeNext := true }
  else if k.halted then
    let s := s.modBlk b fun k => { k with halted := false, haltNext := false, resumeNext := false }
    dropBlockInv (resumeSlices (resumeThreads s (.blk b)) b) b k.core
  else s.modBlk b fun k => if k.st = .resident then k else { k with haltNext := false }

/-- An activation halted with its context goes on (R300). -/
def resumeActs (s : State) (ctx : Nat) : State :=
  (s.acts.filter fun e => e.2.live && e.2.ctx == ctx && e.2.halted).foldl (fun s e =>
    resumeThreads (s.modAct e.1 fun x => { x with halted := false }) (.act e.1)) s

/-- What RESUME does to its target. -/
def resumeTarget (s : State) (ctx : Nat) (ident : Option Dword) : State :=
  let s := (targetBlocks s ctx ident).foldl resumeBlock s
  match ident with
  | some b => (namedAhead s ctx b).foldl (fun s l => s.modLaunch l fun x =>
      { x with haltIds := x.haltIds.filter (· != b), haltNot := if x.haltRest then x.haltNot ++ [b] else [] }) s
  | none => resumeActs ((liveLaunches s ctx).foldl (fun s l => s.modLaunch l fun x =>
      { x with haltIds := [], haltRest := false, haltNot := [] }) s) ctx

def opResume (h : Hdr) (d a b : Opd) : Op :=
  fencedOp (.resume h d a b) h d [⟨a, 1, false⟩, ⟨b, 2, false⟩] 0 (fun s c v => targetEvent s c a b v) fun s c v =>
    let (ctx, ident) := targetOf s c a b v
    if targetThere s ctx ident then (resumeTarget s ctx ident, 0, []) else (s, 1, [])

/-- RESUME (R308). -/
def execResume (h : Hdr) (d a b : Opd) (s : State) : Host.Outcome State Fault Refusal :=
  guarded (issueWake (opResume h d a b)) s

end Sys2Proof.Machine
end

