-- ==== Sys2Proof/Machine/Integer.lean ====
section
/-! DEFINITION. The integer and address instructions (R139 to R145). -/

namespace Sys2Proof.Machine

open Sys2Proof

/-- A 64-bit result of the values of A, B and C; `nb` is how many registers B takes. -/
def op64 (i : Instr) (h : Hdr) (f : F0) (nb : Nat) (v : Dword → Dword → Dword) : Op :=
  plainOp i h (f0Srcs f 2 nb 1) [(f.d, 2)] fun s c x => put64 s c f.d (v (x.getD 0 0) (x.getD 1 0))

/-- A 32-bit result that is written late (R81). -/
def opLate (i : Instr) (h : Hdr) (f : F0) (v : Word → Word → Word) : Op :=
  plainOp i h (f0Srcs f 1 1 1) [(f.d, 1)] fun s c x =>
    putLate s c f.d (v ((x.getD 0 0).setWidth 32) ((x.getD 1 0).setWidth 32))

/-- R140: a result with a carry or borrow out, written to the predicate `co`. -/
def opCarry (i : Instr) (h : Hdr) (f : F0) (co : BitVec 4) (v : Word → Word → Bool → Word × Bool) : Op :=
  plainOp i h (f0Srcs f 1 1 1) [(f.d, 1), (.p co, 1)] fun s c x =>
    let r := v ((x.getD 0 0).setWidth 32) (immS f ((x.getD 1 0).setWidth 32)) (rdP s c f.c)
    if isS f.d && !c.grp.isSlice then
      (s, .wait (.rdv (.sreg f.d false (r.1.zeroExtend 64) (nextPc (s.thr c).pc) none (some (co, r.2)))))
    else (wrP (wr32 s c f.d r.1) c co.toNat r.2, .seq)

/-- R144: a comparison. -/
def opFlag (i : Instr) (h : Hdr) (f : F0) (n : Nat) (v : Dword → Dword → Bool) : Op :=
  plainOp i h (f0Srcs f n n 1) [(f.d, 1)] fun s c x => putFlag s c f.d (v (x.getD 0 0) (x.getD 1 0))

/-- IADD (R139). -/
def execIadd (h : Hdr) (f : F0) (s : State) : Host.Outcome State Fault Refusal :=
  .next (issue (op32 (.iadd h f) h f fun a b _ => a + immS f b) s)

/-- ISUB (R139). -/
def execIsub (h : Hdr) (f : F0) (s : State) : Host.Outcome State Fault Refusal :=
  .next (issue (op32 (.isub h f) h f fun a b _ => a - immS f b) s)

/-- IADDC (R140). -/
def execIaddc (h : Hdr) (co : BitVec 4) (f : F0) (s : State) : Host.Outcome State Fault Refusal :=
  .next (issue (opCarry (.iaddc h co f) h f co addCarry) s)

/-- ISUBB (R140). -/
def execIsubb (h : Hdr) (co : BitVec 4) (f : F0) (s : State) : Host.Outcome State Fault Refusal :=
  .next (issue (opCarry (.isubb h co f) h f co subBorrow) s)

/-- IMUL (R139). -/
def execImul (h : Hdr) (f : F0) (s : State) : Host.Outcome State Fault Refusal :=
  .next (issue (op32 (.imul h f) h f fun a b _ => a * immS f b) s)

/-- IMULH (R139). -/
def execImulh (h : Hdr) (f : F0) (s : State) : Host.Outcome State Fault Refusal :=
  .next (issue (op32 (.imulh h f) h f fun a b _ => mulHigh a (immS f b)) s)

/-- IMULHU (R139). -/
def execImulhu (h : Hdr) (f : F0) (s : State) : Host.Outcome State Fault Refusal :=
  .next (issue (op32 (.imulhu h f) h f fun a b _ => mulHighU a (immZ f b)) s)

/-- IMAD (R139). -/
def execImad (h : Hdr) (f : F0) (s : State) : Host.Outcome State Fault Refusal :=
  .next (issue (op32 (.imad h f) h f fun a b c => a * immS f b + c) s)

/-- IADD64 (R139). -/
def execIadd64 (h : Hdr) (f : F0) (s : State) : Host.Outcome State Fault Refusal :=
  .next (issue (op64 (.iadd64 h f) h f 2 fun a b => a + imm64 f b) s)

/-- ISUB64 (R139). -/
def execIsub64 (h : Hdr) (f : F0) (s : State) : Host.Outcome State Fault Refusal :=
  .next (issue (op64 (.isub64 h f) h f 2 fun a b => a - imm64 f b) s)

/-- IMUL64 (R139). -/
def execImul64 (h : Hdr) (f : F0) (s : State) : Host.Outcome State Fault Refusal :=
  .next (issue (op64 (.imul64 h f) h f 2 fun a b => a * b) s)

/-- IDIVU (R141). -/
def execIdivu (h : Hdr) (f : F0) (s : State) : Host.Outcome State Fault Refusal :=
  .next (issue (opLate (.idivu h f) h f fun a b => divU a (immZ f b)) s)

/-- IDIVS (R141). -/
def execIdivs (h : Hdr) (f : F0) (s : State) : Host.Outcome State Fault Refusal :=
  .next (issue (opLate (.idivs h f) h f fun a b => divS a (immS f b)) s)

/-- IREMU (R141). -/
def execIremu (h : Hdr) (f : F0) (s : State) : Host.Outcome State Fault Refusal :=
  .next (issue (opLate (.iremu h f) h f fun a b => remU a (immZ f b)) s)

/-- IREMS (R141). -/
def execIrems (h : Hdr) (f : F0) (s : State) : Host.Outcome State Fault Refusal :=
  .next (issue (opLate (.irems h f) h f fun a b => remS a (immS f b)) s)

/-- IMIN (R139). -/
def execImin (h : Hdr) (f : F0) (s : State) : Host.Outcome State Fault Refusal :=
  .next (issue (op32 (.imin h f) h f fun a b _ => minS a (immS f b)) s)

/-- IMAX (R139). -/
def execImax (h : Hdr) (f : F0) (s : State) : Host.Outcome State Fault Refusal :=
  .next (issue (op32 (.imax h f) h f fun a b _ => maxS a (immS f b)) s)

/-- IMINU (R139). -/
def execIminu (h : Hdr) (f : F0) (s : State) : Host.Outcome State Fault Refusal :=
  .next (issue (op32 (.iminu h f) h f fun a b _ => minU a (immZ f b)) s)

/-- IMAXU (R139). -/
def execImaxu (h : Hdr) (f : F0) (s : State) : Host.Outcome State Fault Refusal :=
  .next (issue (op32 (.imaxu h f) h f fun a b _ => maxU a (immZ f b)) s)

/-- IABS (R139). -/
def execIabs (h : Hdr) (f : F0) (s : State) : Host.Outcome State Fault Refusal :=
  .next (issue (op32 (.iabs h f) h f fun a _ _ => absW a) s)

/-- INEG (R139). -/
def execIneg (h : Hdr) (f : F0) (s : State) : Host.Outcome State Fault Refusal :=
  .next (issue (op32 (.ineg h f) h f fun a _ _ => 0 - a) s)

/-- AND (R139). -/
def execAnd (h : Hdr) (f : F0) (s : State) : Host.Outcome State Fault Refusal :=
  .next (issue (op32 (.and h f) h f fun a b _ => a &&& immZ f b) s)

/-- OR (R139). -/
def execOr (h : Hdr) (f : F0) (s : State) : Host.Outcome State Fault Refusal :=
  .next (issue (op32 (.or h f) h f fun a b _ => a ||| immZ f b) s)

/-- XOR (R139). -/
def execXor (h : Hdr) (f : F0) (s : State) : Host.Outcome State Fault Refusal :=
  .next (issue (op32 (.xor h f) h f fun a b _ => a ^^^ immZ f b) s)

/-- NOT (R139). -/
def execNot (h : Hdr) (f : F0) (s : State) : Host.Outcome State Fault Refusal :=
  .next (issue (op32 (.not h f) h f fun a _ _ => ~~~ a) s)

/-- ANDN (R139). -/
def execAndn (h : Hdr) (f : F0) (s : State) : Host.Outcome State Fault Refusal :=
  .next (issue (op32 (.andn h f) h f fun a b _ => a &&& ~~~ immZ f b) s)

/-- SHL (R142). -/
def execShl (h : Hdr) (wrap : Bool) (f : F0) (s : State) : Host.Outcome State Fault Refusal :=
  .next (issue (op32 (.shl h wrap f) h f fun a b _ => shiftL wrap a (immZ f b)) s)

/-- SHR (R142). -/
def execShr (h : Hdr) (wrap : Bool) (f : F0) (s : State) : Host.Outcome State Fault Refusal :=
  .next (issue (op32 (.shr h wrap f) h f fun a b _ => shiftR wrap a (immZ f b)) s)

/-- SAR (R142). -/
def execSar (h : Hdr) (wrap : Bool) (f : F0) (s : State) : Host.Outcome State Fault Refusal :=
  .next (issue (op32 (.sar h wrap f) h f fun a b _ => shiftA wrap a (immZ f b)) s)

/-- SHL64 (R142). -/
def execShl64 (h : Hdr) (wrap : Bool) (f : F0) (s : State) : Host.Outcome State Fault Refusal :=
  .next (issue (op64 (.shl64 h wrap f) h f 1 fun a b => shiftL wrap a (immZ f (b.setWidth 32))) s)

/-- SHR64 (R142). -/
def execShr64 (h : Hdr) (wrap : Bool) (f : F0) (s : State) : Host.Outcome State Fault Refusal :=
  .next (issue (op64 (.shr64 h wrap f) h f 1 fun a b => shiftR wrap a (immZ f (b.setWidth 32))) s)

/-- SAR64 (R142). -/
def execSar64 (h : Hdr) (wrap : Bool) (f : F0) (s : State) : Host.Outcome State Fault Refusal :=
  .next (issue (op64 (.sar64 h wrap f) h f 1 fun a b => shiftA wrap a (immZ f (b.setWidth 32))) s)

/-- ROTL (R139). -/
def execRotl (h : Hdr) (f : F0) (s : State) : Host.Outcome State Fault Refusal :=
  .next (issue (op32 (.rotl h f) h f fun a b _ => rotL a (immZ f b)) s)

/-- FUNNEL (R143). -/
def execFunnel (h : Hdr) (left : Bool) (f : F0) (s : State) : Host.Outcome State Fault Refusal :=
  .next (issue (op32 (.funnel h left f) h f fun a b c => Sys2Proof.Machine.funnel left a b c) s)

/-- POPC (R139). -/
def execPopc (h : Hdr) (f : F0) (s : State) : Host.Outcome State Fault Refusal :=
  .next (issue (op32 (.popc h f) h f fun a _ _ => popW a) s)

/-- CLZ (R139). -/
def execClz (h : Hdr) (f : F0) (s : State) : Host.Outcome State Fault Refusal :=
  .next (issue (op32 (.clz h f) h f fun a _ _ => clzW a) s)

/-- CTZ (R139). -/
def execCtz (h : Hdr) (f : F0) (s : State) : Host.Outcome State Fault Refusal :=
  .next (issue (op32 (.ctz h f) h f fun a _ _ => ctzW a) s)

/-- BREV (R139). -/
def execBrev (h : Hdr) (f : F0) (s : State) : Host.Outcome State Fault Refusal :=
  .next (issue (op32 (.brev h f) h f fun a _ _ => brevW a) s)

/-- BFE (R143). -/
def execBfe (h : Hdr) (sgn : Bool) (f : F0) (s : State) : Host.Outcome State Fault Refusal :=
  .next (issue (op32 (.bfe h sgn f) h f fun a b _ => Sys2Proof.Machine.bfe sgn a (immZ f b)) s)

/-- BFI (R143). -/
def execBfi (h : Hdr) (f : F0) (s : State) : Host.Outcome State Fault Refusal :=
  .next (issue (op32 (.bfi h f) h f fun a b c => Sys2Proof.Machine.bfi a (immZ f b) c) s)

/-- BYSEL (R143). -/
def execBysel (h : Hdr) (f : F0) (s : State) : Host.Outcome State Fault Refusal :=
  .next (issue (op32 (.bysel h f) h f fun a b c => Sys2Proof.Machine.bysel a (if f.ib then byselImm f.imm else b) c) s)

/-- ISET (R144). -/
def execIset (h : Hdr) (cmp : ICmp) (f : F0) (s : State) : Host.Outcome State Fault Refusal :=
  .next (issue (opFlag (.iset h cmp f) h f 1 fun a b =>
    icmp cmp (a.setWidth 32 : Word) (if icmpSigned cmp then immS f (b.setWidth 32) else immZ f (b.setWidth 32))) s)

/-- ISET64 (R144). -/
def execIset64 (h : Hdr) (cmp : ICmp) (f : F0) (s : State) : Host.Outcome State Fault Refusal :=
  .next (issue (opFlag (.iset64 h cmp f) h f 2 fun a b =>
    icmp cmp a (if !f.ib then b else if icmpSigned cmp then f.imm.signExtend 64 else f.imm.zeroExtend 64)) s)

/-- ISEL (R144). -/
def execIsel (h : Hdr) (f : F0) (s : State) : Host.Outcome State Fault Refusal :=
  .next (issue (plainOp (.isel h f) h (f0Srcs f 1 1 1) [(f.d, 1)] fun s c x =>
    put32 s c f.d (if rdP s c f.c then (x.getD 0 0).setWidth 32 else immS f ((x.getD 1 0).setWidth 32))) s)

/-- The engine context a tc specifier names. -/
def tcOf : Opd → List Nat
  | .tc n => [n.toNat]
  | .g _ | .s _ | .p _ | .q _ | .j _ | .a _ | .z => []

/-- MOV (R145). -/
def execMov (h : Hdr) (w64 : Bool) (f : F0) (s : State) : Host.Outcome State Fault Refusal :=
  .next (issue (if w64 then { op64 (.mov h w64 f) h f 1 fun a _ => a with tcs := tcOf f.a }
    else op32 (.mov h w64 f) h f fun a _ _ => a) s)

/-- MOVI (R145). -/
def execMovi (h : Hdr) (w64 : Bool) (d : Opd) (imm : BitVec 32) (s : State) : Host.Outcome State Fault Refusal :=
  .next (issue (plainOp (.movi h w64 d imm) h [] [(d, if w64 then 2 else 1)] fun s c _ =>
    if w64 then put64 s c d (imm.signExtend 64) else put32 s c d imm) s)

/-- MOVS (R145). -/
def execMovs (h : Hdr) (w64 : Bool) (f : F0) (s : State) : Host.Outcome State Fault Refusal :=
  .next (issue (if w64 then op64 (.movs h w64 f) h f 1 fun a _ => a
    else op32 (.movs h w64 f) h f fun a _ _ => a) s)

/-- LEA (R145). -/
def execLea (h : Hdr) (scale : BitVec 3) (iu : Bool) (f : F0) (s : State) : Host.Outcome State Fault Refusal :=
  .next (issue (op64 (.lea h scale iu f) h f 1 fun a b =>
    Sys2Proof.Machine.lea scale.toNat iu a (b.setWidth 32) f.imm) s)

end Sys2Proof.Machine
end

