-- ==== Sys2Proof/Machine/Control.lean ====
section
/-! DEFINITION. The control and system instructions (R123 to R138). -/

namespace Sys2Proof.Machine

open Sys2Proof

/-- An instruction that reaches no register late: its sources, destinations and effect. -/
def ctlOp (i : Instr) (h : Hdr) (srcs : List Src) (dsts : List (Opd × Nat))
    (body : State → Cx → List Dword → State × Next) : Op :=
  plainOp i h srcs dsts body

/-- NOP (R138). -/
def execNop (h : Hdr) (s : State) : Host.Outcome State Fault Refusal :=
  .next (issue (ctlOp (.nop h) h [] [] fun s _ _ => (s, .seq)) s)

/-! ### Branches, calls and returns (R124, R125) -/

/-- R63, R124: a checked transfer, with the enrolment an ENR makes before it. The manual does not say what an
ENR does in the access slice: it enrols the slice's logical lane. DESIGN CHOICE, unsafe (log 105). -/
def jump (s : State) (c : Cx) (tgt : Dword) (f : F3) : State × Next :=
  match checkTarget s c tgt with
  | (s, some e) => (s, .event e)
  | (s, none) => (if f.enr then enrolLane s c.grp c.skein f.j.toNat c.lane else s, .goto tgt)

/-- R125: a checked transfer that writes the PC after it to a link; to an s pair by rendezvous (R75), at whose
completion an ENR enrols. DESIGN CHOICE, unsafe (log 106). -/
def callTo (s : State) (c : Cx) (link : Opd) (tgt : Dword) (f : F3) : State × Next :=
  let ret := nextPc (s.thr c).pc
  match checkTarget s c tgt with
  | (s, some e) => (s, .event e)
  | (s, none) =>
    if isS link then (s, .wait (.rdv (.sreg link true ret tgt (if f.enr then some f.j.toNat else none) none)))
    else (wr64 (if f.enr then enrolLane s c.grp c.skein f.j.toNat c.lane else s) c link ret, .goto tgt)

/-- BRA (R124). -/
def execBra (h : Hdr) (f : F3) (s : State) : Host.Outcome State Fault Refusal :=
  guarded (issue (ctlOp (.bra h f) h [] [] fun s c _ => jump s c (branchTarget (s.thr c).pc f.disp) f)) s

/-- BRX (R124). -/
def execBrx (h : Hdr) (rel : Bool) (f : F3) (s : State) : Host.Outcome State Fault Refusal :=
  guarded (issue (ctlOp (.brx h rel f) h [⟨f.a, if rel then 1 else 2, false⟩] [] fun s c x =>
    let a := x.getD 0 0
    jump s c (if rel then slotPc (slotNumber (s.thr c).pc + f.disp.toInt + (a.lo).toInt) else a) f)) s

/-- CALL (R125). -/
def execCall (h : Hdr) (f : F3) (s : State) : Host.Outcome State Fault Refusal :=
  guarded (issue (ctlOp (.call h f) h [] [(f.a, 2)] fun s c _ =>
    callTo s c f.a (branchTarget (s.thr c).pc f.disp) f)) s

/-- CALLX (R125). -/
def execCallx (h : Hdr) (link : Opd) (f : F3) (s : State) : Host.Outcome State Fault Refusal :=
  guarded (issue (ctlOp (.callx h link f) h [⟨f.a, 2, false⟩] [(link, 2)] fun s c x =>
    callTo s c link (x.getD 0 0) f)) s

/-- RET (R125). -/
def execRet (h : Hdr) (a : Opd) (s : State) : Host.Outcome State Fault Refusal :=
  guarded (issue (ctlOp (.ret h a) h [⟨a, 2, false⟩] [] fun s c x =>
    match checkTarget s c (x.getD 0 0) with
    | (s, some e) => (s, .event e)
    | (s, none) => (s, .goto (x.getD 0 0)))) s

/-! ### Rejoin, yield and exit (R126 to R128) -/

/-- ENROL (R38, R126). -/
def execEnrol (h : Hdr) (j : BitVec 3) (s : State) : Host.Outcome State Fault Refusal :=
  .next (issue (ctlOp (.enrol h j) h [] [] fun s c _ => (enrolLane s c.grp c.skein j.toNat c.lane, .seq)) s)

/-- R39: a lane arrives at a rejoin register. -/
def arriveLane (s : State) (c : Cx) (j : Nat) : State :=
  s.modSk c.grp c.skein fun x =>
    { x with arrived := Tab.set 0 x.arrived j (Tab.get 0 x.arrived j ||| BitVec.ofNat 64 (2 ^ c.lane)) }

/-- JOIN (R39, R126). -/
def execJoin (h : Hdr) (j : BitVec 3) (s : State) : Host.Outcome State Fault Refusal :=
  .next (issue (ctlOp (.join h j) h [] [] fun s c _ =>
    if Tab.get 0 (s.sk c.grp c.skein).enrolled j.toNat = 0 then (s.modThr c yieldDone, .seq)
    else (arriveLane s c j.toNat, .wait (.join j.toNat))) s)

/-- YIELD (R40, R41, R127); in the access slice it performs nothing. -/
def execYield (h : Hdr) (e : BitVec 3) (n : BitVec 12) (s : State) : Host.Outcome State Fault Refusal :=
  .next (issue (ctlOp (.yield h e n) h [] [] fun s c _ =>
    (if c.grp.isSlice then s
     else s.modThr c fun t => { t with yc := n.toNat, lasty := t.pc, yielded := true }, .seq)) s)

/-- R53: the access slice of a skein ends, and its unread entries are discarded. -/
def endSlice (s : State) (b k : Nat) (drop : Bool) : State :=
  s.modSk (.blk b) k fun x =>
    { x with slice := { x.slice with active := false, fenceWait := false }
             queues := if drop then x.queues.map fun q => (q.1, { q.2 with data := [] }) else x.queues }

/-- R128: the end of a thread. -/
def endThread (s : State) (c : Cx) : State :=
  let t := s.thr c
  let s := if t.due || t.vectored then leaveInside s c else s
  let s := s.modThr c fun t => { t with owed := [], due := false, vectored := false, intrap := false }
  let s := progress s (c.grp.block s)
  match c.grp with
  | .blk b => if s.liveSk c.grp c.skein = [c.n] then endSlice s b c.skein true else s
  | .act _ | .slice _ _ => s

/-- EXIT (R128); in the access slice it ends the slice (R53). -/
def execExit (h : Hdr) (e : BitVec 3) (s : State) : Host.Outcome State Fault Refusal :=
  .next (issueWake { ctlOp (.exit h e) h [] [] fun s c _ =>
    (match c.grp with
      | .slice b k => endSlice s b k false
      | .blk _ | .act _ => endThread s c, .exited) with noAct := true } s)

/-! ### Barriers and waits (R129 to R133) -/

/-- BAR (R129). -/
def execBar (h : Hdr) (e : BitVec 3) (s : State) : Host.Outcome State Fault Refusal :=
  .next (issue (ctlOp (.bar h e) h [] [] fun s c _ =>
    if heldBy s c then (s, .stand (.retry .heldLine)) else (s, .wait .bar)) s)

def kindEv : Ev := { code := 0x109, arg := 0, addr := 0, synd := 0 }

/-- R129, R130: the arrival at a barrier wider than the block: a release of a rollback-mode block's
interval, clamped to MAXSC (R445). -/
def wideBarrier (i : Instr) (h : Hdr) (sc : Scope) (w : Wait) (ok : State → Cx → Bool) : Op :=
  { ctlOp i h [] [] fun s c _ =>
      if heldBy s c then (s, .stand (.retry .heldLine)) else (clampScope s c sc, .wait w) with
    noAct := true, ends := true, pre := fun s c _ => if ok s c then none else some kindEv }

def opBarg (h : Hdr) (e : BitVec 3) : Op := wideBarrier (.barg h e) h .field .barg fun s c => (c.grp.launch s).k ≠ 0

/-- BARG (R129). -/
def execBarg (h : Hdr) (e : BitVec 3) (s : State) : Host.Outcome State Fault Refusal :=
  .next (issue (opBarg h e) s)

def opBarw (h : Hdr) (e : BitVec 3) : Op := wideBarrier (.barw h e) h .wafer .barw fun s c => (c.grp.launch s).resident

/-- BARW (R129, R340). -/
def execBarw (h : Hdr) (e : BitVec 3) (s : State) : Host.Outcome State Fault Refusal :=
  .next (issue (opBarw h e) s)

/-- WAITTL (R132). -/
def execWaittl (h : Hdr) (tc : BitVec 3) (a : Opd) (e : Bool) (scope : Scope) (imm : BitVec 32) (s : State) :
    Host.Outcome State Fault Refusal :=
  .next (issue { ctlOp (.waittl h tc a e scope imm) h [⟨a, 2, e⟩] [] fun s c x =>
    let thr := (x.getD 0 0 + imm.zeroExtend 64).toNat
    if thr ≤ completedOf s c tc.toNat then ((applyOrder s c .acquire scope).modThr c yieldDone, .seq)
    else (s, .wait (.tl tc.toNat thr scope)) with tcs := [tc.toNat] } s)

/-- NAP (R133). -/
def execNap (h : Hdr) (a : Opd) (e : Bool) (imm : BitVec 16) (s : State) : Host.Outcome State Fault Refusal :=
  .next (issue (ctlOp (.nap h a e imm) h [⟨a, 1, e⟩] [] fun s _ x =>
    let n := min 65535 ((x.getD 0 0).toNat + imm.toNat)
    if n = 0 then (s, .seq) else (s, .wait (.nap (s.cycle + n)))) s)

/-! ### User-level interrupts (R134, R135) -/

/-- RETU (R134, R49, R406). -/
def execRetu (h : Hdr) (e : BitVec 3) (s : State) : Host.Outcome State Fault Refusal :=
  .next (issue (ctlOp (.retu h e) h [] [] fun s c _ =>
    match returnTrap s c with
    | (s, some e) => (s, .event e)
    | (s, none) => (s, .goto (s.thr c).pc)) s)

/-- UMASK (R135). -/
def execUmask (h : Hdr) (e : Bool) (v : Bool) (s : State) : Host.Outcome State Fault Refusal :=
  .next (issue (ctlOp (.umask h e v) h [] [] fun s _ _ => (s, .wait (.rdv (.umask v)))) s)

/-! ### Special registers (R86, R87, R136) -/

/-- R87. -/
def statusWord (s : State) (c : Cx) : Nat :=
  let l := c.grp.launch s
  let k := c.grp.cslot s
  (s.thr c).clamp.toNat + 2 * l.det.toNat + 4 * l.replays.toNat + 8 * k.drain.toNat + 16 * l.prio + 64 * k.priv

/-- R86: the value of a special register. -/
def sregValue (s : State) (c : Cx) (r : SReg) : Dword :=
  let t := s.thr c
  let l := c.grp.launch s
  let b := s.blk (c.grp.block s)
  let k := s.sk c.grp c.skein
  let core := c.grp.core s
  match r with
  | .wid => wid s c
  | .lane => .ofNat 64 c.lane
  | .skein => .ofNat 64 c.skein
  | .block => b.ident
  | .field => .ofNat 64 (coreField core)
  | .core => .ofNat 64 core
  | .cmpt => .ofNat 64 (c.grp.cslot s).ctxid
  | .launch => .ofNat 64 l.lnum
  | .clock => s.clock
  | .time => .ofNat 64 s.now
  | .status => .ofNat 64 (statusWord s c)
  | .hvec => k.hvec
  | .epc => t.epc
  | .upend => k.upend.zeroExtend 64
  | .seed => l.seed
  | .icount => t.icount
  | .ycount => .ofNat 64 t.yc
  | .lasty => t.lasty
  | .umask => if k.masked then 1 else 0
  | .gregs => .ofNat 64 l.g
  | .levels => .ofNat 64 l.levels
  | .gtsel => t.gtsel.zeroExtend 64
  | .gtdata => gateWord s (c.grp.cslot s).part (t.gtsel.toNat % 256) (t.gtsel.toNat / 256)

/-- SREAD (R136). -/
def execSread (h : Hdr) (d : Opd) (e : Bool) (r : SReg) (s : State) : Host.Outcome State Fault Refusal :=
  let put (s : State) (c : Cx) (v : Dword) : State × Next := if r.wide then put64 s c d v else put32 s c d v.lo
  .next (issue (ctlOp (.sread h d e r) h [] [(d, if r.wide then 2 else 1)] fun s c _ =>
    if r = .clock ∨ r = .time then
      match noteTimer s c (sregValue s c r) with
      | (s, .error e) => (s, .event e)
      | (s, .ok v) => put s c v
    else put s c (sregValue s c r)) s)

/-- R296: whether a write of W0 may set VALID, given W1. -/
def gateLegal (s : State) (part : Nat) (w0 w1 : Dword) : Bool :=
  let args := bitsOf w0 23 5
  let res := bitsOf w0 28 5
  let frame := bitsOf w0 33 8
  let x := s.ctx (bitsOf w0 0 16)
  args ≤ 16 && res ≤ 16 && 8 ≤ frame && frame ≤ 128 && frame % 8 == 0 && args ≤ frame && res ≤ frame &&
    x.live && x.drain && x.part == part && namesSlot w1

/-- R295, R296: a write of word w of an entry, by virtual function v: OWNER is the device's, reserved bits
stay zero. -/
def writeGate (s : State) (part n w v : Nat) (x : Dword) : State :=
  let y := match w with
    | 0 =>
      let x := setBits (setBits x 17 6 v) 41 23 0
      if bitOf x 16 && !gateLegal s part x (gateWord s part n 1) then setBits x 16 1 0 else x
    | 2 => setBits x 32 32 0
    | _ => x
  s.modPart part fun p => { p with gates := Tab.set 0 p.gates (4 * n + w) y }

/-- R296: the entry an SWRITE to SR.GTDATA names belongs to another virtual function. -/
def gateForeign (s : State) (c : Cx) : Bool :=
  let k := c.grp.cslot s
  let w0 := gateWord s k.part ((s.thr c).gtsel.toNat % 256) 0
  bitOf w0 16 && bitsOf w0 17 6 != k.vf

/-- The effect of an SWRITE that is not a rendezvous. -/
def writeSreg (s : State) (c : Cx) (r : SReg) (v : Dword) : State :=
  match r with
  | .status => if v.getLsbD 0 then s.modThr c fun t => { t with clamp := false } else s
  | .epc => s.modThr c fun t => { t with epc := v }
  | .gtsel => s.modThr c fun t => { t with gtsel := v.setWidth 10 }
  | .gtdata =>
    let k := c.grp.cslot s
    writeGate s k.part ((s.thr c).gtsel.toNat % 256) ((s.thr c).gtsel.toNat / 256) k.vf v
  | .wid | .lane | .skein | .block | .field | .core | .cmpt | .launch | .clock | .time | .hvec | .upend | .seed
  | .icount | .ycount | .lasty | .umask | .gregs | .levels => s

/-- R9, R75, R136: SWRITE to SR.HVEC or SR.UPEND is a rendezvous; a write of a read-only register is
ignored. -/
def execSwrite (h : Hdr) (a : Opd) (e : Bool) (r : SReg) (s : State) : Host.Outcome State Fault Refusal :=
  .next (issue { ctlOp (.swrite h a e r) h [⟨a, if r.wide then 2 else 1, e⟩] [] fun s c x =>
    if r = .hvec ∨ r = .upend then (s, .wait (.rdv (.special r (x.getD 0 0))))
    else (writeSreg s c r (x.getD 0 0), .seq) with
    priv := fun _ _ => if r = .gtsel ∨ r = .gtdata then 1 else 0
    pre := fun s c _ =>
      if r = .gtdata ∧ gateForeign s c = true then some { code := 0x111, arg := 0, addr := 0, synd := 1 } else none } s)

/-! ### Trap and breakpoint (R137) -/

/-- R137: a trap after the instruction, which ends an interval. -/
def opTrap (h : Hdr) (e : Bool) (code : BitVec 32) : Op :=
  { ctlOp (.trap h e code) h [] [] fun s _ _ =>
      (s, .after { code := 0x106, arg := code.toNat, addr := 0, synd := 0 }) with ends := true }

/-- TRAP (R137). -/
def execTrap (h : Hdr) (e : Bool) (code : BitVec 32) (s : State) : Host.Outcome State Fault Refusal :=
  guarded (issue (opTrap h e code)) s

/-- BKPT (R137, R375): a stop at the BKPT, which the first instruction after RESUME does not take again. -/
def execBkpt (h : Hdr) (e : Bool) (code : BitVec 32) (s : State) : Host.Outcome State Fault Refusal :=
  .next (issue { ctlOp (.bkpt h e code) h [] [] fun s _ _ => (s, .seq) with
    pre := fun s c _ => if (s.ctx (c.grp.ctx s)).bken && !(s.thr c).skipBp then
      some { code := debugCode 0 0, arg := 0, addr := code.toNat, synd := 0 } else none } s)

end Sys2Proof.Machine
end

