-- ==== Sys2Proof/Machine/Ckpt.lean ====
section
/-! DEFINITION. Parks and checkpoints (R41, R54 to R56, R202, R203, R443, R448, R466): CHECKPOINT_PERIOD,
BLOCK_PARK and CHECKPOINT_COMMIT, and the saves of blocks that give up their places. -/

namespace Sys2Proof.Machine

open Sys2Proof

/-! ### CHECKPOINT_PERIOD (R54, R326) -/

/-- A block whose checkpoint period has run out. -/
def periodDue (s : State) (b : Nat) : Bool :=
  let k := s.blk b
  k.st == .resident && k.park == .none && !k.captured && !k.halted && (Grp.blk b).rollback s &&
    decide (1000 * k.period ≤ k.runTime)

/-- CHECKPOINT_PERIOD (R54). -/
def execCheckpointPeriod (blk : Nat) (s : State) : Host.Outcome State Fault Refusal :=
  .next (if periodDue s blk then requestPark s blk .period else s)

/-! ### BLOCK_PARK (R41) -/

/-- The thread number of a block's commit as a writer. -/
def commitThr : Nat := 2 ^ 50

/-- R404: answers of peers that a block's threads still wait for. -/
def awaitsPeers (s : State) (b : Nat) : Bool :=
  s.qps.any fun q => q.2.out.any fun o =>
    (o.kind == 3 || o.kind == 5 || o.kind == 7 || o.kind == 12) && o.blk == b

/-- Every thread of a table stands at a park point with nothing still to land. -/
def allParked (t : Tab Thread) : Bool := t.all fun e => parked e.2 && e.2.owed.isEmpty

/-- R447, R352: a write of the commit that has not been performed. -/
def commitWaits (s : State) (b : Nat) : Bool := heldBy s ⟨.blk b, commitThr⟩

/-- R41, R447: a captured block whose commit waits for a held write has parked for a halt or a save too. -/
def parkedLate (s : State) (b : Nat) : Bool :=
  let k := s.blk b
  k.captured && k.prov.isEmpty && commitWaits s b && (k.park == .halt || k.park == .save || k.park == .leave)

/-- A block asked to park, all of whose threads have, and whose matrix commands stand where R276 captures them. -/
def parkDue (s : State) (b : Nat) : Bool :=
  let k := s.blk b
  k.st == .resident && !k.halted && k.park != .none &&
    (parkedLate s b || (!k.captured && allParked k.body.threads && k.body.cmds.all (atBoundary k.body) && !awaitsPeers s b))

/-- The same for an activation; a halted one stands as it is (R300). -/
def actParkDue (s : State) (a : Nat) : Bool :=
  let x := s.actv a
  x.live && x.entered && x.park != .none && (x.halted || allParked x.threads)

/-- R41: a NAP that a park interrupts ends early. -/
def endNap (t : Thread) : Thread :=
  match t.st with
  | .waiting (.nap _) => { t with st := .running, pc := nextPc t.pc }
  | .waiting _ | .running | .inAct _ | .gone => t

/-- R308, R375, R408: a block that has parked halts, and what it has to report goes out. -/
def haltNow (s : State) (b : Nat) : State :=
  let k := s.blk b
  let s := s.modBlk b fun k => { k with park := .none, captured := false, halted := true, haltNext := false, dbgHalt := false }
  let v := (s.ctx (s.launch k.launch).ctx).vf
  let l := s.launch k.launch
  let s := if k.dbgHalt && traceOn s v 2 then
      traceWrite s v (coreField k.core) (debugBytes k.ident.toNat l.lnum l.ctx { code := debugCode 3 0, arg := 0, addr := 0, synd := 0 }
        (blockPc s b).toNat s.now 0) else s
  wake (flushPending (writeImage s b) b)

/-- R326: a slot that gives way passes to its next context once it is empty. -/
def handOver (s : State) (core i : Nat) : State :=
  let k := s.cslot core i
  if k.next = 0 ∨ slotBusy s core i then s
  else if slotLegal s core i (fillFrom s k.next) then giveSlot (freeSlot s core i) core i k.next
  else freeSlot s core i

/-- What a steward asked of a halted block while its record waited (R411). -/
def takeKept (s : State) (b : Nat) : State :=
  let k := s.blk b
  if k.halted = true ∧ k.pending = [] then
    match k.crollNext with
    | some stay =>
      let s := s.modBlk b fun k => { k with crollNext := none, resumeNext := false }
      if k.st = .resident then (crollBlock s none stay b).1 else s
    | none => if k.resumeNext then resumeBlock s b else s
  else s

/-- A parked block's end of a park that needs no commit. -/
def settlePark (s : State) (b : Nat) : State :=
  match (s.blk b).park with
  | .halt =>
    let s := takeKept (haltNow s b) b
    let k := s.blk b
    if k.halted && k.st == .resident && (s.cslot k.core k.slot).next != 0 then handOver (saveBlock s b) k.core k.slot else s
  | .leave =>
    let s := takeKept (haltNow s b) b
    let k := s.blk b
    if k.st = .resident then wake (handOver (saveBlock s b) k.core k.slot) else s
  | .save => wake (handOver (saveBlock s b) (s.blk b).core (s.blk b).slot)
  | .none | .interval | .period | .pressure => s.modBlk b fun k => { k with park := .none, captured := false }

def mapThreads (f : Thread → Thread) (y : Body) : Body := { y with threads := y.threads.map fun e => (e.1, f e.2) }

/-- The capture of a block: a rollback-mode block goes on to its commit. -/
def parkBlock (s : State) (b : Nat) : State :=
  if parkedLate s b then
    let halt := (s.blk b).park == .halt
    (settlePark s b).modBlk b fun k => { k with captured := halt }
  else
  let s := s.modBody b (mapThreads endNap)
  if (Grp.blk b).rollback s then s.modBlk b fun k => { k with captured := true } else settlePark s b

/-- The capture of an activation (R300): it halts, or is saved with its context. -/
def parkAct (s : State) (a : Nat) : State :=
  s.modAct a fun x => { x with
    park := .none, threads := x.threads.map fun e => (e.1, endNap e.2)
    halted := x.park == .halt || x.park == .leave || x.halted, entered := x.park != .save && x.park != .leave }

/-- BLOCK_PARK (R41, R276, R300). -/
def execBlockPark (blk : Nat) (s : State) : Host.Outcome State Fault Refusal :=
  guarded (fun s =>
    if 2 ^ 40 ≤ blk then (if actParkDue s (blk - 2 ^ 40) then
      let x := s.actv (blk - 2 ^ 40)
      wake (handOver (parkAct s (blk - 2 ^ 40)) x.core x.slot) else s)
    else if parkDue s blk then parkBlock s blk else s) s

/-! ### The lines of a commit (R202, R443, R448) -/

/-- One line of provisional bytes with where it goes: its location, the physical line, its leaf and the
bytes in order. -/
structure ProvLine where
  loc : Nat
  pa : Nat
  leaf : Dword
  bytes : List (Nat × Byte)
  deriving DecidableEq, Repr

/-- The leaf in force for a location: what the TLB holds, or what memory does. DEDUCED, unsafe (log 36). -/
def leafInForce (s : State) (loc : Nat) : Option TlbEnt :=
  match Tab.find s.tlb (tlbKey (loc / 2 ^ 55) (loc % 2 ^ 55)) with
  | some e => some e
  | none =>
    match s.walk (loc / 2 ^ 55) (loc % 2 ^ 55) with
    | .leaf l epa e => some { leaf := e, lvl := l, epa := epa }
    | .bad _ _ _ => none

/-- R443: a line that may still be written. -/
def provLine (s : State) (b line : Nat) : Option ProvLine :=
  let k := s.blk b
  let loc := 128 * line
  let bytes := k.prov.filter fun e => e.1 / 128 == line
  match (if (s.asid (loc / 2 ^ 55)).live then leafInForce s loc else none) with
  | none => none
  | some ent =>
    if leafKind ent.leaf ≠ 2 ∨ !bitOf ent.leaf 3 then none
    else
      let pa := leafPa s k.core (loc / 2 ^ 55) (loc % 2 ^ 55) ent
      let off := ((bytes.map (·.1)).foldl max 0) % 128 + 1
      let vf := (s.ctx (s.launch k.launch).ctx).vf
      if leafMk ent.leaf = 2 ∧ remoteLen s vf (remoteWin pa) < remoteOff pa + off then none
      else some { loc := loc, pa := pa, leaf := ent.leaf, bytes := bytes.map fun e => (e.1 % 128, e.2) }

/-- All lines of a block, in increasing address order, or none when one fails its check. -/
def provAll (s : State) (b : Nat) : List Nat → Option (List ProvLine)
  | [] => some []
  | n :: r =>
    match provLine s b n, provAll s b r with
    | some x, some l => some (x :: l)
    | _, _ => none

/-- R448: the shadows of the block's own context, or the first line without room, with its level. -/
def reserveShadows (s : State) (ctx : Nat) : List ProvLine → State × Option (ProvLine × Nat)
  | [] => (s, none)
  | x :: r =>
    match s.shadowNeed x.loc x.pa (leafMk x.leaf) with
    | some (c, l) =>
      if c ≠ ctx then reserveShadows s ctx r
      else if s.poolUsed (s.ctx c).part (x.pa / 2 ^ 46) < s.poolLines (s.ctx c).part (x.pa / 2 ^ 46) then
        reserveShadows (s.takeShadow c l x.loc x.pa) ctx r
      else (s, some (x, l))
    | none => reserveShadows s ctx r

/-- Bytes at rising offsets as runs. -/
def byteRuns : List (Nat × Byte) → List (Nat × List Byte)
  | [] => []
  | (o, b) :: r =>
    match byteRuns r with
    | (p, bs) :: rest => if p = o + 1 then (o, b :: bs) :: rest else (o, [b]) :: (p, bs) :: rest
    | [] => [(o, [b])]

/-- A block's commit as the maker of its writes. -/
def commitAgent (s : State) (b : Nat) : Agent :=
  let k := s.blk b
  let x := (s.launch k.launch).ctx
  { ctx := x, vf := (s.ctx x).vf, part := (s.ctx x).part, asids := [], av := 1, aro := 0, launch := k.launch, wid := none
    core := k.core, slot := k.slot, cluster := some (coreCluster k.core), blk := none, own := some b, thr := commitThr
    force := true }

/-- Writes the runs of one line. -/
def commitRuns (s : State) (b : Nat) (x : ProvLine) (through : Bool) : List (Nat × List Byte) → State
  | [] => s
  | (o, bs) :: r =>
    let ag := commitAgent s b
    let s :=
      if leafMk x.leaf = 2 then sendWrites s ag.vf b commitThr bs [Far.mk 0 bs.length (remoteWin x.pa) (remoteOff x.pa + o)]
      else (writeLine s ag false (x.loc + o) (x.pa + o) x.leaf (if through then 1 else 0) true bs).1
    commitRuns s b x through r

/-- R202: the provisional bytes enter the memory. -/
def commitLines (s : State) (b : Nat) : List ProvLine → State
  | [] => s
  | x :: r => commitLines (commitRuns s b x ((s.blk b).marked.contains (x.loc / 128)) (byteRuns x.bytes)) b r

/-! ### The last act of the checkpoint (R54) -/

/-- The operation of an instruction that ends an interval. -/
def heldOp (i : Instr) : Option Op :=
  match i with
  | .barg h e => some (opBarg h e)
  | .barw h e => some (opBarw h e)
  | .trap h e code => some (opTrap h e code)
  | .fence h d f => some (opFence h d f)
  | .st h d f => some (opSt h d f)
  | .atom h aop f => some (opAtom h aop f)
  | .cas h f => some (opCas h f)
  | .cas128 h f => some (opCas128 h f)
  | .red h aop f => some (opRed h aop f)
  | .snap h sc add d a b => some (opSnap h sc add d a b)
  | .accept h d a imm => some (opAccept h d a imm)
  | .reject h d a imm => some (opReject h d a imm)
  | .put h sig ord d a b c w => some (opPut h sig ord d a b c w)
  | .postc h d a w => some (opPostc h d a w)
  | .launch h d a w => some (opLaunch h d a w)
  | .launchw h d w => some (opLaunchw h d w)
  | .cpset h d a b sl w => some (opCpset h d a b sl w)
  | .tlbinv h all d a b c => some (opTlbinv h all d a b c)
  | .asidbind h ro unb d a b sl => some (opAsidbind h ro unb d a b sl)
  | .ckpt h d => some (opCkpt h d)
  | .croll h stay d a b => some (opCroll h stay d a b)
  | .halt h d a b => some (opHalt h d a b)
  | .resume h d a b => some (opResume h d a b)
  | _ => none

/-- The held instruction of a thread. -/
def heldInstr (t : Thread) : Option Instr :=
  match t.st with
  | .waiting (.interval i) => if t.stop.isNone then some i else none
  | .waiting _ | .running | .inAct _ | .gone => none

/-- The threads of a block that wait at a GATE, by skein and PC. -/
def gateGroups (s : State) (b : Nat) : List (Nat × BitVec 8 × BitVec 5 × BitVec 5 × List Nat) :=
  let l := (s.live (.blk b)).filterMap fun n =>
    match heldInstr (s.thr ⟨.blk b, n⟩) with
    | some (.gate _ g a r) => some (n / 64, (s.thr ⟨.blk b, n⟩).pc, g, a, r)
    | _ => none
  l.eraseDups.map fun e =>
    (e.1, e.2.2.1, e.2.2.2.1, e.2.2.2.2, (s.live (.blk b)).filter fun n =>
      n / 64 == e.1 && (s.thr ⟨.blk b, n⟩).pc == e.2.1 &&
        match heldInstr (s.thr ⟨.blk b, n⟩) with
        | some (.gate _ _ _ _) => true
        | _ => false)

/-- R54, R297: the calls of a checkpoint. -/
def performGates (s : State) (b : Nat) : List (Nat × BitVec 8 × BitVec 5 × BitVec 5 × List Nat) → State × List (Nat × Ev)
  | [] => (s, [])
  | (k, n, a, r, ps) :: rest =>
    let g := Grp.blk b
    let c := gateCondition s g n.toNat a.toNat r.toNat ps.length
    let (s, evs) :=
      if c ≠ 0 then
        (ps.foldl (fun s m => s.modThr ⟨g, m⟩ fun t => { t with st := .running }) s, ps.map fun m => (m, gateEv n.toNat c))
      else (makeActivation s g k n.toNat a.toNat r.toNat ps, [])
    let (s, more) := performGates s b rest
    (s, evs ++ more)

/-- The held instructions of a block's threads, in the order of R212. -/
def performHeld (s : State) (b : Nat) : List Nat → State × List (Nat × Ev)
  | [] => (s, [])
  | n :: r =>
    let c : Cx := ⟨.blk b, n⟩
    let (s, evs) : State × List (Nat × Ev) :=
      match heldInstr (s.thr c) with
      | none => (s, [])
      | some i =>
        match heldOp i with
        | none => (s, [])
        | some op =>
          let o := issueTrue op true s c
          let s := if heldNow o.st c then o.st.modThr c fun t => { t with st := .running } else o.st
          (s, match o.ev with
            | some e => [(n, e)]
            | none => [])
    let (s, more) := performHeld s b r
    (s, evs ++ more)

/-- Threads that stood for the checkpoint alone go on (R203). -/
def passPressure (t : Thread) : Thread := if t.st = .waiting .pressure then { t with st := .running } else t

/-- In a checkpoint that stands before what is held for it, the held instructions are issued again. -/
def standAgain (t : Thread) : Thread :=
  match t.st with
  | .waiting (.interval _) => { t with st := .running }
  | .waiting _ | .running | .inAct _ | .gone => t

/-- A body as its checkpoint holds it: its commands belong to it, and those held for it start (R55, R252). -/
def ownCmds (y : Body) : Body := { y with cmds := y.cmds.map fun x => { x with fresh := false, heldCommit := false } }

/-- R363, R377: the records of the interval go out. DEDUCED, unsafe (log 97). -/
def flushTraces (s : State) (b : Nat) : State :=
  let k := s.blk b
  let v := (s.ctx (s.launch k.launch).ctx).vf
  (k.traces.foldl (fun s r => if r.length = 64 then traceWrite s v (coreField k.core) r else commitEntry s k.launch r) s).modBlk b
    fun k => { k with traces := [] }

/-- R448: the record of a commit without room. -/
def commitRecord (s : State) (b : Nat) (x : ProvLine) (lvl : Nat) : State :=
  let k := s.blk b
  let g := Grp.blk b
  let ends := (s.live g).filter fun n => (heldInstr (s.thr ⟨g, n⟩)).isSome
  let n := (ends ++ s.live g).headD 0
  let e := shadowEv (s.ctxVa (s.launch k.launch).ctx x.loc) lvl (x.pa / 2 ^ 46) true false
  let rec_ := faultBytes (threadRec s ⟨g, n⟩ { rolled := true, async := ends.isEmpty } 0 (s.thr ⟨g, n⟩).pc) e s.now
  let s := s.count (g.cslot s).part (some (g.cslot s).vf) (x.pa / 2 ^ 46) 0x41 1
  haltNow ((rollbackBlock s b).modBlk b fun k => { k with pending := k.pending ++ [rec_] }) b

/-- R202: the bytes of the interval are committed: a checkpoint that stands before what is held for it. -/
def commitBytes (s : State) (b : Nat) (ls : List ProvLine) : State :=
  (commitLines s b ls).modBlk b fun k =>
    let y := ownCmds (mapThreads passPressure k.body)
    { k with prov := [], keep := [], marked := [], body := y, ckpt := mapThreads standAgain y }

/-- The events of held instructions: those for the handler are kept with the checkpoint, and delivered in the
next interval (R407, R415). -/
def takeHeldEvents (s : State) (b : Nat) (evs : List (Nat × Ev)) : State :=
  let g := Grp.blk b
  let toHandler (x : Nat × Ev) : Bool :=
    codeClass x.2.code == 0 && !x.2.isDebug && (handlerRefuses s ⟨g, x.1⟩).isNone
  if evs.all toHandler then evs.foldl (fun s x => s.modThr ⟨g, x.1⟩ fun t => { t with stop := some x.2 }) s
  else takeEvents s g evs

/-- The end of a commit: what is held for it, then the block's new checkpoint. -/
def finishCommit (s : State) (b : Nat) : State :=
  let k := s.blk b
  let (s, e1) := performGates s b (gateGroups s b)
  let (s, e2) := performHeld s b (s.live (.blk b))
  let s := flushTraces s b
  let s := settleBarg s (.blk b)
  let park0 := (s.blk b).park
  let s := s.modBlk b fun k => { k with
    body := ownCmds k.body, runTime := 0, period := ((Grp.blk b).cslot s).ckper, captured := false, 
    park := match k.park with
      | .halt | .save | .leave => k.park
      | .none | .interval | .period | .pressure => .none }
  let s := takeHeldEvents s b (e1 ++ e2)
  let s := writeImage (s.modBlk b fun k => { k with ckpt := k.body }) b
  let ctx := (s.launch k.launch).ctx
  let s := s.count (s.ctx ctx).part (some (s.ctx ctx).vf) (coreField k.core) 0x30 1
  let s := if park0 = .halt ∨ park0 = .save ∨ park0 = .leave then settlePark s b else s
  wake (flushPending s b)

/-- A block whose commit comes next. -/
def commitDue (s : State) (b : Nat) : Bool :=
  let k := s.blk b
  k.st == .resident && k.captured && !k.halted && !(k.prov.isEmpty && commitWaits s b)

/-- The commit of a captured block. DEDUCED, unsafe (log 43). -/
def commitBlock (s : State) (b : Nat) : State :=
  let ctx := (s.launch (s.blk b).launch).ctx
  match provAll s b (byNumber (provLines (s.blk b).prov)) with
  | none => wake (rollbackBlock s b)
  | some ls =>
    match reserveShadows s ctx ls with
    | (_, some (x, lvl)) => wake (commitRecord s b x lvl)
    | (s, none) =>
      let s := if ls = [] then s.modBlk b fun k => { k with body := mapThreads passPressure k.body, marked := [] }
        else commitBytes s b ls
      if commitWaits s b then s else finishCommit s b

/-- CHECKPOINT_COMMIT (R54, R202, R203, R443, R448). -/
def execCheckpointCommit (blk : Nat) (s : State) : Host.Outcome State Fault Refusal :=
  guarded (fun s => if commitDue s blk then commitBlock s blk else s) s

end Sys2Proof.Machine
end

