-- ==== Sys2Proof/Machine/Dispatcher.lean ====
section
/-! DEFINITION. The dispatcher (R27, R42 to R46, R313, R314, R318, R320 to R323): DISPATCH, FENCE_MET,
BLOCK_END and COMPLETION_RECORD. -/

namespace Sys2Proof.Machine

open Sys2Proof

/-! ### When a launch may dispatch (R313, R314) -/

/-- R314: a dependence is met. -/
def depMet (s : State) (l : Launch) (d : Dword × Dword) : Bool :=
  match depKind d with
  | 0 => d.1.toNat ≤ (s.tc l.core l.slot (depTc d)).done
  | 1 => d.1.toNat ≤ (s.win l.vf (depWin d)).landed.toNat
  | _ => d.1.toNat ≤ (s.win l.vf (depWin d)).sent.toNat

def depsMet (s : State) (l : Launch) : Bool := l.deps.all (depMet s l)

/-- R313: an earlier fence of the window holds the launch. -/
def fenced (s : State) (l : Launch) : Bool :=
  s.launches.any fun e => e.2.live && e.2.fence && !e.2.met && e.2.state == 0 && e.2.vf == l.vf && e.2.win == l.win &&
    e.2.seq < l.seq

/-- FENCE_MET (R313, R318). -/
def execFenceMet (launch : Nat) (s : State) : Host.Outcome State Fault Refusal :=
  let l := s.launch launch
  .next (if l.live && l.fence && l.state == 0 && depsMet s l then
    s.modLaunch launch fun x => { x with met := true, state := 2, status := 6, tend := s.now } else s)

/-! ### Admission (R321, R322) -/

/-- What a block of a launch takes of a slot. -/
def Launch.threads (l : Launch) : Nat := l.e0 * l.skeins
def CSlot.space (k : CSlot) : Nat := popcount k.spMask 32 * 16384

/-- The resident blocks of a slot, or of a core. -/
def blocksOn (s : State) (core : Nat) (slot : Option Nat) : List Block :=
  (s.blocks.filter fun e => e.2.st == .resident && e.2.core == core && (slot.isNone || slot == some e.2.slot)).map (·.2)

/-- R322: the lowest base with a run of free bytes in a slot's scratchpad space. -/
def freeBase (s : State) (core slot space n : Nat) : Option Nat :=
  let taken := (blocksOn s core (some slot)).map fun k => (k.spBase, 64 * (s.launch k.launch).scr)
  let ok (a : Nat) : Bool := a + n ≤ space && taken.all fun t => !(runsMeet a n t.1 t.2)
  (byNumber (0 :: taken.map fun t => t.1 + t.2)).find? ok

/-- R322: the base a slot gives a block, when the slot, as it would be, admits it. -/
def admitIn (s : State) (l : Launch) (core slot : Nat) (k : CSlot) : Option Nat :=
  let held := blocksOn s core (some slot)
  if k.next ≠ 0 then none
  else if 256 * k.rfSize < slotRegsUsed s core slot + l.g * l.threads then none
  else if l.claims && (held.any (fun b => (s.launch b.launch).claims) || decide (k.ttCnt < l.tiles) || decide (k.xCnt < l.xids)) then
    none
  else if l.matx && (blocksOn s core none).any (fun b => (s.launch b.launch).matx) then none
  else freeBase s core slot k.space (64 * l.scr)

/-- R322: a slot of the core that the dispatcher may fill is a free one. DEDUCED, unsafe (log 60). -/
def fillable (s : State) (core i : Nat) : Bool := !(s.cslot core i).valid

/-- R340: a barrier number is free. -/
def barrierFree (s : State) (id : Nat) : Bool :=
  let l := s.launch id
  !l.resident || l.state != 0 || (s.launches.filter fun e => e.2.live && e.2.resident && e.2.state == 1).length < 256

/-- A field entry after a resize (R278): what is lent away stays lent, and what is borrowed stays borrowed. -/
def resized (old new : PartField) : PartField :=
  { new with
    clush := ((new.clus ||| new.clusm) &&& ~~~(old.clusm &&& ~~~old.clush)) ||| (old.clush &&& ~~~(old.clus ||| old.clusm))
    bankh := ((new.bank ||| new.bankm) &&& ~~~(old.bankm &&& ~~~old.bankh)) ||| (old.bankh &&& ~~~(old.bank ||| old.bankm))
    fstore := old.fstore, shadow := old.shadow }

/-- The clusters of a field to which a partition's blocks may go: those it holds that are neither being revoked
(R283) nor about to be given up (R278). -/
def openClusters (s : State) (part f : Nat) : BitVec 64 :=
  let p := Tab.get PartField.none (s.part part).fields f
  let m := s.revokes.foldl (fun (m : BitVec 64) e =>
    if e.1 / 512 = f ∧ e.1 % 512 < 64 then m &&& ~~~(bitRun 64 (e.1 % 512) 1) else m) p.clush
  match (s.part part).goal with
  | none => m
  | some g => m &&& (resized p ((g.find? fun e => e.1 == f).map (·.2) |>.getD PartField.none)).clush

/-- A launch with blocks that may be placed now, on a core of its context's partition that does not hold
the context, and whose virtual function has a weight. -/
def wantsCore (s : State) (core id : Nat) (l : Launch) : Bool :=
  let x := s.ctx l.ctx
  let m := openClusters s x.part (coreField core)
  l.live && !l.fence && l.state < 2 && decide (0 < (s.vf x.vf).weight) && (slotHolding s core l.ctx).isNone &&
    m.getLsbD (core % 192 / 4) && coreAlive s core &&
    (decide (l.placed < l.blocks) || s.blocks.any fun e => e.2.launch == id && e.2.st == .saved) &&
    (l.state == 1 || (depsMet s l && !fenced s l && barrierFree s id))

/-- It needs a slot of the core that is not free for it (R326). -/
def slotWanted (s : State) (core : Nat) (l : Launch) (id : Nat) : Bool :=
  wantsCore s core id l &&
    !([0, 1, 2, 3].any fun i => fillable s core i && slotLegal s core i (fillFrom s l.ctx))

/-- R326: weight 0 takes no slot that a weighted virtual function waits for. -/
def givesWay (s : State) (core : Nat) (l : Launch) : Bool :=
  (s.vf (s.ctx l.ctx).vf).weight == 0 && s.launches.any fun e => wantsCore s core e.1 e.2

/-- Where a core would take a block of a launch: the slot, its base, and whether the slot is filled first. -/
def admitOn (s : State) (l : Launch) (core : Nat) : Option (Nat × Nat × Bool) :=
  match slotHolding s core l.ctx with
  | some i => (admitIn s l core i (s.cslot core i)).map fun a => (i, a, false)
  | none =>
    if givesWay s core l then none else
    let k := fillFrom s l.ctx
    match [0, 1, 2, 3].find? fun i => fillable s core i && slotLegal s core i k with
    | some i => (admitIn s l core i k).map fun a => (i, a, true)
    | none => none

/-! ### The starting and restoring of a block -/

/-- R30: the state of a block at its start. -/
def startBody (s : State) (l : Launch) : Body :=
  let slice : Slice := { Slice.none with active := l.apc != 0, pc := l.apc }
  { Body.none with
    threads := (List.range l.skeins).flatMap fun k => (List.range l.e0).map fun i =>
      (64 * k + i, { Thread.start l.kpc with ready := s.cycle })
    skeins := (List.range l.skeins).map fun k => (k, { Skein.start with slice := slice }) }

def freshBlock (s : State) : Nat := s.blocks.foldl (fun (m : Nat) (e : Nat × Block) => max m (e.1 + 1)) 0

/-- The block of a launch with a linear index, if it has one. -/
def blockAt (s : State) (l i : Nat) : Option Nat :=
  (s.blocks.find? fun e => e.2.launch == l && e.2.index == i && e.2.st != .absent).map (·.1)

/-- R63, R420: the checked transfers of a start. -/
def checkStart (s : State) (b : Nat) : State :=
  let l := s.launch (s.blk b).launch
  let g := Grp.blk b
  let s := match checkTarget s ⟨g, 0⟩ l.kpc with
    | (s, none) => s
    | (s, some e) => takeEvents s g ((s.live g).map fun n => (n, e))
  if l.apc = 0 then s
  else (List.range l.skeins).foldl (fun s k =>
    match checkTarget s ⟨.slice b k, 64 * k⟩ l.apc with
    | (s, none) => s
    | (s, some e) => takeEvents s (.slice b k) [(64 * k, e)]) s

/-- R308: a HALT has named a block that has not started. -/
def haltAhead (l : Launch) (b : Dword) : Bool := l.haltIds.contains b || (l.haltRest && !l.haltNot.contains b)

/-- R308: a block named by a HALT before it ran; `new` says that it starts now. -/
def haltAtStart (new : Bool) (s : State) (b : Nat) : State :=
  let k := s.blk b
  let l := s.launch k.launch
  if k.haltNext || (new && haltAhead l k.ident) then
    (s.modLaunch k.launch fun x => { x with haltIds := x.haltIds.filter (· != k.ident) }).modBlk b fun k =>
      if k.halted then { k with haltNext := false } else { k with haltNext := true, park := .halt, dbgHalt := true }
  else s

/-- R204: the commands of a body on their new slot. -/
def moveCmds (core slot : Nat) (y : Body) : Body :=
  { y with cmds := y.cmds.map fun x => if x.inner then x else { x with core := core, slot := slot } }

/-- The counter of a slot to which a block brings its own and the numbers of its commands under way, of which the
slot has counted some as completed already. DESIGN CHOICE, unsafe (log 62). -/
def mergeTc (a b : Tc) (mine : List Nat) : Tc :=
  let n := max a.issued b.issued
  let rest := (List.range (n - a.done)).map (a.done + 1 + ·)
  let under (k : Nat) : Bool := mine.contains k || (decide (k ≤ a.issued) && !a.extra.contains k)
  let done := (rest.find? under).elim n (· - 1)
  { issued := n, done := done, extra := rest.filter fun k => decide (done < k) && !under k }

/-- R204: the engine contexts a saved block brings to a slot that is not its old one. -/
def bringTcs (s : State) (b core slot : Nat) : State :=
  let k := s.blk b
  if k.core = core ∧ k.slot = slot then s
  else
    let s := k.body.cmds.foldl (fun s x => if x.inner then s else tcComplete s x.core x.slot x.tc x.num) s
    let c := s.cslot core slot
    s.setCslot core slot { c with tcs := (List.range 8).foldl (fun t n =>
      let mine := (k.body.cmds.filter fun x => !x.inner && x.tc == n).map (·.num)
      let m := mergeTc (Tab.get Tc.none c.tcs n) (Tab.get Tc.none k.tcs n) mine
      if m = Tc.none then t else Tab.put t n m) c.tcs }

/-- The slot of a core that takes a block, filled if need be. -/
def readySlot (s : State) (l : Launch) (core i : Nat) (fill : Bool) : State :=
  if fill then giveSlot (freeSlot s core i) core i l.ctx else s

/-- R67: a core that takes a block of a context fetches the context's code lines afresh. -/
def dropCode (s : State) (core ctx : Nat) : State :=
  let ids := [0, 1, 2, 3].map fun i => Tab.get 0 (s.ctx ctx).asids i
  if (s.core core).lines = [] then s
  else s.modCore core fun k => { k with
    lines := k.lines.filter fun l => !ids.contains (l.1 / 2 ^ 51), failed := k.failed.filter fun l => !ids.contains (l / 2 ^ 51) }

/-- R340: what a launch's fields have reported is taken back when a block of it takes its place: they report
again. -/
def reportAgain (s : State) (id : Nat) : State :=
  if (s.launch id).barw = 0 then s else s.modLaunch id fun x => { x with barw := 0 }

/-- A thread that stands for its block's checkpoint (R54). -/
def heldOver (t : Thread) : Bool :=
  match t.st with
  | .waiting (.interval _) => true
  | .waiting _ | .running | .inAct _ | .gone => false

/-- Places the block of linear index i of a launch on a core, if the core admits it: the new state and
the block. -/
def placeOn (s : State) (id i core hint : Nat) : Option (State × Nat) :=
  let l := s.launch id
  match admitOn s l core with
  | none => none
  | some (slot, base, fill) =>
    let s := reportAgain (dropCode (readySlot s l core slot fill) core l.ctx) id
    match blockAt s id i with
    | some b =>
      let s := (bringTcs s b core slot).modBlk b fun k => { k with
        st := .resident, core := core, slot := slot, spBase := base, captured := false
        -- R447: a commit outstanding at the save goes on
        park := if k.body.threads.any fun e => heldOver e.2 then .interval else .none
        period := (s.cslot core slot).ckper
        body := moveCmds core slot k.body, ckpt := moveCmds core slot k.ckpt }
      some (dropBlockInv s b core, b)
    | none =>
      let b := freshBlock s
      let y := startBody s l
      let s := s.setBlk b { Block.none with
        st := .resident, body := y, ckpt := y, launch := id, ident := l.blockIdent i, index := i, core := core
        slot := slot, regs := l.g, spBase := base, period := (s.cslot core slot).ckper, homeAt := hint }
      some ((writeImage s b).modLaunch id fun x => { x with placed := x.placed + 1, state := 1 }, b)

/-! ### Choosing fields and cores (R27, R45, R285, R321, R323) -/

/-- Enabled cores of a partition in a field, held now or guaranteed, in increasing number. -/
def partCores (s : State) (part f : Nat) (guaranteed : Bool) : List Nat :=
  let p := Tab.get PartField.none (s.part part).fields f
  let m := if guaranteed then p.clus &&& openClusters s part f else openClusters s part f
  ((List.range 192).filter fun c => m.getLsbD (c / 4) && coreAlive s (192 * f + c)).map fun c => 192 * f + c

/-- R321: the core of a field that takes the block: fewest resident blocks, then the lower number. -/
def coreIn (s : State) (l : Launch) (f : Nat) : Option Nat :=
  let ok := (partCores s (s.ctx l.ctx).part f false).filter fun c => (admitOn s l c).isSome
  match ok with
  | [] => none
  | c :: r => some (r.foldl (fun m x => if (blocksOn s x none).length < (blocksOn s m none).length then x else m) c)

/-- Fields in which a partition holds guaranteed cores. DEDUCED, unsafe (log 63). -/
def detFields (s : State) (part : Nat) : List Nat :=
  (List.range 48).filter fun f => (partCores s part f true) != []

/-- R323: the core of a block of a DET launch in a field. -/
def detCore (s : State) (l : Launch) (i f : Nat) : Option Nat :=
  let part := (s.ctx l.ctx).part
  let cores := partCores s part f true
  if cores = [] then none else cores[i / (detFields s part).length % cores.length]?

/-- A DET or replayed launch is placed by R323. -/
def Launch.fixed (l : Launch) : Bool := l.det || l.replays

/-- Places blocks of one launch in a field, all or none. -/
def placeIn (s : State) (id f hint : Nat) : List Nat → Option (State × List Nat)
  | [] => some (s, [])
  | i :: r =>
    let l := s.launch id
    match (if l.fixed then detCore s l i f else coreIn s l f) with
    | none => none
    | some core =>
      match placeOn s id i core hint with
      | none => none
      | some (s, b) =>
        match placeIn s id f hint r with
        | none => none
        | some (s, bs) => some (s, b :: bs)

/-- R45: the hint of a block, with a hint 255 for none. -/
def hintOf (s : State) (l : Launch) (i : Nat) : State × Nat :=
  let v := l.levelValue (l.blockIdent i) l.hlvl
  match l.hrule with
  | 1 => (s, v % 48)
  | 2 =>
    match peek s (ctxAgent s l.ctx) ((l.haddr.toNat + v) % 2 ^ 64) 1 with
    | some bs => (s, if ofBytes bs < 48 then ofBytes bs else 255)
    | none => (s.count (s.ctx l.ctx).part (some (s.ctx l.ctx).vf) (coreField l.core) 0x42 1, 255)
  | _ => (s, 255)

/-- R27: whether field a comes before field b among those with capacity, from a hinted field. -/
def nearer (s : State) (h a b : Nat) : Bool :=
  let hop (f : Nat) : Nat := Tab.get (if f = h then 0 else 0xFF) s.fab.hops (48 * h + f)
  let n (f : Nat) : Nat := countBits (s.field f).cores
  decide (hop a < hop b) || (hop a == hop b && (decide (n b < n a) || (n a == n b && decide (a < b))))

/-- R321: the free core capacity of a field. -/
def freeCores (s : State) (l : Launch) (f : Nat) : Nat :=
  ((partCores s (s.ctx l.ctx).part f false).filter fun c => (admitOn s l c).isSome).length

/-- DESIGN CHOICE, safe (log 67). -/
def bestOf (better : Nat → Nat → Bool) : List Nat → Option Nat
  | [] => none
  | x :: r => match bestOf better r with
    | none => some x
    | some y => if better y x then some y else some x

/-- The fields that R43 and R285 leave for blocks of a launch: that of their gang, or of their context. -/
def tiedField (s : State) (id : Nat) (is : List Nat) : Option Nat :=
  let l := s.launch id
  let mate (e : Nat × Block) : Bool :=
    e.2.st == .resident && e.2.launch == id && decide (l.k ≠ 0) && is.any fun i => e.2.index / l.gang == i / l.gang
  match s.blocks.find? mate with
  | some e => some (coreField e.2.core)
  | none =>
    if (s.ctx l.ctx).maxsc ≠ 1 then none
    else (s.blocks.find? fun e => e.2.st != .absent && e.2.st != .ended && (s.launch e.2.launch).ctx == l.ctx).map fun e =>
      coreField e.2.core

/-- The field and placement of a gang, or of one block where there is none (R321). -/
def placeUnit (s : State) (id : Nat) (is : List Nat) : Option (State × List Nat) :=
  let l := s.launch id
  let first := is.headD 0
  let (s, h) := match blockAt s id first with
    | some b => (s, (s.blk b).homeAt)
    | none => hintOf s l first
  let try_ (f : Nat) : Option (State × List Nat) := placeIn s id f h is
  match tiedField s id is with
  | some f => try_ f
  | none =>
    if l.fixed then
      let fs := detFields s (s.ctx l.ctx).part
      if h < 48 then try_ h else (fs[first % fs.length]?).bind try_
    else if h < 48 ∧ ((try_ h).isSome ∨ l.pin = true) then try_ h
    else
      let able := (List.range 48).filter fun f => (try_ f).isSome
      let pick := if h < 48 then bestOf (nearer s h) able
        else bestOf (fun a b => decide (freeCores s l b < freeCores s l a) || (freeCores s l a == freeCores s l b && decide (a < b))) able
      pick.bind try_

/-- Every gang of a RESIDENT launch at once (R44, R322). -/
def placeUnits (s : State) (id : Nat) : List (List Nat) → Option (State × List Nat)
  | [] => some (s, [])
  | u :: r =>
    match placeUnit s id u with
    | none => none
    | some (s, bs) =>
      match placeUnits s id r with
      | none => none
      | some (s, cs) => some (s, bs ++ cs)

/-! ### Launches that can never start (R321, R376) -/

/-- How many blocks of a launch a slot could hold with nothing else on it. -/
def roomIn (l : Launch) (k : CSlot) : Nat :=
  let regs := 256 * k.rfSize / (l.g * l.threads)
  let spad := if l.scr = 0 then regs else k.space / (64 * l.scr)
  let n := min regs spad
  if l.claims then (if k.ttCnt < l.tiles ∨ k.xCnt < l.xids then 0 else min 1 n) else if l.matx then min 1 n else n

/-- The same for a core, by the context's template or by a slot that holds it. -/
def roomOn (s : State) (l : Launch) (core : Nat) : Nat :=
  let t := fillFrom s l.ctx
  let a := if slotSane t then roomIn l t else 0
  match slotHolding s core l.ctx with
  | some i => max a (roomIn l (s.cslot core i))
  | none => a

/-- Whether a launch could be admitted. -/
def admittable (s : State) (l : Launch) : Bool :=
  let part := (s.ctx l.ctx).part
  let room (f : Nat) : Nat := ((partCores s part f true).map (roomOn s l)).sum
  let rooms := (List.range 48).map room
  if !l.resident then rooms.any (0 < ·)
  else
    let gangs := l.blocks / l.gang
    let need (n : Nat) : Nat := n / l.gang
    if (s.ctx l.ctx).maxsc = 1 then rooms.any fun n => gangs ≤ need n else gangs ≤ (rooms.map need).sum

/-- The armed log of a REPLAY launch (R376). -/
def replayFits (s : State) (l : Launch) : Bool :=
  match peek s (ctxAgent s l.ctx) l.logBase 48 with
  | none => false
  | some h =>
    let w (o : Nat) : Nat := ofBytes ((h.drop o).take 8)
    ofBytes (h.take 4) == 0x5A4B4C31 && (w 4) % 2 == 1 && w 0x10 == l.kpc.toNat && w 0x18 == (l.word 1).toNat &&
      w 0x20 == l.lastWid.toNat && w 0x28 == l.seed.toNat

/-- The entries of a log. -/
def logEntries (s : State) (l : Launch) : List (List Byte) :=
  let ag := ctxAgent s l.ctx
  let n := match peek s ag (l.logBase + 8) 8 with
    | some bs => ofBytes bs
    | none => 0
  (List.range (min n ((l.logLen - 64) / 32))).filterMap fun i => peek s ag (l.logBase + 64 + 32 * i) 32

/-- R376, R378: a REPLAY launch takes its log when it is first offered. -/
def beginLaunch (s : State) (id : Nat) : State × Bool :=
  let l := s.launch id
  if l.state ≠ 0 then (s, true)
  else if !admittable s l || (l.replays && (l.logOn != 2 || !replayFits s l)) then
    (s.modLaunch id fun x => { x with state := 2, status := 4, tend := s.now }, false)
  else if l.logOn = 2 ∧ l.replay = [] then (s.modLaunch id fun x => { x with replay := logEntries s l }, true)
  else (s, true)

/-! ### DISPATCH -/

/-- The linear indices a launch still has to place: its saved blocks, then those not started. -/
def unplaced (s : State) (id : Nat) : List Nat :=
  let l := s.launch id
  byNumber ((s.blocks.filter fun e => e.2.launch == id && e.2.st == .saved).map fun e => e.2.index) ++
    (List.range (l.blocks - l.placed)).map (· + l.placed)

/-- R43, R44: a block that gives up its place with those tied to it and has not left it yet: it and its mates take
their places again together. -/
def leavingOf (id : Nat) (e : Nat × Block) : Bool :=
  e.2.launch == id && e.2.st == .resident && (e.2.park == .save || e.2.park == .leave)

/-- The next gangs or blocks to place together. -/
def nextUnits (s : State) (id : Nat) : List (List Nat) :=
  let l := s.launch id
  let tied := l.resident || l.k != 0
  let todo := (unplaced s id).filter fun i => !(tied && s.blocks.any fun e => leavingOf id e &&
    (l.resident || e.2.index / l.gang == i / l.gang))
  let gang (i : Nat) : List Nat := byNumber (todo.filter fun j => j / l.gang == i / l.gang)
  if l.resident then ((todo.map fun i => i / l.gang).eraseDups).map fun q => gang (q * l.gang)
  else match todo with
    | [] => []
    | i :: _ => [gang i]

/-- R340: gangs of a field that hold its barrier numbers. -/
def gangsIn (s : State) (f : Nat) : Nat :=
  (((s.blocks.filter fun e => (e.2.st == .resident || e.2.st == .saved) && coreField e.2.core == f &&
    (s.launch e.2.launch).k != 0).map fun e => (e.2.launch, e.2.index / (s.launch e.2.launch).gang)).eraseDups).length

/-- What an offer of a launch comes to, if anything. -/
def dispatchTry (s : State) (id : Nat) : Option State :=
  let l := s.launch id
  if !l.live || l.fence || 2 ≤ l.state then none
  else if l.state = 0 ∧ (!depsMet s l || fenced s l || !barrierFree s id) = true then none
  else
    match beginLaunch s id with
    | (s, false) => some s
    | (s, true) =>
      match nextUnits s id with
      | [] => none
      | u :: r =>
        match placeUnits s id (u :: r) with
        | none => none
        | some (s', bs) =>
          if (s'.blocks.map fun e => coreField e.2.core).eraseDups.any fun f => decide (256 < gangsIn s' f) then none
          else
            let new := bs.filter fun b => (Tab.find s.blocks b).isNone
            some (wake (bs.foldl (fun s b => haltAtStart (new.contains b) s b) (new.foldl checkStart s')))

/-- DISPATCH (R43 to R45, R321 to R323). -/
def execDispatch (launch : Nat) (s : State) : Host.Outcome State Fault Refusal :=
  guarded (fun s => (dispatchTry s launch).getD s) s

/-! ### BLOCK_END (R46) -/

/-- Every thread has exited and every command has completed. -/
def blockDone (s : State) (b : Nat) : Bool :=
  let k := s.blk b
  k.st == .resident && !k.halted && !k.captured && s.live (.blk b) == [] && k.body.cmds.isEmpty

/-- A rollback-mode block that has more to commit. -/
def uncommitted (s : State) (b : Nat) : Bool :=
  let k := s.blk b
  (Grp.blk b).rollback s && !(k.prov.isEmpty && k.traces.isEmpty)

/-- R447, R352: writes of the block still on their way. -/
def blockWrites (s : State) (b : Nat) : Bool :=
  (s.held.any fun h => h.blk == some b) || s.qps.any fun q => q.2.out.any fun o => o.kind == 4 && o.blk == b

def blockEndDue (s : State) (b : Nat) : Bool :=
  blockDone s b && (if uncommitted s b then (s.blk b).park == .none else !blockWrites s b)

/-- The end of a block, and of its launch with the last one. -/
def endBlock (s : State) (b : Nat) : State :=
  let k := s.blk b
  let s := flushPending s b
  let s := s.modBlk b fun k => { k with st := .ended, park := .none, body := Body.none, ckpt := Body.none }
  let s := handOver s k.core k.slot
  let s := s.modLaunch k.launch fun x => { x with ended := x.ended + 1 }
  let l := s.launch k.launch
  if l.ended = l.blocks ∧ l.state < 2 then
    logClose (s.modLaunch k.launch fun x => { x with state := 2, tend := s.now }) k.launch else s

/-- BLOCK_END (R46): the end is a release, so a rollback-mode block commits first. -/
def execBlockEnd (blk : Nat) (s : State) : Host.Outcome State Fault Refusal :=
  guarded (fun s => if !blockEndDue s blk then s
    else if uncommitted s blk then requestPark s blk .interval
    else wake (endBlock s blk)) s

/-! ### COMPLETION_RECORD (R318, R320) -/

/-- The record of an earlier launch of the window is still to be posted. -/
def recordBefore (s : State) (l : Launch) : Bool :=
  s.launches.any fun e => e.2.live && e.2.cen && !e.2.recorded && e.2.vf == l.vf && e.2.win == l.win && e.2.seq < l.seq

/-- A POSTC of an earlier post count of the window has not gone out. -/
def postBefore (s : State) (vf w : Nat) : Bool :=
  (winCmds s vf w).any fun e => !e.2.left.isEmpty && match e.2.kind with
    | .postc _ _ _ => true
    | _ => false

def recordDue (s : State) (id : Nat) : Bool :=
  let l := s.launch id
  let x := s.win l.vf l.cwin
  l.live && l.state == 2 && !l.recorded &&
    (!l.cen || (x.kind == 1 && (s.qp x.qpn).live && !(s.qp x.qpn).err && !recordBefore s l && !postBefore s l.vf l.cwin))

/-- A completion record is written at its place in a window (R236, R318). -/
def sendRecord (s : State) (id k : Nat) : State :=
  let l := s.launch id
  let x := s.win l.vf l.cwin
  let at_ := if x.rlen / 64 = 0 then 64 * Config.choose k else k % (x.rlen / 64) * 64
  send s x.qpn (fun p => .write x.qpn p x.rkey (x.rbase + at_) (completionBytes l) (some 1))
    (fun p => { psn := p, blk := 0, num := id, kind := 2, thr := 0, reg := 0 })

/-- COMPLETION_RECORD (R318): a launch without CEN posts none. -/
def execCompletionRecord (launch : Nat) (s : State) : Host.Outcome State Fault Refusal :=
  let l := s.launch launch
  guarded (fun s => if !recordDue s launch then s
    else if !l.cen then (logClose s launch).modLaunch launch fun x => { x with recorded := true, state := 3 }
    else
      let s := logClose s launch
      let k := (s.win l.vf l.cwin).post
      let s := s.modWin l.vf l.cwin fun x => { x with post := x.post + 1 }
      let s := s.modLaunch launch fun x => { x with recorded := true, postK := k.toNat }
      sendRecord s launch k.toNat) s

end Sys2Proof.Machine
end

