-- ==== Sys2Proof/Machine/Units.lean ====
section
/-! DEFINITION. What the cores and their neighbours do of themselves: overruns of the yield counter, code
lines, user interrupts and vectoring (R48, R49), entries of activations (R297), wafer barriers (R340),
late values, timeouts, slices (R326), the hang watchdog (R462), samples (R367) and the fault hold (R411). -/

namespace Sys2Proof.Machine

open Sys2Proof

/-! ### YIELD_OVERRUN (R40) and LINE_FETCH (R66, R422) -/

def overrunDue (s : State) (c : Cx) : Bool :=
  let t := s.thr c
  groupRuns s c.grp && t.st == .running && t.stop.isNone &&
    match boundaryEv s c with
    | some e => e.code == 0x301
    | none => false

/-- R414: the threads of one pick that overrun together, in the order of R212. DESIGN CHOICE, unsafe (log 41). -/
def overrunMates (s : State) (c : Cx) : List Nat :=
  match (groupPicks s c.grp).find? fun p => p.thrs.contains c.n with
  | some p => p.thrs.filter fun n => overrunDue s ⟨c.grp, n⟩
  | none => [c.n]

/-- YIELD_OVERRUN (R40, R414, R426). -/
def execYieldOverrun (blk thr : Nat) (s : State) : Host.Outcome State Fault Refusal :=
  let c : Cx := ⟨nameGrp blk, thr⟩
  guarded (fun s => if overrunDue s c then
    takeEvents s c.grp ((overrunMates s c).filterMap fun n => (boundaryEv s ⟨c.grp, n⟩).map fun e => (n, e))
    else s) s

/-- LINE_FETCH (R60, R66, R422): a code line arrives at a core; one that fails its check is fetched once
more. `first` and `second` are what the two fetches bring where it is not what memory holds. -/
def execLineFetch (core asid line : Nat) (first second : Option (BitVec 512)) (s : State) :
    Host.Outcome State Fault Refusal :=
  let held : BitVec 512 :=
    match leafInForce s (asid * 2 ^ 55 + 64 * line) with
    | some ent =>
      if leafKind ent.leaf = 2 ∧ leafMk ent.leaf ≠ 2 then
        .ofNat 512 (ofBytes (s.bytes (leafPa s core asid (64 * line) ent) 64)) else 0
    | none => 0
  let l1 := first.getD held
  let l := if lineGood l1 then l1 else second.getD held
  let key := lineKey asid (64 * line)
  .next (if coreAlive s core && (s.asid asid).live then
    (dropLine s core key).modCore core fun k => { k with
      lines := Tab.put k.lines key l, failed := if lineGood l then k.failed else key :: k.failed }
  else s)

/-! ### USER_INTERRUPT_DELIVERY and VECTORING (R49, R378, R407) -/

/-- The threads of a skein that have not exited, those inside an activation among them. -/
def deliveryDue (s : State) (b k : Nat) : Bool :=
  let x := s.sk (.blk b) k
  groupRuns s (.blk b) && x.upend != 0 && !x.masked && !(s.liveSk (.blk b) k).isEmpty

/-- USER_INTERRUPT_DELIVERY (R49). -/
def execUserInterruptDelivery (blk skein : Nat) (s : State) : Host.Outcome State Fault Refusal :=
  let g := Grp.blk blk
  .next (if deliveryDue s blk skein then
    let l := s.liveSk g skein
    let s := s.modSk g skein fun x => { x with masked := true, inside := x.inside + l.length, delivered := x.upend }
    l.foldl (fun s n => s.modThr ⟨g, n⟩ fun t => { t with due := true }) s
  else s)

/-- R49: the resumption PC of a thread that can be vectored where it stands. -/
def vectorPc (t : Thread) : Option Dword :=
  match t.st with
  | .running => if t.stop.isNone && !t.mustIssue then some t.pc else none
  | .waiting w => match w with
    | .tl _ _ _ | .win _ _ _ _ _ | .phase _ _ => some t.pc
    | .nap _ => some (nextPc t.pc)
    | .retry r => match r with
      | .empty _ | .tile _ _ | .room _ | .pass _ | .lag | .heldAt _ => some t.pc
      | .heldLine => none
    | .rdv _ | .join _ | .bar | .barg | .barw | .op _ | .interval _ | .pressure => none
  | .gone | .inAct _ => none

/-- R378: what a replayed log says of vectoring a thread now. -/
inductive VectorAsk where
  | go | later | diverged (e : Ev)
  deriving DecidableEq, Repr

def askVector (s : State) (c : Cx) : VectorAsk :=
  let l := c.grp.launch s
  if l.logOn ≠ 2 then .go
  else if interruptAt s c then .go
  else if l.replay.any fun r => r.take 8 == toBytes 8 (wid s c).toNat && (r.drop 14).take 1 == toBytes 1 3 &&
      decide ((s.thr c).icount.toNat % 2 ^ 48 < ofBytes ((r.drop 8).take 6)) then .later
  else .diverged (divergedEv s c 0 none)

/-- A trap kept with the block's checkpoint, or until its record has room, is the handler's now (R203, R407, R415). -/
def trapDue (s : State) (c : Cx) : Option Ev :=
  match (s.thr c).stop with
  | some e =>
    if codeClass e.code == 0 && !e.isDebug && (handlerRefuses s c).isNone && groupRuns s c.grp && !c.grp.isSlice &&
      (match c.grp with | .blk b | .slice b _ => (s.blk b).park == .none | .act a => (s.actv a).park == .none)
    then some e else none
  | none => none

/-- A thread counted by a delivery that can be vectored now. -/
def interruptDue (s : State) (c : Cx) : Bool :=
  let t := s.thr c
  groupRuns s c.grp && !c.grp.isAct && t.due && !t.intrap && (vectorPc t).isSome && decide (askVector s c ≠ .later)

def vectoringDue (s : State) (c : Cx) : Bool := (trapDue s c).isSome || interruptDue s c

/-- R407: the kept trap is taken, its count being that of the threads that stopped with it. -/
def deliverTrap (s : State) (c : Cx) (e : Ev) : State :=
  let nthr := ((s.live c.grp).filter fun m =>
    let t := s.thr ⟨c.grp, m⟩
    t.pc == (s.thr c).pc && (t.stop.map Ev.code) == some e.code).length
  match takeTrap (s.modThr c fun t => { t with stop := none }) c e nthr with
  | (s, .handler) => s
  | (s, .later) => requestPark (s.modThr c fun t => { t with stop := some e }) (c.grp.block s) .pressure
  | (s, .steward e) => takeEvents s c.grp [(c.n, e)]

/-- R49: one thread goes to its skein's handler. DEDUCED, unsafe (log 95). -/
def vectorNow (s : State) (c : Cx) (pc : Dword) : State :=
  let s := if (c.grp.launch s).logOn = 0 then s
    else noteEntry s c 3 (s.sk c.grp c.skein).delivered.toNat none
  let s := vector (s.modThr c fun t => { t with pc := pc }) c
  match checkTarget s c (s.thr c).pc with
  | (s, none) => s
  | (s, some e) => takeEvents s c.grp [(c.n, e)]

/-- VECTORING (R49, R407). -/
def execVectoring (blk thr : Nat) (s : State) : Host.Outcome State Fault Refusal :=
  let c : Cx := ⟨nameGrp blk, thr⟩
  guarded (fun s =>
    match trapDue s c with
    | some e => deliverTrap s c e
    | none =>
      if interruptDue s c then
        match vectorPc (s.thr c), askVector s c with
        | some pc, .go => vectorNow s c pc
        | _, .diverged e => takeEvents s c.grp [(thr, e)]
        | _, _ => s
      else s) s

/-! ### ACTIVATION_ENTRY (R297, R300) -/

/-- The slot an activation may enter, once its register entries are free. -/
def entrySlot (s : State) (a : Nat) : Option Nat :=
  let x := s.actv a
  if x.live && !x.entered && !x.threads.isEmpty then
    match slotHolding s x.core x.ctx with
    | some i =>
      let k := s.cslot x.core i
      if k.drain && k.next == 0 && decide (slotRegsUsed s x.core i + x.frame * (s.live (.act a)).length ≤ 256 * k.rfSize) then some i else none
    | none => none
  else none

/-- R63, R297: the transfer of each participant to ENTRY. -/
def enterChecks (s : State) (g : Grp) : List Nat → State × List (Nat × Ev)
  | [] => (s, [])
  | n :: r =>
    let (s, e) := checkTarget s ⟨g, n⟩ (s.thr ⟨g, n⟩).pc
    let (s, l) := enterChecks s g r
    (s, match e with
      | some e => (n, e) :: l
      | none => l)

/-- ACTIVATION_ENTRY (R297). -/
def execActivationEntry (act : Nat) (s : State) : Host.Outcome State Fault Refusal :=
  guarded (fun s =>
    match entrySlot s act with
    | none => s
    | some i =>
      let first := !(s.actv act).begun
      let s := s.modAct act fun x => { x with
        entered := true, begun := true, slot := i, threads := x.threads.map fun e => (e.1, { e.2 with ready := s.cycle }) }
      if first then
        let (s, evs) := enterChecks s (.act act) (s.live (.act act))
        takeEvents s (.act act) evs
      else s) s

/-! ### BARRIER_ARRIVAL and BARRIER_RELEASE (R340) -/

/-- The next field on the route from a field to another. -/
def nextField (s : State) (a b : Nat) : Option Nat :=
  match Tab.get 0 s.fab.route (48 * a + b) with
  | 0 => none
  | d + 1 => neighbour a d

/-- The fields whose units report to this field's. -/
def barrierKids (s : State) (f : Nat) : List Nat :=
  (List.range 48).filter fun c => c != f && c != s.lead && nextField s c s.lead == some f

/-- The started blocks of a launch. -/
def blocksOf (s : State) (l : Nat) : List Nat :=
  (s.blocks.filter fun e => e.2.launch == l && (e.2.st == .resident || e.2.st == .saved)).map (·.1)

def arrivalDue (s : State) (l f : Nat) : Bool :=
  let x := s.launch l
  let bs := blocksOf s l
  x.live && x.resident && x.state == 1 && decide (f < 48) && !x.barw.getLsbD f &&
    bs.any (fun b => !(s.live (.blk b)).isEmpty) &&
    bs.all (fun b => coreField (s.blk b).core != f || allAt s (.blk b) .barw) &&
    (barrierKids s f).all fun c => x.barw.getLsbD c

/-- BARRIER_ARRIVAL (R340): a field's cores and its child fields have all reported. -/
def execBarrierArrival (launch field : Nat) (s : State) : Host.Outcome State Fault Refusal :=
  .next (if arrivalDue s launch field then
    s.modLaunch launch fun x => { x with barw := x.barw ||| .ofNat 48 (2 ^ field) } else s)

def releaseDue (s : State) (l f : Nat) : Bool :=
  (s.launch l).live && f == s.lead && decide (f < 48) && (s.launch l).barw.getLsbD f

/-- BARRIER_RELEASE (R340): the root's release reaches every block of the launch. -/
def execBarrierRelease (launch field : Nat) (s : State) : Host.Outcome State Fault Refusal :=
  .next (if releaseDue s launch field then
    (blocksOf s launch).foldl (fun s b => progress (releaseSaved (releaseAt s (.blk b) .barw) b .barw) b)
      (s.modLaunch launch fun x => { x with barw := 0 })
  else s)

/-! ### Values and waits that end of themselves -/

/-- DATA_RESPONSE (R81, R83, R329): a value owed to a register lands. -/
def execDataResponse (blk thr reg : Nat) (s : State) : Host.Outcome State Fault Refusal :=
  let c : Cx := ⟨nameGrp blk, thr⟩
  .next (if (s.thr c).owed.any fun o => o.reg == reg then wake (s.modThr c fun t => t.landReg reg) else s)

def timeoutDue (s : State) (c : Cx) : Option Opd :=
  match (s.thr c).st with
  | .waiting (.win _ _ _ (some d) o) => if groupRuns s c.grp && decide (d ≤ s.now) then some o else none
  | .waiting _ | .running | .inAct _ | .gone => none

/-- WAITW_TIMEOUT (R234). -/
def execWaitwTimeout (blk thr : Nat) (s : State) : Host.Outcome State Fault Refusal :=
  let c : Cx := ⟨nameGrp blk, thr⟩
  .next (match timeoutDue s c with
    | some d => progress (endWaitw s c d 1) (c.grp.block s)
    | none => s)

/-- DESIGN CHOICE, unsafe (log 12). -/
def napDue (s : State) (c : Cx) : Bool :=
  match (s.thr c).st with
  | .waiting (.nap u) => groupRuns s c.grp && decide (u ≤ s.cycle)
  | .waiting _ | .running | .inAct _ | .gone => false

/-- NAP_EXPIRY (R133). -/
def execNapExpiry (blk thr : Nat) (s : State) : Host.Outcome State Fault Refusal :=
  let c : Cx := ⟨nameGrp blk, thr⟩
  .next (if napDue s c then progress (s.modThr c (passOn s.cycle)) (c.grp.block s) else s)

/-- A thread parks but for a HALT of its own group, which waits for others (R308). -/
def parksButHalt (t : Thread) : Bool :=
  parked t || match t.st with
    | .waiting (.op o) => o.halts
    | .waiting _ | .running | .inAct _ | .gone => false

/-- What an operation waits for has come. A group whose threads stand at park points, or in a HALT that names it,
has parked as far as the other groups' operations go. -/
def awaitMet (s : State) : Await → Bool
  | .parked b =>
    let k := s.blk b
    !(k.st == .resident && (k.park == .halt || k.park == .save || k.park == .leave)) ||
      ((k.body.threads.any fun e => !parked e.2) && k.body.threads.all fun e => parksButHalt e.2)
  | .actParked a =>
    let x := s.actv a
    !(x.live && x.entered && x.park != .none) || ((x.threads.any fun e => !parked e.2) && x.threads.all fun e => parksButHalt e.2)
  | .answered q psn => (s.qp q).err || !((s.qp q).out.any fun o => o.psn == psn)
  | .homed loc => !(s.held.any fun h => h.loc == loc)

/-- The operation of a thread that waits for its own instruction's completion, when it has completed. -/
def opDue (s : State) (c : Cx) : Option OpWait :=
  match (s.thr c).st with
  | .waiting (.op o) => if groupRuns s c.grp && o.await.all (awaitMet s) then some o else none
  | .waiting _ | .running | .inAct _ | .gone => none

/-- What an operation writes at its completion: a CPGET the word as it stands then (R303). -/
def opValue (s : State) (o : OpWait) : Dword :=
  match o.get with
  | some (core, slot, word) => slotWordAt s core slot word
  | none => o.v

/-- WAITING_INSTRUCTION_COMPLETE (R302, R227, R316). -/
def execWaitingInstructionComplete (blk thr : Nat) (s : State) : Host.Outcome State Fault Refusal :=
  let c : Cx := ⟨nameGrp blk, thr⟩
  .next (match opDue s c with
    | some o =>
      let v := opValue s o
      let s := if o.w64 then wr64 s c o.d v else wr32 s c o.d v.lo
      -- R308: the thread of a HALT that names its block parks just after it
      progress (s.modThr c fun t => { passOn s.cycle t with yielded := o.halts && parkAsked s c.grp }) (c.grp.block s)
    | none => s)

/-! ### QUANTUM_END (R43, R44, R326) -/

/-- Launches that wait for a slot of a core, in the order of their numbers. -/
def waitingLaunches (s : State) (core : Nat) : List Nat :=
  (s.launches.filter fun e => slotWanted s core e.2 e.1).map (·.1)

/-- The weighted virtual function with the least virtual time among launches, and its launch.
DEDUCED, unsafe (log 64). -/
def neediest (s : State) : List Nat → Option Nat
  | [] => none
  | l :: r =>
    let key (l : Nat) : Nat × Nat := ((s.vf (s.ctx (s.launch l).ctx).vf).vtime, (s.ctx (s.launch l).ctx).vf)
    match neediest s r with
    | none => some l
    | some m => if (key m).1 < (key l).1 ∨ ((key m).1 = (key l).1 ∧ (key m).2 < (key l).2) then some m else some l

/-- The slots of a core that may be made to give way to a context. -/
def yielders (s : State) (core ctx : Nat) : List Nat :=
  [0, 1, 2, 3].filter fun i =>
    let k := s.cslot core i
    k.valid && !k.gres && k.next == 0 &&
      slotLegal (s.modCore core fun c => { c with slots := Tab.put c.slots i CSlot.none }) core i (fillFrom s ctx)

/-- R326: the slot that gives way: weight 0 first, then the greatest virtual time, then the lower number. -/
def yielder (s : State) (core : Nat) : List Nat → Option Nat
  | [] => none
  | i :: r =>
    let v (i : Nat) : Vf := s.vf (s.cslot core i).vf
    match yielder s core r with
    | none => some i
    | some j =>
      let zi := (v i).weight == 0
      let zj := (v j).weight == 0
      if zj && !zi then some j
      else if zi && !zj then some i
      else if (v i).vtime < (v j).vtime ∨ ((v i).vtime = (v j).vtime ∧ (s.cslot core j).vf < (s.cslot core i).vf) then some j
      else some i

/-- A slot whose slice has lasted its virtual function's quantum. -/
def sliceOver (s : State) (core i : Nat) : Bool :=
  let k := s.cslot core i
  k.valid && !k.gres && k.next == 0 && decide (1000 * (s.vf k.vf).quantum ≤ s.now - k.since)

/-- The launch for which a core's quantum ends. -/
def quantumFor (s : State) (core : Nat) : Option Nat :=
  match waitingLaunches s core with
  | [] => none
  | l :: r => if [0, 1, 2, 3].any (sliceOver s core) then neediest s (l :: r) else none

/-- A slot that gives way and has nothing left on it. -/
def passesOn (s : State) (core : Nat) : Option Nat :=
  [0, 1, 2, 3].find? fun i => (s.cslot core i).next != 0 && !slotBusy s core i

def quantumDue (s : State) (core : Nat) : Bool := (passesOn s core).isSome || (quantumFor s core).isSome

/-- QUANTUM_END (R326). -/
def execQuantumEnd (core : Nat) (s : State) : Host.Outcome State Fault Refusal :=
  guarded (fun s =>
    match passesOn s core with
    | some i => wake (handOver s core i)
    | none =>
      match quantumFor s core with
      | none => s
      | some l =>
        let ctx := (s.launch l).ctx
        let s := [0, 1, 2, 3].foldl (fun s i => chargeSlice s core i) s
        match yielder s core (yielders s core ctx) with
        | none => s
        | some i =>
          let out := (s.blocks.filter fun e => e.2.st == .resident && e.2.core == core && e.2.slot == i).map (·.1)
          let s := s.setCslot core i { s.cslot core i with next := ctx }
          let s := parkActs (out.foldl evictTied s) (s.cslot core i).ctxid (some core)
          wake (handOver s core i)) s

/-! ### HANG (R461, R462) -/

def hangDue (s : State) (b : Nat) : Bool :=
  let k := s.blk b
  k.st == .resident && !k.halted && !k.captured && decide (2 ^ (s.ctx (s.launch k.launch).ctx).hangExp ≤ k.hang)

/-- HANG (R462). -/
def execHang (blk : Nat) (s : State) : Host.Outcome State Fault Refusal :=
  let k := s.blk blk
  .next (if hangDue s blk then
    wake (raiseAbort s (s.launch k.launch).ctx (blockRec s blk UnitId.none) { code := 0x302, arg := 0, addr := 0, synd := min k.hang (2 ^ (s.ctx (s.launch k.launch).ctx).hangExp) } none)
  else s)

/-! ### PC_SAMPLE (R367 to R369) -/

/-- The threads of a virtual function on a core, in the order of the rotation. -/
def sampleList (s : State) (core vf : Nat) : List Cx :=
  [0, 1, 2, 3].flatMap fun i =>
    let k := s.cslot core i
    if k.valid && k.vf == vf then
      let bs := s.blocks.filter fun e => e.2.st == .resident && e.2.core == core && e.2.slot == i
      let order := byNumber ((bs.map fun e => e.2.index).eraseDups)
      (order.flatMap fun x => (bs.filter fun e => e.2.index == x).flatMap fun e =>
        (e.2.body.threads.filter fun t => match t.2.st with
          | .inAct _ => false
          | .gone | .running | .waiting _ => true).map fun t => ⟨.blk e.1, t.1⟩) ++
      (s.acts.filter fun e => e.2.live && e.2.entered && e.2.core == core && e.2.slot == i).flatMap fun e =>
        (s.live (.act e.1)).map fun n => ⟨.act e.1, n⟩
    else []

/-- R368: the first state code that applies, and its PC. DEDUCED, unsafe (log 87). -/
def sampleCode (s : State) (c : Cx) : Nat × Dword :=
  let t := s.thr c
  let down := match c.grp with
    | .blk b | .slice b _ => (s.blk b).halted || (s.blk b).captured
    | .act a => (s.actv a).halted
  match t.st with
  | .gone => (7, t.exitPc)
  | .inAct _ => (4, t.pc)
  | .running =>
    if down || t.stop.isSome || (parkAsked s c.grp && parked t) then (6, t.pc)
    else if s.cycle < t.gapUntil then (3, t.pc) else (1, t.pc)
  | .waiting w =>
    if down || t.stop.isSome || (parkAsked s c.grp && parked t) then (6, t.pc)
    else match w with
      | .retry (.empty _) | .retry .lag => (2, t.pc)
      | .retry (.tile _ _) | .retry (.room _) | .retry (.pass _) | .retry .heldLine | .retry (.heldAt _) | .rdv _ | .join _ | .bar | .barg | .barw
        | .tl _ _ _ | .win _ _ _ _ _ | .phase _ _ | .nap _ | .op _ | .interval _ | .pressure => (4, t.pc)

/-- PC_SAMPLE (R367). -/
def execPcSample (core vf : Nat) (s : State) : Host.Outcome State Fault Refusal :=
  guarded (fun s =>
    match sampleList s core vf with
    | [] => s
    | c0 :: r =>
      if !traceOn s vf 1 then s
      else
        let i := Tab.get 0 (s.core core).sampleRot vf
        let c := (c0 :: r).getD (i % (r.length + 1)) c0
        let s := s.modCore core fun k => { k with sampleRot := Tab.put k.sampleRot vf (i + 1) }
        let (code, pc) := sampleCode s c
        traceWrite s vf (coreField core) (sampleBytes (wid s c).toNat (c.grp.launch s).lnum (c.grp.ctx s) code pc.toNat s.now (s.thr c).icount.toNat core)) s

/-! ### FAULT_HOLD_POLL (R411) -/

/-- Moves held records into the ring while it has room. -/
def fillRing (s : State) (v : Nat) : List (List Byte) → State
  | [] => s.modVf v fun f => { f with hold := [] }
  | r :: rest =>
    let f := s.vf v
    let ag := ctxAgent s f.steward
    match putRecord s ag f.fault r with
    | (s, .put ring) => fillRing (s.modVf v fun f => { f with fault := ring }) v rest
    | (s, .full) => s.modVf v fun f => { f with hold := r :: rest }
    | (s, .fault) => ringHeader (s.modVf v fun f => { f with hold := r :: rest, fault := { f.fault with state := 2 } }) ag f.fault 0x18 1 2

/-- Blocks of a virtual function with records that wait for its hold. -/
def pendingBlocks (s : State) (v : Nat) : List Nat :=
  (s.blocks.filter fun e => !e.2.pending.isEmpty && (s.ctx (s.launch e.2.launch).ctx).vf == v &&
    (e.2.halted || (s.cslot e.2.core e.2.slot).drain)).map (·.1)

def pollDue (s : State) (v : Nat) : Bool := (s.vf v).live && !(s.vf v).hold.isEmpty && (s.vf v).fault.state == 1

/-- FAULT_HOLD_POLL (R411). -/
def execFaultHoldPoll (vf : Nat) (s : State) : Host.Outcome State Fault Refusal :=
  guarded (fun s => if pollDue s vf then
    let f := s.vf vf
    let s := fillRing (ringHeader s (ctxAgent s f.steward) f.fault 0x10 8 f.fault.drop) vf f.hold
    wake ((pendingBlocks s vf).foldl (fun s b => takeKept (flushPending s b) b) s)
  else s) s

end Sys2Proof.Machine
end

