-- ==== Sys2Proof/Machine/Network.lean ====
section
/-! DEFINITION. The Ethernet ports (R205, R346 to R349, R352, R354, R471): requests of remote parties, the
answers to the device's own, retries, congestion, pauses, lane training and the clock. -/

namespace Sys2Proof.Machine

open Sys2Proof

/-! ### Requests of remote parties (R348, R349) -/

/-- What becomes of an inbound request: dropped, refused, waiting for a page, or allowed. DEDUCED, unsafe (log 70). -/
inductive Inbound where
  | drop | nak | later | ok
  deriving DecidableEq, Repr

/-- R348, checks 1 to 4 and 6. -/
def inboundAllowed (s : State) (r : InReq) (n : Nat) (launchForm : Bool) : Bool :=
  let x := s.win r.vf r.win
  x.qpn == r.qpn && (s.qp r.qpn).vf == r.vf && !x.closing && (x.kind == 1 || x.kind == 2) && r.key.toNat == x.lkey &&
    decide (r.off + n ≤ x.len) &&
    (x.kind == 1 || (launchForm && n == 128 && decide (r.off = x.landed.toNat % (x.len / 128) * 128)))

/-- A frame of a queue pair that reaches it: its port is up and it is not in the error state (R471). -/
def reaches (s : State) (q : Nat) : Bool :=
  let x := s.qp q
  s.running && x.live && !x.err && (s.port x.port).up

/-- R348: the checks of a request over n bytes; a page that is not resident is fetched first. -/
def inbound (s : State) (r : InReq) (n : Nat) (launchForm atomic : Bool) : State × Inbound :=
  let x := s.win r.vf r.win
  let va := x.lbase + r.off
  let ag := windowAgent s r.vf x
  if !reaches s r.qpn then (s, .drop)
  else if !inboundAllowed s r n launchForm || (atomic && r.off % 8 != 0) then (s, .nak)
  else match resolve s ag Acc.write va n with
  | (s, .error _) => (s, .nak)
  | (s, .ok ps) =>
    if ps.any fun p => p.ro.isSome || leafCc p.leaf != 2 then (s, .nak)
    else if ps.any Piece.absent then
      match fetchFirst s ag Acc.write va n with
      | (s, .fault _) => (s, .nak)
      | (s, .ok _) | (s, .wait) => (s, .later)
    else (s, .ok)

/-- R351: an answer to a request, back by the way it came. -/
def sayBack (s : State) (r : InReq) (m : OutMsg) : State :=
  match loopPeer s r.qpn with
  | none => emit s (s.qp r.qpn).port (s.qp r.qpn).prio m
  | some p => match m with
    | .ack _ => { s with inputs := s.inputs ++ [.ack p r.psn] }
    | .reply _ d => { s with inputs := s.inputs ++ [.rdmaReadResponse p r.psn d] }
    | .cnp _ => { s with inputs := s.inputs ++ [.congestionNotification p] }
    | .write _ _ _ _ _ _ | .read _ _ _ _ _ | .atomic _ _ _ _ _ _ _ | .nak _ | .attest _ => s

/-- R347: whether a packet is marked where it has been received, by the network or by the device's own receive
queue, whose filling is open. -/
def markedHere (s : State) (r : InReq) : State × Bool :=
  if r.ecn = 0 then (s, false)
  else if r.ecn = 3 then (s, true)
  else ({ s with draws := s.draws + 1 }, Config.choose s.draws % 2 == 1)

/-- R347: a marked packet is answered with a congestion notification. -/
def noteCongestion (s : State) (r : InReq) : State :=
  match markedHere s r with
  | (s, true) => sayBack s r (.cnp r.qpn)
  | (s, false) => s

/-- The writer's number of a window's landings. -/
def landThr (r : InReq) : Nat := 2 ^ 60 + 1024 * r.vf + r.win

/-- R447: a landing of the window is held at a home. -/
def landHeld (s : State) (r : InReq) : Bool := s.held.any fun h => h.blk.isNone && h.thr == landThr r

/-- Peers have still to answer for a request being served (R352). -/
def askedFor (s : State) (id : Nat) : Bool :=
  s.qps.any fun q => q.2.out.any fun o => (o.kind == 13 || o.kind == 14) && o.num == id

/-- The bytes of a request land, in memory and at peers (R352). -/
def landBytes (s : State) (id : Nat) (r : InReq) : State :=
  let x := s.win r.vf r.win
  let ag := { windowAgent s r.vf x with thr := landThr r }
  match storeTo s ag (x.lbase + r.off) 1 false false r.data with
  | (s, .far fs) => fs.foldl (fun s f =>
      let w := s.win r.vf f.win
      send s w.qpn (fun p => .write w.qpn p w.rkey (w.rbase + f.off) ((r.data.drop f.pos).take f.len) none)
        (fun p => { psn := p, blk := 0, num := id, kind := 14, thr := 0, reg := 0 })) s
  | (s, .done) | (s, .absent) | (s, .ev _) | (s, .pressure) => s

/-- R349, R310: what a landed request with an immediate adds to the landed counter. -/
def addLanded (s : State) (r : InReq) : State :=
  let n := if (s.win r.vf r.win).kind = 2 then 1 else r.imm.toNat % 2 ^ 16
  s.modWin r.vf r.win fun x => { x with landed := x.landed + .ofNat 64 n }

/-- How far the service of a request has come: it is over, or goes on. -/
abbrev Course := State × Option Served

/-- A request that has not been performed yet: dropped, refused or left waiting, else performed by `f`. -/
def letIn (s : State) (v : Served) (r : InReq) (n : Nat) (launchForm atomic : Bool) (f : State → Course) : Course :=
  match inbound s r n launchForm atomic with
  | (s, .drop) => (s, none)
  | (s, .nak) => (sayBack s r (.nak r.qpn), none)
  | (s, .later) => (s, some v)
  | (s, .ok) => f s

/-- The end of a write: the counters, and the acknowledgement. -/
def endWrite (s : State) (r : InReq) (imm : Bool) : State :=
  let s := s.count (s.vf r.vf).part (some r.vf) (portField (s.qp r.qpn).port) 0x53 r.data.length
  wake (sayBack (if imm then addLanded s r else s) r (.ack r.qpn))

/-- A write performed comes to its end when none of its bytes is held at a home (R447) or on its way to a peer. -/
def settleWrite (s : State) (id : Nat) (v : Served) (r : InReq) (imm : Bool) : Course :=
  if landHeld s r || askedFor s id then (s, some { v with sent := true }) else (endWrite s r imm, none)

/-- A write of a remote party. -/
def serveWrite (s : State) (id : Nat) (v : Served) (r : InReq) (imm : Bool) : Course :=
  let r := { r with data := r.data.take r.len }
  if v.sent then settleWrite s id v r imm
  else letIn s v r r.data.length imm false fun s =>
    if landHeld s r then (s, some v) else settleWrite (landBytes s id r) id v r imm

/-- The bytes of a request as peers have answered them, over those at hand. -/
def Served.bytes (v : Served) : List Byte := v.got.foldl (fun l e => patch l e.1 [e.2]) v.data

/-- A read or an atomic whose answer comes from peers (R352). -/
def settleAnswer (s : State) (id : Nat) (v : Served) (r : InReq) : Course :=
  if askedFor s id then (s, some { v with sent := true }) else (sayBack s r (.reply r.qpn v.bytes), none)

/-- A read of a remote party. -/
def serveRead (s : State) (id : Nat) (v : Served) (r : InReq) : Course :=
  if v.sent then settleAnswer s id v r
  else letIn s v r r.len false false fun s =>
    let x := s.win r.vf r.win
    match loadAt s (windowAgent s r.vf x) (x.lbase + r.off) r.len 3 false with
    | (s, .bytes bs) => (sayBack s r (.reply r.qpn bs), none)
    | (s, .far bs fs) =>
      let s := fs.foldl (fun s f =>
        let w := s.win r.vf f.win
        send s w.qpn (fun p => .read w.qpn p w.rkey (w.rbase + f.off) f.len)
          (fun p => { psn := p, blk := 0, num := id, kind := 13, thr := 0, reg := f.pos })) s
      settleAnswer s id { v with data := bs } r
    | (s, .absent) | (s, .ev _) | (s, .pressure) => (sayBack s r (.nak r.qpn), none)

/-- R205: an atomic of a remote party at its home, or by the peer whose memory the page names (R352); one that finds
no shadow room waits. -/
def serveAtomic (s : State) (id : Nat) (v : Served) (r : InReq) (swap : Bool) : Course :=
  let new (x : Dword) : Dword := if !swap then x + r.add else if x = r.cmp then r.add else x
  if v.sent then settleAnswer s id v r
  else letIn s v r 8 false true fun s =>
    let x := s.win r.vf r.win
    let ag := windowAgent s r.vf x
    match loadAt s ag (x.lbase + r.off) 8 3 false with
    | (s1, .bytes bs) =>
      let (s2, _) := storeTo s1 ag (x.lbase + r.off) 3 false false (toBytes 8 (new (.ofNat 64 (ofBytes bs))).toNat)
      if s2.held.length ≠ s1.held.length then (s1, some v) else (wake (sayBack s2 r (.reply r.qpn bs)), none)
    | (s, .far bs fs) =>
      let s := fs.foldl (fun s f =>
        let w := s.win r.vf f.win
        send s w.qpn (fun p => .atomic w.qpn p w.rkey (w.rbase + f.off) swap r.add r.cmp)
          (fun p => { psn := p, blk := 0, num := id, kind := 13, thr := 0, reg := 0 })) s
      settleAnswer s id { v with data := bs } r
    | (s, .absent) | (s, .ev _) | (s, .pressure) => (sayBack s r (.nak r.qpn), none)

/-- One step of the service of a request. -/
def serve (s : State) (id : Nat) (v : Served) : Course :=
  match v.kind with
  | .write => serveWrite s id v v.r false
  | .writeImm => serveWrite s id v v.r true
  | .read => serveRead s id v v.r
  | .add => serveAtomic s id v v.r false
  | .swap => serveAtomic s id v v.r true

/-- The course of a request goes on, or it is over. -/
def keepServed (id : Nat) (x : Course) : State :=
  match x with
  | (s, some v) => { s with served := Tab.put s.served id v }
  | (s, none) => { s with served := Tab.erase s.served id }

/-- The request being served that is the first on its queue pair: requests are performed in their order. -/
def firstServed (s : State) (q : Nat) : Option (Nat × Served) := s.served.find? fun e => e.2.r.qpn == q

/-- The service of a request goes on. -/
def goOnServing (id : Nat) (s : State) : State :=
  match Tab.find s.served id with
  | some v => keepServed id (serve s id v)
  | none => s

/-- A request arrives: it is served, after those on its queue pair that are being served; one that repeats a packet
being served adds nothing. -/
def arriveRequest (k : ReqKind) (r : InReq) (s : State) : State :=
  if s.served.any fun e => e.2.kind == k && e.2.r == r then s
  else
    let s := if reaches s r.qpn then noteCongestion s r else s
    if (firstServed s r.qpn).isSome then s.serveLater k r
    else goOnServing (freshServed s) (s.serveLater k r)

/-- Requests being served that can go on. -/
def servedDue (s : State) : List Nat :=
  (s.served.filter fun e =>
    (firstServed s e.2.r.qpn).any (fun f => f.1 == e.1) &&
      let s' := goOnServing e.1 s
      s'.served != s.served || s'.mem != s.mem || s'.qps != s.qps).map (·.1)

/-- RDMA_WRITE (R348). -/
def execRdmaWrite (r : InReq) (s : State) : Host.Outcome State Fault Refusal := guarded (arriveRequest .write r) s

/-- RDMA_WRITE_WITH_IMMEDIATE (R348, R349, R310). -/
def execRdmaWriteWithImmediate (r : InReq) (s : State) : Host.Outcome State Fault Refusal :=
  guarded (arriveRequest .writeImm r) s

/-- RDMA_READ (R348). -/
def execRdmaRead (r : InReq) (s : State) : Host.Outcome State Fault Refusal := guarded (arriveRequest .read r) s

/-- FETCH_ADD (R205, R347). -/
def execFetchAdd (r : InReq) (s : State) : Host.Outcome State Fault Refusal := guarded (arriveRequest .add r) s

/-- CMP_SWAP (R205, R347). -/
def execCmpSwap (r : InReq) (s : State) : Host.Outcome State Fault Refusal := guarded (arriveRequest .swap r) s

/-! ### Answers to the device's own requests -/

/-- Operations that a peer answers with data. -/
def OutOp.wantsData (o : OutOp) : Bool :=
  o.kind == 1 || o.kind == 3 || o.kind == 5 || o.kind == 7 || o.kind == 8 || o.kind == 10 || o.kind == 12 || o.kind == 13

/-- R469: the record of a launch has landed. -/
def recordLanded (s : State) (o : OutOp) : State :=
  if o.kind = 2 then s.modLaunch o.num fun l => { l with acked := true, state := if l.state = 2 then 3 else l.state } else s

/-- ACK (R347): an acknowledgement covers every write up to its PSN. -/
def execAck (qpn psn : Nat) (s : State) : Host.Outcome State Fault Refusal :=
  let x := s.qp qpn
  .next (if reaches s qpn && x.out.any fun o => o.psn == psn then
    let covered := x.out.takeWhile (fun o => o.psn != psn) ++ (x.out.filter fun o => o.psn == psn)
    let done := covered.filter fun o => !o.wantsData
    let s := s.setQp qpn { x with out := x.out.filter (fun o => !done.contains o), tries := 0, rnr := 0 }
    wake (done.foldl recordLanded s).releaseHeld
  else s)

/-- Lists bytes one after another, zeros too. -/
def putBytes (t : Tab Byte) (k : Nat) : List Byte → Tab Byte
  | [] => t
  | b :: bs => putBytes (Tab.put t k b) (k + 1) bs

/-- Bytes a peer has answered for a command. -/
def giveCmd (s : State) (o : OutOp) (data : List Byte) : State :=
  match s.cmd o.blk o.thr o.num with
  | some x => s.setCmd o.blk { x with got := putBytes x.got o.reg data }
  | none => s

/-- A thread that is still there. -/
def threadThere (s : State) (c : Cx) : Bool :=
  match (s.thr c).st with
  | .running | .waiting _ => true
  | .gone | .inAct _ => false

/-- Operations like `o` still open for the same registers or queue entry. -/
def othersOpen (s : State) (o : OutOp) (same : OutOp → Bool) : Bool :=
  s.qps.any fun q => q.2.out.any fun p => p.kind == o.kind && p.blk == o.blk && p.thr == o.thr && same p

/-- A register group takes bytes at a place; its registers fill when `fill` says so. -/
def fillGroup (t : Thread) (reg regs pos : Nat) (data : List Byte) (fill : Bool) : Thread :=
  let rs := List.range regs
  let ws := wordsOf (4 * regs) (patch (bytesOf (4 * regs) (rs.map fun i => t.reg (reg + i))) pos data)
  rs.foldl (fun t i =>
    let t := t.setReg (reg + i) (ws.getD i 0)
    if fill then t else { t with empty := Tab.set false t.empty (reg + i) true }) t

/-- R352: the bytes of a thread's load. -/
def giveLoad (s : State) (o : OutOp) (data : List Byte) : State :=
  let c : Cx := ⟨nameGrp o.blk, o.thr⟩
  let regs := o.num / 4096
  if !threadThere s c || regs = 0 then s
  else s.modThr c fun t => fillGroup t o.reg regs (o.num % 64) (data.take (o.num / 64 % 64)) (!othersOpen s o fun p => p.reg == o.reg)

/-- R352: a lane of a queue entry; the last one fills the entry. -/
def giveLane (s : State) (o : OutOp) (data : List Byte) : State :=
  let g := Grp.blk o.blk
  let k := o.thr / 64
  let q := o.reg / 64
  let open_ := othersOpen s o fun p => p.reg / 64 == q
  s.modSk g k fun y =>
    let z := Tab.get Queue.none y.queues q
    let lanes := Tab.get [] z.data z.filled
    let w : Word := .ofNat 32 (ofBytes (patch (toBytes 4 (Tab.get 0 lanes (o.reg % 64)).toNat) (o.num % 64) (data.take (o.num / 64 % 64))))
    let z : Queue := { filled := if open_ then z.filled else z.filled + 1, data := Tab.put z.data z.filled (Tab.set 0 lanes (o.reg % 64) w) }
    { y with queues := Tab.put y.queues q z }

/-- R352, R377: the old value of a thread's atomic, in its block's checkpoint too when the atomic was the
checkpoint's last act. -/
def giveAtomic (s : State) (o : OutOp) (data : List Byte) : State :=
  let c : Cx := ⟨nameGrp o.blk, o.thr⟩
  let regs := o.num % 16
  let loc := o.num / 2 ^ 68
  if !threadThere s c then s
  else
    let f (t : Thread) : Thread :=
      if Tab.get false t.empty o.reg then fillGroup t o.reg regs 0 (data.take 8) true else t
    let s := s.modThr c f
    let s := match c.grp with
      | .blk b => if (s.blk b).ckpt.threads = [] then s else
          s.modBlk b fun k => { k with ckpt := { k.ckpt with
            threads := Tab.put k.ckpt.threads o.thr (f (Tab.get Thread.none k.ckpt.threads o.thr)) } }
      | .act _ | .slice _ _ => s
    if (c.grp.launch s).logOn = 0 then s
    else
      let ic := (s.thr c).icount
      match noteAtomic (s.modThr c fun t => { t with icount := .ofNat 64 (o.num / 16) }) c (2 ^ 96 + loc / 32) loc (ofBytes (data.take 8)) with
      | (s, none) => s.modThr c fun t => { t with icount := ic }
      | (s, some e) => takeEvents (s.modThr c fun t => { t with icount := ic }) c.grp [(c.n, e)]

/-- What the data of an answer does. DESIGN CHOICE, safe (log 72). -/
def giveData (s : State) (o : OutOp) (data : List Byte) : State :=
  match o.kind with
  | 1 | 10 => giveCmd s o data
  | 3 => giveLoad s o data
  | 5 => giveLane s o data
  | 7 => giveAtomic s o data
  | 8 => (fillPage s o.blk (o.reg / 2 ^ 55) (o.reg % 2 ^ 55) o.num (.ofNat 64 o.thr) data).1
  | 12 =>
    let c : Cx := ⟨nameGrp o.blk, o.thr⟩
    if threadThere s c then s.modThr c fun t => { t with peer := putBytes t.peer o.reg data } else s
  | 13 => match Tab.find s.served o.num with
    | some v => { s with served := Tab.put s.served o.num { v with got := putBytes v.got o.reg data } }
    | none => s
  | _ => s

/-- RDMA_READ_RESPONSE (R347, R352). -/
def execRdmaReadResponse (qpn psn : Nat) (data : List Byte) (s : State) : Host.Outcome State Fault Refusal :=
  let x := s.qp qpn
  guarded (fun s =>
    match (if reaches s qpn then x.out.find? fun o => o.psn == psn && (o.wantsData || o.kind == 9) else none) with
    | none => s
    | some o =>
      wake (giveData (s.setQp qpn { x with out := x.out.erase o, tries := 0, rnr := 0 }) o data)) s

/-! ### Retries, errors and congestion (R347, R471) -/

/-- The queue pair and PSN of a message. -/
def OutMsg.name : OutMsg → Option (Nat × Nat)
  | .write q p _ _ _ _ | .read q p _ _ _ | .atomic q p _ _ _ _ _ => some (q, p)
  | .reply _ _ | .ack _ | .nak _ | .cnp _ | .attest _ => none

/-- Sends the outstanding operations of a queue pair once more. -/
def resend (s : State) (q : Nat) : State :=
  let again (o : OutOp) : Option OutMsg := s.out.reverse.find? fun m => m.name == some (q, o.psn)
  { s with out := s.out ++ (s.qp q).out.filterMap again }

/-- R471: a queue pair enters the error state. Records of launches wait in the journal; what a thread or an
engine has written stays without its acknowledgement. DEDUCED, unsafe (log 69). -/
def qpError (s : State) (q : Nat) : State :=
  let x := s.qp q
  if !x.live || x.err then s
  else wake (s.setQp q { x with err := true, out := x.out.filter OutOp.stays })

/-- ACK_TIMEOUT (R347). -/
def execAckTimeout (qpn : Nat) (s : State) : Host.Outcome State Fault Refusal :=
  let x := s.qp qpn
  .next (if !x.live || x.err || x.out.isEmpty then s
    else if 7 ≤ x.tries then qpError s qpn
    else resend (s.setQp qpn { x with tries := x.tries + 1 }) qpn)

/-- RNR_NAK (R347). -/
def execRnrNak (qpn : Nat) (s : State) : Host.Outcome State Fault Refusal :=
  let x := s.qp qpn
  .next (if !reaches s qpn || x.out.isEmpty then s
    else if 7 ≤ x.rnr then qpError s qpn
    else resend (s.setQp qpn { x with rnr := x.rnr + 1 }) qpn)

/-- CONGESTION_NOTIFICATION (R347): a lower rate, how much lower being open. -/
def execCongestionNotification (qpn : Nat) (s : State) : Host.Outcome State Fault Refusal :=
  let x := s.qp qpn
  .next (if reaches s qpn && decide (1 < x.rate) then
    { s.setQp qpn { x with rate := 1 + Config.choose s.draws % (x.rate - 1) } with draws := s.draws + 1 } else s)

/-- RATE_RECOVERY (R347): a step up towards the full rate. -/
def execRateRecovery (qpn : Nat) (s : State) : Host.Outcome State Fault Refusal :=
  let x := s.qp qpn
  .next (if x.live && decide (x.rate < 1024) then
    { s.setQp qpn { x with rate := x.rate + 1 + Config.choose s.draws % (1024 - x.rate) } with draws := s.draws + 1 } else s)

/-! ### Ports and clock -/

/-- The port of an entry of the topology table: 48 and 49 are the management ports. -/
def anyPort (s : State) (n : Nat) : Port := if n < 48 then s.port n else Tab.get Port.none s.mgmt (n - 48)

def setAnyPort (s : State) (n : Nat) (p : Port) : State :=
  if n < 48 then s.setPort n p else { s with mgmt := Tab.put s.mgmt (n - 48) p }

/-- The messages of a port that no pause holds any more leave. -/
def releaseMessages (s : State) (n : Nat) : State :=
  let p := anyPort s n
  if p.queued = [] then s
  else
    let held (e : Nat × OutMsg) : Bool := p.paused.getLsbD e.1
    { setAnyPort s n { p with queued := p.queued.filter held } with
      out := s.out ++ (p.queued.filter fun e => !held e).map (·.2) }

/-- PAUSE_FRAME (R346): the priorities a peer pauses, or lets go on; a management port has one. -/
def execPauseFrame (port : Nat) (prios : BitVec 8) (pause : Bool) (s : State) : Host.Outcome State Fault Refusal :=
  let p := anyPort s port
  let m : BitVec 8 := if port < 48 then prios else 1
  .next (if s.running && p.up && decide (port < 50) then
    releaseMessages (setAnyPort s port { p with paused := if pause then p.paused ||| m else p.paused &&& ~~~m }) port else s)

/-- A message to the operator leaves by a management port that is up (R346, R360). -/
def sayOperator (s : State) (m : OutMsg) : State :=
  let up (n : Nat) : Bool := (anyPort s n).up && !(anyPort s n).paused.getLsbD 0
  if up 48 || up 49 then { s with out := s.out ++ [m] }
  else
    let n := if (anyPort s 48).up then 48 else 49
    setAnyPort s n { anyPort s n with queued := (anyPort s n).queued ++ [(0, m)] }

/-- R471: every queue pair of a port enters the error state. -/
def portErrors (s : State) (port : Nat) : State :=
  (s.qps.filter fun e => e.2.live && e.2.port == port).foldl (fun s e => qpError s e.1) s

/-- A new generation of the topology table: GEN passes its odd value and ends even (R26). -/
def newTopology (s : State) : State := { s with topoGen := s.topoGen + 2, topoTime := s.now }

/-- LANE_TRAINING (R346, R484, R465): the lanes of a data port that have trained; with `ok` the training has
ended, and otherwise it has failed for the third time. Ports 48 and 49 are the management ports. -/
def execLaneTraining (port : Nat) (lanes : BitVec 8) (ok : Bool) (s : State) : Host.Outcome State Fault Refusal :=
  let mg := decide (48 ≤ port)
  let p := anyPort s port
  let full : BitVec 8 := if mg then 1 else 255
  let fenced := (s.field (portField port)).state == 4
  let p' : Port := { p with lanes := if ok then lanes &&& full else p.lanes, up := ok && lanes &&& full == full && !fenced, failed := !ok }
  .next (if !s.running || decide (50 ≤ port) || p.failed || (s.minimal && !mg) then s
    else
      let s := if p' = p then s else newTopology (setAnyPort s port p')
      let s := if p'.up || mg then s else portErrors s port
      if ok then s
      else postEvent s { field := portField port, kind := .port, num := portIndex port, k := 0 } 0x403 0 0 0)

/-- PTP_MESSAGE (R354): the master's time. At first lock a later time is stepped to; every other correction
slews. -/
def execPtpMessage (time : Dword) (s : State) : Host.Outcome State Fault Refusal :=
  .next (if !s.running then s
    else if !s.ptpLocked && decide (s.now < time.toNat) then { s with ptpLocked := true, time := time.toNat, slew := 0 }
    else { s with ptpLocked := true, slew := (time.toNat : Int) - (s.now : Int) })

end Sys2Proof.Machine
end

