-- ==== Sys2Proof/Machine/Wafer.lean ====
section
/-! DEFINITION. The wafer as it changes: routes and the barrier tree (R24, R328, R340), what the partitions hold of a
field (R279 to R281, R330), the passes a failure breaks (R344), frames that move or are retired (R338, R453), and a
field out of use (R483). -/

namespace Sys2Proof.Machine

open Sys2Proof

/-! ### Routes (R24, R328, R340, R483) -/

/-- The direction opposite to one of 0 N, 1 E, 2 S, 3 W. -/
def opposite (d : Nat) : Nat := (d + 2) % 4

/-- A link is usable: up on both sides, and neither field fenced. -/
def usable (s : State) (a d : Nat) : Bool :=
  match neighbour a d with
  | some b => (s.field a).linkUp.getLsbD d && (s.field b).linkUp.getLsbD (opposite d) && (s.field a).state != 4 && (s.field b).state != 4
  | none => false

/-- The usable links of the wafer, by field. -/
def linkTable (s : State) : List (List (Nat × Nat)) :=
  (List.range 48).map fun a => [1, 3, 0, 2].filterMap fun d =>
    if usable s a d then (neighbour a d).map fun b => (d, b) else none

/-- One more hop from a field: hop counts so far, 255 for none. -/
def relax (links : List (List (Nat × Nat))) (l : List Nat) : List Nat :=
  (List.range 48).map fun a =>
    (links.getD a []).foldl (fun m e => let n := l.getD e.2 255; if n < 255 ∧ n + 1 < m then n + 1 else m) (l.getD a 255)

def relaxN (links : List (List (Nat × Nat))) : Nat → List Nat → List Nat
  | 0, l => l
  | n + 1, l => let l' := relax links l; if l' = l then l else relaxN links n l'

/-- R340: the tree is rebuilt with the routes, and the fields report afresh for the barriers that go on. -/
def rebuildTree (s : State) : State :=
  if s.launches.all fun e => e.2.barw == 0 then s
  else { s with launches := s.launches.map fun e => (e.1, { e.2 with barw := 0 }) }

/-- R328: hop counts and directions towards every field. -/
def fillRoutes (s : State) : State :=
  let links := linkTable s
  let dist := (List.range 48).map fun b => relaxN links 48 ((List.range 48).map fun a => if a = b then 0 else 255)
  let hop (a b : Nat) : Nat := (dist.getD b []).getD a 255
  let pairs := (List.range 48).flatMap fun a => (List.range 48).map fun b => (a, b)
  let dir (a b : Nat) : Nat :=
    match (links.getD a []).find? fun e => hop e.2 b + 1 == hop a b with
    | some (d, _) => d + 1
    | none => 0
  rebuildTree { s with fab := { s.fab with
    hops := (pairs.filter fun p => p.1 != p.2 && hop p.1 p.2 != 255).map fun p => (48 * p.1 + p.2, hop p.1 p.2)
    route := (pairs.filter fun p => p.1 != p.2 && hop p.1 p.2 != 255).map fun p => (48 * p.1 + p.2, dir p.1 p.2) } }

/-- Hops between fields, 255 for no route. -/
def hopsOf (s : State) (a b : Nat) : Nat := Tab.get (if a = b then 0 else 0xFF) s.fab.hops (48 * a + b)

/-! ### What partitions hold of a field (R279 to R281, R330) -/

def modPartField (s : State) (part f : Nat) (g : PartField → PartField) : State :=
  s.modPart part fun p => { p with fields := Tab.put p.fields f (g (Tab.get PartField.none p.fields f)) }

/-- Changes a partition's entry for a field under the GEN rule of R26; lines whose bank changes leave its L2
(R280). -/
def changeHeld (s : State) (part f : Nat) (g : PartField → PartField) : State :=
  let old := (Tab.get PartField.none (s.part part).fields f).bankh
  let s := (modPartField s part f g).modPart part fun p => { p with gen := p.gen + 2 }
  let new := (Tab.get PartField.none (s.part part).fields f).bankh
  if new = old then s else rebank s part f old.toNat new.toNat

/-- A bank lent to a partition that a failure has left without one: from a lendable margin, else from the
partition that holds the most. DEDUCED, unsafe (log 79). -/
def bankFor (s : State) (f : Nat) : Option (Nat × Nat) :=
  let held (e : Nat × Partition) : BitVec 192 := (Tab.get PartField.none e.2.fields f).bankh
  let margin := s.parts.findSome? fun e =>
    if e.2.lendTo = 0xFF then none
    else ((List.range 192).find? fun b => (Tab.get PartField.none e.2.fields f).bankm.getLsbD b && (held e).getLsbD b).map fun b => (e.1, b)
  margin.orElse fun _ =>
    let best := s.parts.foldl (fun (m : Option (Nat × Partition)) e => match m with
      | some x => if countBits (held x) < countBits (held e) then some e else m
      | none => some e) none
    best.bind fun e => ((List.range 192).find? fun b => (held e).getLsbD b).map fun b => (e.1, b)

/-- R330: the banks that failed leave every record; a partition left with none in a field in use gets one. -/
def keepBanks (s : State) (f : Nat) : State :=
  let parts := s.parts.filter fun e => e.2.live
  let lost (e : Nat × Partition) : Bool := let h := (Tab.get PartField.none e.2.fields f).bankh; h &&& (s.field f).banks != h
  let s := (parts.filter lost).foldl (fun s e => changeHeld s e.1 f fun p => { p with bankh := p.bankh &&& (s.field f).banks }) s
  if 2 ≤ (s.field f).state then s
  else parts.foldl (fun s e =>
    if (Tab.get PartField.none (s.part e.1).fields f).bankh ≠ 0 then s
    else match bankFor s f with
    | some (q, b) =>
      changeHeld (changeHeld s q f fun p => { p with bankh := p.bankh &&& ~~~(bitRun 192 b 1) }) e.1 f fun p => { p with bankh := bitRun 192 b 1 }
    | none => s) s

/-! ### Routes of a ring-sum pass (R13, R344) -/

/-- Stops of the sector ring: the places of sectors, channels and ports in the order of R13. -/
def sectorStop (k : Nat) : Nat := [0, 7, 11].getD k 0
def portStop (d : Nat) : Nat := [3, 6, 10, 14].getD d 0
def channelStop (i : Nat) : Nat := [1, 2, 4, 5, 8, 9, 12, 13].getD i 0

/-- The stops from one to another, the shorter way round. DEDUCED, unsafe (log 86). -/
def ringPath (a b : Nat) : List Nat :=
  let d := (b + 15 - a) % 15
  if d ≤ 7 then (List.range (d + 1)).map fun i => (a + i) % 15
  else (List.range (16 - d)).map fun i => (a + 15 - i) % 15

/-- The stops a packet passes from stop `at_` of a field to a stop of another: field and stop. -/
def routeStops (s : State) (goal last : Nat) : Nat → Nat → Nat → List (Nat × Nat)
  | 0, _, _ => []
  | n + 1, f, at_ =>
    if f = goal then (ringPath at_ last).map fun p => (f, p)
    else match Tab.get 0 s.fab.route (48 * f + goal) with
    | 0 => []
    | d + 1 => ((ringPath at_ (portStop d)).map fun p => (f, p)) ++ match neighbour f d with
      | some g => routeStops s goal last n g (portStop (opposite d))
      | none => []

/-- A leg of a pass between two stops named as R343 names them. -/
def legStops (s : State) (a b : Nat) : List (Nat × Nat) :=
  routeStops s (b / 64) (sectorStop (b % 64 / 16)) 48 (a / 64) (sectorStop (a % 64 / 16))

/-- The legs of a pass: from each stop to the next and, with RET, from the last to every other. -/
def passLegs (s : State) (x : Pass) : List (List (Nat × Nat)) :=
  let n := ringStops x.desc
  let stop (i : Nat) : Nat := ringStop x.desc i
  ((List.range (n - 1)).map fun i => legStops s (stop i) (stop (i + 1))) ++
    if ringRet x.desc then (List.range (n - 1)).map fun i => legStops s (stop (n - 1)) (stop i) else []

/-- A leg crosses a link from a field. -/
def crosses (leg : List (Nat × Nat)) (f d : Nat) : Bool :=
  match neighbour f d with
  | none => false
  | some g =>
    let a := (f, portStop d)
    let b := (g, portStop (opposite d))
    (leg.zip (leg.drop 1)).any fun p => p == (a, b) || p == (b, a)

/-- R344: a pass uses a unit. -/
def passUses (s : State) (x : Pass) (u : UnitId) : Bool :=
  let stops := (List.range (ringStops x.desc)).map (ringStop x.desc)
  match u.kind with
  | .core => x.stops.any fun t => t.issued && (s.blk t.blk).core == 192 * u.field + 4 * u.num + u.k
  | .cluster => stops.contains (64 * u.field + u.num)
  | .sector => (passLegs s x).any (·.contains (u.field, sectorStop u.num)) || stops.any fun c => c / 64 == u.field && c % 64 / 16 == u.num
  | .channel => (passLegs s x).any (·.contains (u.field, channelStop u.num))
  | .link => (passLegs s x).any fun l => crosses l u.field u.num
  | .none | .slice | .port | .line => false

/-- A pass has a stop in a field, or packets that pass it. -/
def passIn (s : State) (f : Nat) (x : Pass) : Bool :=
  ((List.range (ringStops x.desc)).any fun i => ringStop x.desc i / 64 == f) || (passLegs s x).any fun l => l.any fun p => p.1 == f

/-- R344: the passes a failure breaks; their cancellation is a step of the pass's own. -/
def breakWhere (s : State) (f : Pass → Bool) : State :=
  if s.passes = [] then s
  else { s with passes := s.passes.map fun e => (e.1, if f e.2 then { e.2 with live := false } else e.2) }

def breakRoutes (s : State) (u : UnitId) : State := breakWhere s fun x => passUses s x u

/-! ### Frames (R23, R196, R337, R338) -/

/-- A frame of field store. -/
def storeFrame (fr : Nat) : Bool := decide (0x30000000 ≤ fr % 2 ^ 30)

/-- The 512 MiB leaves whose offsets are reserved in a field, by their frames (R181). -/
def reservedIn (s : State) (f : Nat) : List Nat :=
  ((s.leaves.filter fun e => e.2.home == f || s.granules.any fun g => g.1 / 2 ^ 8 == e.1 && g.2.home == f).map
    fun e => e.2.frame).eraseDups

/-- Frames of a field in no use: neither a page's, nor reserved, nor any partition's shadow pool. -/
def spareFrames (s : State) (f : Nat) : Nat :=
  let big := reservedIn s f
  let within (n : Nat) : Bool := big.any fun b => b ≤ n && n < b + 8192
  (s.field f).frames - (s.frames.filter fun e => e.1 / 2 ^ 30 == f && e.2.used && !e.2.retired && !storeFrame e.1 &&
    !within (e.1 % 2 ^ 30)).length - 8192 * big.length -
    (s.parts.map fun p => (Tab.get PartField.none p.2.fields f).shadow).sum

/-- R23: the usable frames of a field: those of its channels that have not been retired. -/
def recount (s : State) (f : Nat) : State :=
  let gone := (s.frames.filter fun e => e.1 / 2 ^ 30 == f && e.2.retired && !storeFrame e.1 &&
    (s.field f).chan.getLsbD (frameChannel e.1)).length
  s.modField f fun x => { x with frames := 196608 * countBits x.chan - gone }

/-- Cells of a stretch of memory moved to another address. -/
def moveCells (m : Memory) (a b n : Nat) : Memory :=
  let here (lo k : Nat) : Bool := lo ≤ k && k < lo + n
  (m.filter fun e => here a e.1).foldl (fun m e => Tab.put m (b + (e.1 - a)) e.2)
    (m.filter fun e => !(here a e.1 || here b e.1))

/-- The same for the generations and shadows of its lines. -/
def moveLines (s : State) (a b n : Nat) : State :=
  let gens := s.wgen.filter fun e => a / 128 ≤ e.1 && e.1 < (a + n) / 128
  let rest := s.wgen.filter fun e => !((a / 128 ≤ e.1 && e.1 < (a + n) / 128) || (b / 128 ≤ e.1 && e.1 < (b + n) / 128))
  { s with
    mem := moveCells s.mem a b n
    wgen := gens.foldl (fun t e => Tab.put t (b / 128 + (e.1 - a / 128)) e.2) rest
    shadows := s.shadows.map fun e =>
      (e.1, if a ≤ e.2.pa ∧ e.2.pa < a + n then { e.2 with pa := b + (e.2.pa - a), field := b / 2 ^ 46 } else e.2) }

/-- The entries of the frame table from one frame on move to others. -/
def moveFrames (s : State) (a b n : Nat) : State :=
  let here (k : Nat) : Bool := decide (a ≤ k ∧ k < a + n)
  let rest := s.frames.filter fun e => !here e.1
  { s with frames := (s.frames.filter fun e => here e.1).foldl (fun t e => Tab.put t (b + (e.1 - a)) e.2) rest }

/-! ### Retiring a page (R453, R455) -/

/-- The leaf word of a retired page: KIND 0, SW 0xF1D, and its new frame. -/
def retiredLeaf (e : Dword) (fr : Nat) : Dword := setBits (setBits (setBits e 0 2 0) 52 12 0xF1D) 16 36 fr

/-- Memory without the bytes at some addresses. -/
def dropCells (m : Memory) (gone : Nat → Bool) : Memory := m.filter fun e => !gone e.1

/-- Lines of a frame by number that read zero from now on. -/
def zeroLines (m : Memory) (fr : Nat) (lost : Nat → Bool) : Memory :=
  dropCells m fun a => a / 2 ^ 16 == fr && lost (a / 128 % 512)

/-- R453: the page of a frame moves to a fresh one without its lost lines, its leaf no longer maps it, and
the frame is never used again. -/
def retireFrame (s : State) (fr : Nat) (lost : Nat → Bool) (whole : Bool) : State :=
  let f := fr / 2 ^ 30
  let x := Tab.get Frame.none s.frames fr
  let done (s : State) : State :=
    let s := s.modField f fun y => { y with retired := y.retired + 1 }
    recount { s with frames := Tab.put s.frames fr { Frame.none with retired := true, used := true } } f
  if x.retired then s
  else match x.canon with
  | none => done { s with mem := zeroLines s.mem fr fun _ => true }
  | some c =>
    let asid := c / 2 ^ 55
    let va := c % 2 ^ 55
    let w : Writer := { ctx := (s.asid asid).owner, blk := none, thr := 0, precise := false, known := [] }
    let leaf := s.walk asid va
    let s := invalidate s w asid va 65536
    let s := { s with mem := zeroLines s.mem fr lost }
    let s := if whole then { s with lost := Tab.put s.lost (tlbKey asid va) (fr * 2 ^ 16) } else s
    match leaf with
    | .bad _ _ _ => done s
    | .leaf l epa _ =>
      let e := s.load64 epa
      if leafKind e ≠ 2 then done s
      else match (if l = 3 then takeFrame s f else none) with
      | some (fr', s) =>
        let s := moveLines s (fr * 2 ^ 16) (fr' * 2 ^ 16) 65536
        let s := { s with frames := Tab.put s.frames fr' { Frame.none with canon := some c, used := true } }
        done (s.store epa (toBytes 8 (retiredLeaf e fr').toNat))
      | none =>
        done ({ s with mem := zeroLines s.mem fr fun _ => true }.store epa (toBytes 8 (retiredLeaf e (leafFrame e)).toNat))

/-- DEDUCED, unsafe (log 81). -/
def retireFrames (s : State) (whole : Bool) : List Nat → State
  | [] => s
  | fr :: r => retireFrames (retireFrame s fr (fun _ => true) whole) whole r

/-- R455, R467: the storage of some frames of a field is lost: their pages are retired with every line lost, and what
stands at their homes or is held for them is gone. The answer counts the pages. -/
def loseFrames (s : State) (f : Nat) (gone : Nat → Bool) : State × Nat :=
  let here (fr : Nat) : Bool := fr / 2 ^ 30 == f && gone fr
  let lost := (s.frames.filter fun e => here e.1 && e.2.canon.isSome && !e.2.retired).map (·.1)
  let s := retireFrames s true lost
  let at_ (e : Nat × TlbEnt) : Nat := leafPa s (192 * f) (e.1 / 2 ^ 39) (e.1 % 2 ^ 39 * 2 ^ 16) e.2
  ({ s with
    mem := dropCells s.mem fun a => here (a / 2 ^ 16)
    held := s.held.filter fun h => !here (h.pa / 2 ^ 16)
    tlb := s.tlb.filter fun e => !(leafMk e.2.leaf != 2 && here (at_ e / 2 ^ 16)) }, lost.length)

/-! ### A field out of use (R466, R469, R471, R483) -/

/-- R452, R466, R469: the copies of images and journal entries in a field's DRAM are lost. -/
def loseCopiesIn (s : State) (f : Nat) : State :=
  { s with
    launches := s.launches.map fun e => (e.1, { e.2 with journal := e.2.journal.filter (· != f) })
    blocks := s.blocks.map fun e =>
      let left := e.2.images.filter (· != f)
      (e.1, { e.2 with images := left, imageLost := e.2.imageLost || (left.isEmpty && !e.2.images.isEmpty) }) }

/-- R483: a field that is marked fenced, with the links that face it. -/
def markFenced (s : State) (f : Nat) : State :=
  let x := s.field f
  let s := s.setField f { x with state := 4, linkUp := 0 }
  [0, 1, 2, 3].foldl (fun s d => match neighbour f d with
    | some b => s.modField b fun y => { y with linkUp := y.linkUp &&& ~~~ (.ofNat 4 (2 ^ opposite d)) }
    | none => s) s

/-- The ports of a field go down. -/
def downPorts (s : State) (f : Nat) : State :=
  let down (s : State) (n : Nat) : State :=
    let p := anyPort s n
    if portField n ≠ f ∨ (p.up = false ∧ n < 48) then s
    else
      let s := setAnyPort s n { p with up := false }
      if n < 48 then portErrors s n else s
  (List.range 50).foldl down s

/-- R483: a field is out of use as a whole: it forwards nothing, and serves no memory. The answer counts the pages
lost with it; the routes are filled by the caller. -/
def closeField (s : State) (f : Nat) : State × Nat :=
  let (s, n) := loseFrames (markFenced s f) f fun _ => true
  (downPorts (loseCopiesIn s f) f, n)

/-- The same of a running field, with the passes it breaks and the routes around it. -/
def fenceField (s : State) (f : Nat) : State × Nat :=
  let (s, n) := closeField (breakWhere s (passIn s f)) f
  (fillRoutes s, n)

/-- R283: a core without its contents; the counters of its engine contexts stay with their contexts. -/
def scrubCore (s : State) (core : Nat) : State :=
  let s := [0, 1, 2, 3].foldl (fun s i => freeSlot s core i) s
  { s with
    cores := Tab.erase s.cores core
    fab := { s.fab with l0 := s.fab.l0.filter fun e => e.1 / 2 ^ 66 != core } }

/-- R283, R335, R336: a cluster's cache and predictors without their contents. -/
def scrubCluster (s : State) (cl : Nat) : State :=
  { s with fab := { s.fab with
    clines := s.fab.clines.filter fun e => e.1 / 2 ^ 64 != cl
    peer := s.fab.peer.filter fun e => e.1 / 1024 != cl
    atom := s.fab.atom.filter fun e => e.1 / 4096 != cl } }

def blocksOnCores (s : State) (cores : List Nat) : List Nat :=
  (s.blocks.filter fun e => e.2.st == .resident && cores.contains e.2.core).map (·.1)

def actsOnCores (s : State) (cores : List Nat) : List Nat :=
  (s.acts.filter fun e => e.2.live && e.2.entered && cores.contains e.2.core).map (·.1)

def failEv (s : State) (f : Nat) : Ev := { code := 0x403, arg := 0, addr := 0, synd := (s.field f).state }

/-- R467: the blocks and activations on cores that are out of use, and those cores: how many blocks were rolled
back, and how many ended. -/
def emptyCores (s : State) (u : UnitId) (cores more : List Nat) : State × Nat × Nat :=
  let e := failEv s u.field
  let (s, r, n) := touchBlocks s u true e (blocksOnCores s cores)
  let (s, r', n') := touchBlocks s u false e more
  let acts := actsOnCores s cores
  let s := acts.foldl (fun s a =>
    touchAct s a { wid := 0, lnum := 0, ctx := (s.actv a).ctx, pc := 0, core := (s.actv a).core, unit := u } e) s
  (cores.foldl scrubCore s, r + r', n + n' + acts.length)

def fieldCores (f : Nat) : List Nat := (List.range 192).map (· + 192 * f)

/-- The clusters of a field lose their caches. -/
def scrubField (s : State) (f : Nat) : State := (List.range 48).foldl (fun s c => scrubCluster s (48 * f + c)) s

/-- R467, R483: a running field that is fenced, with what it holds; its event follows the update of the table. -/
def retireField (s : State) (f : Nat) : State :=
  let u : UnitId := { field := f, kind := .none, num := 0, k := 0 }
  let (s, nret) := fenceField s f
  let (s, r, n) := emptyCores (newTopology (keepBanks s f)) u (fieldCores f) []
  wake (postEvent (scrubField s f) u 0x403 r n nret)

/-! ### Units that change hands (R278, R282, R283) -/

def partField (s : State) (part f : Nat) : PartField := Tab.get PartField.none (s.part part).fields f

def holdsUnit (p : PartField) (bank : Bool) (n : Nat) : Bool := if bank then p.bankh.getLsbD n else p.clush.getLsbD n
def marginUnit (p : PartField) (bank : Bool) (n : Nat) : Bool := if bank then p.bankm.getLsbD n else p.clusm.getLsbD n

def setHeld (p : PartField) (bank : Bool) (n : Nat) (v : Bool) : PartField :=
  let b : BitVec 192 := bitRun 192 n 1
  let c : BitVec 64 := bitRun 64 n 1
  if bank then { p with bankh := if v then p.bankh ||| b else p.bankh &&& ~~~b }
  else { p with clush := if v then p.clush ||| c else p.clush &&& ~~~c }

def clusterCoresOf (f n : Nat) : List Nat := (List.range 4).map fun k => 192 * f + 4 * n + k

/-- Cores of a unit: a bank has none. -/
def unitCores (f : Nat) (bank : Bool) (n : Nat) : List Nat := if bank then [] else clusterCoresOf f n

/-- The device's own writer for an ASID. -/
def ownerWriter (s : State) (asid : Nat) : Writer := { ctx := (s.asid asid).owner, blk := none, thr := 0, precise := false, known := [] }

/-- R283, steps 3 and 4: the lines of a cluster go to their homes, and the cluster is scrubbed. -/
def clearCluster (s : State) (f n : Nat) : State :=
  let cl := 48 * f + n
  let s := s.fab.clines.foldl (fun s e =>
    if e.1 / 2 ^ 64 = cl then flushLine s (ownerWriter s (e.1 % 2 ^ 64 * 128 / 2 ^ 55)) e.1 else s) s
  scrubCluster ((clusterCoresOf f n).foldl scrubCore s) cl

def revokeKey (f : Nat) (bank : Bool) (n : Nat) : Nat := 512 * f + if bank then 256 + n else n

/-- A unit on which nothing runs passes from one partition to another (R282, R283). -/
def handUnit (s : State) (f : Nat) (bank : Bool) (n giver taker : Nat) : State :=
  let s := if bank then s else clearCluster s f n
  let s := changeHeld s giver f fun x => setHeld x bank n false
  let s := changeHeld s taker f fun x => setHeld x bank n true
  { s with revokes := Tab.erase s.revokes (revokeKey f bank n) }

end Sys2Proof.Machine
end

