-- ==== Sys2Proof/Machine/Service.lean ====
section
/-! DEFINITION. Tolquel's service requests (R288, R289, R339, R353, R360, R364, R411, R449, R460, R461,
R472): what each does, and its reply. -/

namespace Sys2Proof.Machine

open Sys2Proof

/-! ### Replies (R288) -/

/-- Tolquel performs requests: the device runs in normal mode and the virtual function is there. -/
def serving (s : State) (vf : Nat) : Bool := s.running && (s.vf vf).live && !s.minimal

/-- R288: the reply to the next request of a virtual function, at its place in the service window. -/
def reply (s : State) (vf status : Nat) (results : List Nat) : State :=
  let x := s.win vf 1023
  let k := (s.vf vf).replies
  let words := (status :: results ++ List.replicate 8 0).take 8
  let s := if x.len / 64 = 0 then s
    else (storeTo s (windowAgent s vf x) (x.lbase + k % (x.len / 64) * 64) 1 false false (words.flatMap fun n => toBytes 8 n)).1
  let s := s.modWin vf 1023 fun x => { x with landed := x.landed + 1 }
  wake (s.modVf vf fun f => { f with replies := k + 1, requests := f.requests.drop 1 })

/-- A request performed and answered: `f` gives the state, the status and the results. -/
def service (vf : Nat) (f : State → State × Nat × List Nat) (s : State) : Host.Outcome State Fault Refusal :=
  guarded (fun s => if serving s vf then
      let (s, st, r) := f s
      reply s vf st r
    else s) s

/-- A request refused: nothing was done. -/
def refuse (s : State) (status : Nat) : State × Nat × List Nat := (s, status, [])

/-- A context of the virtual function. -/
def ownCtx (s : State) (vf ctx : Nat) : Bool := (s.ctx ctx).live && (s.ctx ctx).vf == vf

/-- A number not in use among n from lo, the choice open; `k` numbers are in use. -/
def freshId (s : State) (lo n k : Nat) (used : Nat → Bool) : Option Nat :=
  ((List.range (min n (k + 1))).map fun i => lo + (Config.choose s.draws + i) % n).find? fun i => !used i

/-! ### Contexts and ASIDs (R285 to R289) -/

/-- R288: a frame that may be a root: DRAM of a field of the partition, usable, and no other root. -/
def rootOk (s : State) (part fr : Nat) : Bool :=
  let f := fr / 2 ^ 30
  let x := s.field f
  decide (f < 48) && x.state < 3 && decide (fr % 2 ^ 30 < 0x180000) && x.chan.getLsbD (fr % 8) &&
    (Tab.find (s.part part).fields f).isSome && !(Tab.get Frame.none s.frames fr).retired &&
    !(s.asids.any fun e => e.2.live && e.2.root == fr)

/-- A free ASID. -/
def freshAsid (s : State) : Option Nat := freshId s 0 65536 s.asids.length fun a => (s.asid a).live

def enterAsid (s : State) (a vf owner root : Nat) (shared : Bool) : State :=
  s.setAsid a { root := root, live := true, shared := shared, part := (s.vf vf).part, vf := vf, owner := owner }

/-- The two words of a slot template, which the manual leaves to Tolquel. -/
def drawWord (s : State) : Dword × State :=
  let (a, s) := s.draw
  let (b, s) := s.draw
  (b ++ a, s)

/-- CTX_NEW (R285, R288). DESIGN CHOICE, safe (log 61). DESIGN CHOICE, unsafe (log 76). -/
def ctxNew (vf maxsc mode period root : Nat) (s : State) : State × Nat × List Nat :=
  if !(decide (1 ≤ maxsc) && maxsc ≤ 3 && mode ≤ 1 && 10 ≤ period && period ≤ 1000 && rootOk s (s.vf vf).part root) then refuse s 1
  else if 4096 ≤ (s.ctxs.filter fun e => e.2.live).length then refuse s 2
  else match freshId s 0x10 0xFFF0 s.ctxs.length (fun c => (s.ctx c).live), freshAsid s with
  | some c, some a =>
    let (w1, s) := drawWord s
    let (w2, s) := drawWord s
    let s := enterAsid { s with draws := s.draws + 1 } a vf c root false
    (s.setCtx c { Ctx.none with
      live := true, vf := vf, part := (s.vf vf).part, maxsc := maxsc, drain := mode == 1, ckper := period
      asids := [(0, a)], hangExp := 32, tmpl1 := w1, tmpl2 := w2 }, 0, [c, a])
  | _, _ => refuse s 2

/-- CTX_NEW (R285, R288). -/
def execCtxNew (vf maxsc mode period root : Nat) (s : State) : Host.Outcome State Fault Refusal :=
  service vf (ctxNew vf maxsc mode period root) s

/-- R185: an ASID that is no more leaves no translation, line, placement, loss or canonical address behind. -/
def dropAsid (s : State) (a : Nat) : State :=
  let w : Writer := { ctx := (s.asid a).owner, blk := none, thr := 0, precise := false, known := [] }
  let s := invalidate s w a 0 (2 ^ 55)
  { s.setAsid a AsidEnt.none with
    granules := s.granules.filter fun e => e.1 / 2 ^ 34 != a
    leaves := s.leaves.filter fun e => e.1 / 2 ^ 26 != a
    lost := s.lost.filter fun e => e.1 / 2 ^ 39 != a
    frames := s.frames.map fun e => (e.1, if (e.2.canon.any fun c => c / 2 ^ 55 == a) = true then { e.2 with canon := none } else e.2) }

/-- R289, step 2: gates and slots that name a context. -/
def dropPlaces (s : State) (ctx : Nat) : State :=
  let clear (g : Tab Dword) : Tab Dword :=
    g.map fun e => (e.1, if e.1 % 4 = 0 ∧ bitsOf e.2 0 16 = ctx then setBits e.2 16 1 0 else e.2)
  { s with
    parts := s.parts.map fun p => (p.1, { p.2 with gates := clear p.2.gates })
    cores := s.cores.map fun e => (e.1, { e.2 with
      slots := e.2.slots.map fun k => (k.1, if k.2.valid && k.2.ctxid == ctx then CSlot.none else k.2) }) }

/-- R289: a context is freed. DEDUCED, unsafe (log 74). -/
def freeCtx (s : State) (vf ctx : Nat) : State :=
  let s := (acceptLevels s ctx 1).releaseHeld
  let s := dropPlaces s ctx
  let s := dropAsid s (Tab.get 0 (s.ctx ctx).asids 0)
  let steward := (s.vf vf).steward
  { s.setCtx ctx Ctx.none with
    asids := s.asids.map fun e => (e.1, if e.2.live && e.2.owner == ctx then { e.2 with owner := steward } else e.2) }

/-- CTX_FREE (R288, R289). -/
def execCtxFree (vf ctx : Nat) (s : State) : Host.Outcome State Fault Refusal :=
  service vf (fun s =>
    if !ownCtx s vf ctx then refuse s 1
    else if !(liveLaunches s ctx).isEmpty || (s.acts.any fun e => e.2.live && e.2.ctx == ctx) || ctx == (s.vf vf).steward then refuse s 2
    else (freeCtx s vf ctx, 0, [])) s

/-- ASID_NEW (R285, R288): a context owns at most 16. -/
def execAsidNew (vf owner root shared : Nat) (s : State) : Host.Outcome State Fault Refusal :=
  service vf (fun s =>
    if !(ownCtx s vf owner && shared ≤ 1 && rootOk s (s.vf vf).part root) then refuse s 1
    else if 16 ≤ (s.asids.filter fun e => e.2.live && e.2.owner == owner).length then refuse s 2
    else match freshAsid s with
    | some a => (enterAsid { s with draws := s.draws + 1 } a vf owner root (shared == 1), 0, [a])
    | none => refuse s 2) s

/-- An ASID in an address-space slot of a context. -/
def asidBound (s : State) (a : Nat) : Bool :=
  s.ctxs.any fun e => e.2.live && (Tab.get 0 e.2.asids 0 == a ||
    [1, 2, 3].any fun i => e.2.av.getLsbD (i - 1) && Tab.get 0 e.2.asids i == a)

/-- ASID_FREE (R288). -/
def execAsidFree (vf asid : Nat) (s : State) : Host.Outcome State Fault Refusal :=
  service vf (fun s =>
    if !((s.asid asid).live && (s.asid asid).vf == vf) then refuse s 1
    else if asidBound s asid then refuse s 2
    else (dropAsid s asid, 0, [])) s

/-! ### VF_SET, GATE_RSV, SHADOW_SET, FSTORE_SET, PLACE -/

/-- A new period in a virtual function's contexts and slots; each block takes it at its next checkpoint. -/
def setPeriods (s : State) (vf period : Nat) : State :=
  { s with
    ctxs := s.ctxs.map fun e => (e.1, if e.2.live && e.2.vf == vf then { e.2 with ckper := period } else e.2)
    cores := s.cores.map fun e => (e.1, { e.2 with slots := e.2.slots.map fun k =>
      (k.1, if k.2.valid && k.2.vf == vf then { k.2 with w0 := setBits k.2.w0 32 10 period } else k.2) }) }

/-- VF_SET (R460). -/
def execVfSet (vf weight quantum period : Nat) (s : State) : Host.Outcome State Fault Refusal :=
  service vf (fun s =>
    if 255 < weight then refuse s 1
    else if quantum = 0 then refuse s 16
    else if 10000 < quantum then refuse s 17
    else if period < 10 ∨ 1000 < period then refuse s 18
    else
      let q := max quantum 50
      (setPeriods (s.modVf vf fun f => { f with weight := weight, quantum := q, period := period }) vf period, 0,
        [weight, q, period, (if quantum < 50 then 1 else 0) + if weight = 0 then 2 else 0])) s

/-- R296: TARGET becomes resident on one core, in a slot with GRES. -/
def reserveOn (s : State) (ctx core : Nat) : State × Bool :=
  match slotHolding s core ctx with
  | some i => (s.setCslot core i { s.cslot core i with w0 := setBits (s.cslot core i).w0 22 1 1 }, true)
  | none =>
    let k := fillFrom s ctx
    match [0, 1, 2, 3].find? fun i => fillable s core i && slotLegal s core i k with
    | some i =>
      let s := giveSlot s core i ctx
      (s.setCslot core i { s.cslot core i with w0 := setBits k.w0 22 1 1 }, true)
    | none => (s, false)

def reserveAll (s : State) (ctx n : Nat) : List Nat → State × Nat
  | [] => (s, n)
  | c :: r => match reserveOn s ctx c with
    | (s, ok) => reserveAll s ctx (if ok then n + 1 else n) r

/-- GATE_RSV (R288, R296). -/
def execGateRsv (vf entry : Nat) (fields : BitVec 48) (s : State) : Host.Outcome State Fault Refusal :=
  service vf (fun s =>
    let part := (s.vf vf).part
    let w0 := gateWord s part entry 0
    let ctx := bitsOf w0 0 16
    if !(decide (entry < 256) && bitOf w0 16 && bitsOf w0 17 6 == vf && (s.ctx ctx).live) then refuse s 1
    else
      let cores := ((List.range 48).filter fun f => fields.getLsbD f).flatMap fun f => partCores s part f true
      let (s, n) := reserveAll s ctx 0 cores
      (s, 0, [n])) s

/-- SHADOW_SET (R288, R449, R447): the pool grows by the frames granted, and held writes are retried.
DEDUCED, unsafe (log 75). -/
def execShadowSet (vf field frames : Nat) (s : State) : Host.Outcome State Fault Refusal :=
  service vf (fun s =>
    let part := (s.vf vf).part
    if !(decide (field < 48) && (Tab.find (s.part part).fields field).isSome) then refuse s 1
    else
      let n := min frames (spareFrames s field)
      (wake (changeHeld s part field fun p => { p with shadow := p.shadow + n }).releaseHeld, 0, [n])) s

/-- The field store of a partition in a field beyond a length is gone, with what its pages left in the caches. -/
def trimStore (s : State) (part f mib : Nat) : State :=
  let lo := storePa part (f * 2 ^ 46 + 0x300000000000) 1
  let gone (at_ : Nat) : Bool := decide (lo + mib * 2 ^ 20 ≤ at_ ∧ at_ < lo + 2 ^ 32)
  let pages := s.tlb.filter fun e => leafMk e.2.leaf == 1 && (s.asid (e.1 / 2 ^ 39)).part == part &&
    gone (leafPa s (192 * f) (e.1 / 2 ^ 39) (e.1 % 2 ^ 39 * 2 ^ 16) e.2)
  let s := pages.foldl (fun s e =>
    let a := e.1 / 2 ^ 39
    invalidate s { ctx := (s.asid a).owner, blk := none, thr := 0, precise := false, known := [] } a (e.1 % 2 ^ 39 * 2 ^ 16) 65536) s
  { s with mem := dropCells s.mem gone, frames := s.frames.filter fun e => !gone (e.1 * 2 ^ 16) }

/-- FSTORE_SET (R196, R288). -/
def execFstoreSet (vf field mib : Nat) (s : State) : Host.Outcome State Fault Refusal :=
  service vf (fun s =>
    let part := (s.vf vf).part
    let p := Tab.get PartField.none (s.part part).fields field
    if !(decide (field < 48) && (Tab.find (s.part part).fields field).isSome && 2 * mib ≤ p.fcsh) then refuse s 1
    else
      (trimStore (changeHeld s part field fun p => { p with fstore := mib }) part field mib, 0, [mib])) s

/-! ### Migration (R337 to R339) -/

/-- The leaves of a granule's 64 KiB pages that map memory. -/
def granLeaves (s : State) (asid gran : Nat) : List (Nat × Dword) :=
  (List.range 32).filterMap fun i => match s.walk asid (gran * 2 ^ 21 % 2 ^ 55 + i * 65536) with
    | .leaf l _ e => if leafKind e = 2 ∧ leafMk e ≠ 2 then some (l, e) else none
    | .bad _ _ _ => none

/-- A granule of field store. -/
def granStore (s : State) (asid gran : Nat) : Bool := (granLeaves s asid gran).any fun e => leafMk e.2 == 1

/-- The home of a granule (R181): the placement map's, or the field of a page it has resident. -/
def granuleHome (s : State) (asid gran : Nat) : Option Nat :=
  let va := gran * 2 ^ 21
  match Tab.find s.granules (granuleKey asid va), Tab.find s.leaves (bigLeafKey asid va) with
  | some g, _ => some g.home
  | none, some l => some l.home
  | none, none => ((granLeaves s asid gran).find? fun e => e.1 == 3).map fun e => leafFrame e.2 / 2 ^ 30

/-- R181: a field can take the granules of a 512 MiB leaf: its offsets are reserved there already, or free. -/
def bigFits (s : State) (asid gran f frame : Nat) : Bool :=
  let key := bigLeafKey asid (gran * 2 ^ 21)
  let mine := (s.leaves.any fun e => e.1 == key && e.2.home == f) ||
    s.granules.any fun g => g.1 / 2 ^ 8 == key && g.2.home == f
  let here (fr : Nat) : Bool := decide (f * 2 ^ 30 + frame ≤ fr ∧ fr < f * 2 ^ 30 + frame + 8192)
  mine || ((s.field f).chan == .allOnes 8 && !(reservedIn s f).contains frame &&
    !(s.frames.any fun e => here e.1 && (e.2.used || e.2.retired)) && !(s.mem.any fun e => here (e.1 / 2 ^ 16)))

/-- One 64 KiB page of a granule. -/
def migratePage (s : State) (asid va f : Nat) : Option State :=
  match s.walk asid va with
  | .bad _ _ _ => some s
  | .leaf l epa e =>
    if l ≠ 3 ∨ leafKind e ≠ 2 ∨ leafMk e ≠ 0 ∨ leafFrame e / 2 ^ 30 = f then some s
    else match takeFrame s f with
    | none => none
    | some (fr, s) =>
      let old := leafFrame e
      let s := moveLines s (old * 2 ^ 16) (fr * 2 ^ 16) 65536
      let s := moveFrames s old fr 1
      some (s.store epa (toBytes 8 (setBits e 16 36 fr).toNat))

def migratePages (s : State) (asid va f : Nat) : Nat → Option State
  | 0 => some s
  | n + 1 => (migratePages s asid va f n).bind fun s => migratePage s asid (va + n * 65536) f

/-- R338: a granule moves to another field, or nothing changes. -/
def migrate (s : State) (asid gran f : Nat) : Option State :=
  let va := gran * 2 ^ 21 % 2 ^ 55
  let w : Writer := { ctx := (s.asid asid).owner, blk := none, thr := 0, precise := false, known := [] }
  let s := invalidate s w asid va (2 ^ 21)
  let key := granuleKey asid va
  let old := Tab.get (Granule.first ((granuleHome s asid gran).getD f)) s.granules key
  let moved (s : State) : State :=
    { s with granules := Tab.put s.granules key { old with home := f, lastMove := s.now } }
  match s.walk asid va with
  | .leaf 2 _ e =>
    if leafKind e ≠ 2 ∨ leafMk e ≠ 0 then none
    else
      let base := (leafFrame e * 2 ^ 16 + va % 2 ^ 29) % 2 ^ 46
      let a := old.home * 2 ^ 46 + base
      let b := f * 2 ^ 46 + base
      some (moved (moveFrames (moveLines s a b (2 ^ 21)) (a / 2 ^ 16) (b / 2 ^ 16) 32))
  | .leaf _ _ _ | .bad _ _ _ => (migratePages s asid va f 32).map moved

/-- R337, R339: a field that can take a granule of a partition, over a route from where it is homed. -/
def canTake (s : State) (asid gran f : Nat) : Bool :=
  let part := (s.asid asid).part
  let va := gran * 2 ^ 21 % 2 ^ 55
  let inside (e : Nat × Shadow) : Bool := shadowLine e.1 / 2 ^ 14 == (asid * 2 ^ 55 + va) / 2 ^ 21
  let room : Bool := match (granLeaves s asid gran).find? fun e => e.1 == 2 with
    | some e => bigFits s asid gran f (leafFrame e.2 % 2 ^ 30)
    | none => decide (32 ≤ spareFrames s f)
  decide (f < 48) && (s.field f).state < 2 && hopsOf s ((granuleHome s asid gran).getD s.lead) f != 0xFF &&
    (Tab.find (s.part part).fields f).isSome && room &&
    decide (s.poolUsed part f + (s.shadows.filter inside).length ≤ s.poolLines part f) &&
    !(s.held.any fun h => h.loc / 2 ^ 21 == (asid * 2 ^ 55 + va) / 2 ^ 21)

/-- PLACE (R339): pins a granule to a field, or unpins it. -/
def execPlace (vf asid addr field : Nat) (s : State) : Host.Outcome State Fault Refusal :=
  service vf (fun s =>
    let key := granuleKey asid addr
    let gran := addr % 2 ^ 55 / 2 ^ 21
    if !((s.asid asid).live && ((s.asid asid).vf == vf || ((s.asid asid).shared && (s.asid asid).part == (s.vf vf).part))) then
      refuse s 1
    else if field = 0xFF then
      match granuleHome s asid gran with
      | some f => ({ s with granules := Tab.put s.granules key { Tab.get (Granule.first f) s.granules key with pinned := false } }, 0, [f])
      | none => refuse s 1
    else if 48 ≤ field then refuse s 1
    else
      let pin (s : State) : State × Nat × List Nat :=
        ({ s with granules := Tab.put s.granules key { Tab.get (Granule.first field) s.granules key with pinned := true } }, 0, [field])
      if granuleHome s asid gran = some field then pin s
      else if granStore s asid gran || !canTake s asid gran field then refuse s 1
      else match migrate s asid gran field with
      | some s => pin s
      | none => refuse s 1) s

/-! ### Queue pairs and windows (R353, R472) -/

/-- R279: a partition's share of a data port. -/
def portShare (s : State) (part port : Nat) : Nat :=
  (Tab.get PartField.none (s.part part).fields (portField port)).ethsh.toNat / 2 ^ (8 * portIndex port) % 256

/-- QP_NEW (R353). -/
def execQpNew (vf port prio : Nat) (ip : BitVec 128) (peerQpn sendPsn recvPsn : Nat) (s : State) :
    Host.Outcome State Fault Refusal :=
  service vf (fun s =>
    if !(decide (port < 48) && prio < 8 && peerQpn < 2 ^ 24 && sendPsn < 2 ^ 24 && recvPsn < 2 ^ 24 &&
        decide (0 < portShare s (s.vf vf).part port)) then refuse s 1
    else if 8192 ≤ (s.qps.filter fun e => e.2.live && e.2.port == port).length then refuse s 2
    else match freshId s 0 (2 ^ 24) s.qps.length fun q => (s.qp q).live with
    | some q =>
      ({ s with draws := s.draws + 1 }.setQp q { Qp.none with
        live := true, vf := vf, port := port, prio := prio, ip := ip, peer := peerQpn, sendPsn := sendPsn, recvPsn := recvPsn }, 0, [q])
    | none => refuse s 2) s

/-- A queue pair of the virtual function. -/
def ownQp (s : State) (vf qpn : Nat) : Bool := (s.qp qpn).live && (s.qp qpn).vf == vf

/-- QP_FREE (R353). -/
def execQpFree (vf qpn : Nat) (s : State) : Host.Outcome State Fault Refusal :=
  service vf (fun s =>
    if !ownQp s vf qpn then refuse s 1
    else if (s.vf vf).wins.any fun e => e.2.kind != 0 && e.2.qpn == qpn then refuse s 2
    else (s.setQp qpn Qp.none, 0, [])) s

/-- R350: an entry as WIN-SET writes it, reserved bits zero. -/
def winEntry (w0 w1 w2 w3 w4 w5 : Dword) : Win :=
  { Win.none with
    w0 := w0 &&& 0xFFFF00FFFFFFFF03, w1 := w1 &&& 0x01FFFFFFFFFFFFFF, w2 := w2 &&& 0x000000FFFFFFFFFF, w3 := w3, w4 := w4
    w5 := w5 &&& 0x000000FFFFFFFFFF }

/-- R350, R353: the checks of WIN-SET. -/
def winOk (s : State) (vf : Nat) (x : Win) : Bool :=
  (x.kind == 1 || x.kind == 2) && ownQp s vf x.qpn && bindable s vf (s.vf vf).part x.asid &&
    x.lbase % 65536 == 0 && x.len % 128 == 0 && decide (128 ≤ x.len)

/-- WIN_SET (R353). -/
def execWinSet (vf win : Nat) (w0 w1 w2 w3 w4 w5 : Dword) (s : State) : Host.Outcome State Fault Refusal :=
  service vf (fun s =>
    let x := winEntry w0 w1 w2 w3 w4 w5
    if 1023 ≤ win then refuse s 1
    else if (s.win vf win).kind ≠ 0 then refuse s 2
    else if winOk s vf x then (s.setWin vf win x, 0, []) else refuse s 1) s

/-- WIN_FREE (R353): new requests are refused at once, and the reply waits for the window's commands. -/
def execWinFree (vf win : Nat) (s : State) : Host.Outcome State Fault Refusal :=
  if !serving s vf then .next s
  else if win < 1023 ∧ (s.win vf win).kind ≠ 0 ∧ (winCmds s vf win).isEmpty = false then
    .next (s.modWin vf win fun x => { x with closing := true })
  else service vf (fun s =>
    if 1023 ≤ win ∨ (s.win vf win).kind = 0 then refuse s 1
    else (s.setWin vf win Win.none, 0, [])) s

/-- R472: completion records of a window whose landing was not acknowledged, in the order of their SEQ. -/
def repost (s : State) (vf win : Nat) : State :=
  let due := s.launches.filter fun e => e.2.live && e.2.cen && e.2.recorded && !e.2.acked && e.2.vf == vf && e.2.cwin == win
  let seqs := byNumber (due.map fun e => e.2.postK)
  (seqs.flatMap fun k => due.filter fun e => e.2.postK == k).foldl (fun s e => sendRecord s e.1 e.2.postK) s

/-- WIN_QP (R472). -/
def execWinQp (vf win qpn : Nat) (s : State) : Host.Outcome State Fault Refusal :=
  service vf (fun s =>
    if !(decide (win < 1023) && (s.win vf win).kind != 0 && ownQp s vf qpn) then refuse s 1
    else
      let s := s.modWin vf win fun x => { x with w0 := setBits x.w0 16 24 qpn }
      (repost s vf win, 0, [])) s

/-! ### ATTEST (R360) -/

/-- Sixty-four bytes of a digest. -/
def digest64 (bs : List Byte) : List Byte := let d := Config.sha512 bs; (List.range 64).map fun i => d.getD i 0

/-- R360: the report, for a requester in a partition, or the operator. Where no image was verified (R474) its
version is free. -/
def attestReport (s : State) (who : Option (Nat × Nat)) (nonce : BitVec 256) : List Byte :=
  let image := s.image.getD { Image.none with version := (Config.freeWord s.draws).toNat }
  let body :=
    toBytes 4 0x5A415452 ++ toBytes 2 1 ++ toBytes 2 0xA2 ++ toBytes 8 Config.serial ++ toBytes 8 s.now ++
    toBytes 4 image.version ++ toBytes 1 s.boot.mode ++
    (match who with
      | some (p, v) => toBytes 1 p ++ toBytes 1 v
      | none => toBytes 1 0xFF ++ toBytes 1 0xFF) ++ toBytes 1 0 ++ toBytes 32 nonce.toNat ++ digest64 image.bytes ++
    digest64 (s.fuses.flatMap fun f => toBytes 64 f.digest.toNat) ++
    digest64 ((List.range 65536).map (topoByte s)) ++
    (match who with
      | some (p, _) => digest64 ((List.range 65536).map (partByte s p))
      | none => List.replicate 64 0) ++ List.replicate 192 0
  let sig := Config.signature body
  body ++ (List.range 512).map fun i => sig.getD i 0

/-- ATTEST (R353, R360): the report lands in the steward's buffer. -/
def execAttest (vf addr : Nat) (nonce : BitVec 256) (s : State) : Host.Outcome State Fault Refusal :=
  service vf (fun s =>
    if addr % 64 ≠ 0 ∨ 2 ^ 57 ≤ addr then refuse s 1
    else match storeTo s (ctxAgent s (s.vf vf).steward) addr 1 false false (attestReport s (some ((s.vf vf).part, vf)) nonce) with
    | (s, .done) => (s, 0, [])
    | (s, .absent) | (s, .far _) | (s, .ev _) | (s, .pressure) => refuse s 1) s

/-! ### Rings, counters, debug and logs (R362, R364, R371, R373, R376, R411) -/

def isPow2 (n : Nat) : Bool := n != 0 && 2 ^ Nat.log2 n == n

/-- R362, R411: a ring as its request sets it, with its header; n = 0 turns it off. -/
def setRing (s : State) (ag : Agent) (old : Ring) (base n : Nat) : State × Ring :=
  if n = 0 then (if old.state = 0 then s else ringHeader s ag old 0x18 1 0, Ring.none)
  else
    match storeTo s ag base 1 false false (List.replicate 24 0 ++ toBytes 1 1 ++ List.replicate 39 0) with
    | (s, .done) => (s, { base := base, n := n, wr := 0, drop := 0, state := 1 })
    | (s, .absent) | (s, .far _) | (s, .ev _) | (s, .pressure) => (s, { base := base, n := n, wr := 0, drop := 0, state := 2 })

/-- The arguments of a ring: n a power of two within its bounds, in slot 0. -/
def ringOk (base n most : Nat) : Bool :=
  n == 0 || (isPow2 n && decide (64 ≤ n) && decide (n ≤ most) && base % 64 == 0 && decide (base + 64 + 64 * n ≤ 2 ^ 55))

/-- TRACE_SET (R362, R364). -/
def execTraceSet (vf base n enables k : Nat) (s : State) : Host.Outcome State Fault Refusal :=
  service vf (fun s =>
    if !(ringOk base n (2 ^ 20) && enables < 8 && (k == 0 || (10 ≤ k && k ≤ 24))) then refuse s 1
    else
      let (s, r) := setRing s (ctxAgent s (s.vf vf).steward) (s.vf vf).trace base n
      (s.modVf vf fun f => { f with trace := r, enables := if n = 0 then 0 else enables, sampleK := if n = 0 then 0 else k }, 0, [])) s

/-- FAULT_SET (R411). -/
def execFaultSet (vf base n : Nat) (s : State) : Host.Outcome State Fault Refusal :=
  service vf (fun s =>
    if !ringOk base n (2 ^ 16) then refuse s 1
    else
      let (s, r) := setRing s (ctxAgent s (s.vf vf).steward) (s.vf vf).fault base n
      (s.modVf vf fun f => { f with fault := r }, 0, [])) s

/-- R372: the listed events. -/
def listedEvents : List Nat :=
  [0x00, 0x01, 0x02, 0x03, 0x10, 0x11, 0x12, 0x13, 0x14, 0x15, 0x16, 0x20, 0x21, 0x30, 0x31, 0x32, 0x33, 0x34, 0x40, 0x41,
    0x42, 0x43, 0x44, 0x45, 0x50, 0x51, 0x52, 0x53, 0x54, 0x60]

/-- R371: the status of a CTR-SET. -/
def ctrStatus (vf ctr : Nat) (cfg : Dword) (operator : Bool) : Nat :=
  if 128 ≤ ctr ∨ listedEvents.contains (bitsOf cfg 0 8) = false ∨ (bitOf cfg 14 && !operator) = true then 1
  else if bitOf cfg 15 && bitsOf cfg 8 6 != vf && !operator then 2 else 0

def setCtr (s : State) (part ctr : Nat) (cfg : Dword) : State :=
  s.modPart part fun p => { p with ctrs := Tab.put p.ctrs ctr { cfg := cfg, val := 0 } }

/-- CTR_SET (R364, R371): the operator's request takes no reply. -/
def execCtrSet (vf ctr : Nat) (cfg : Dword) (operator : Bool) (s : State) : Host.Outcome State Fault Refusal :=
  if operator then
    .next (if serving s vf && ctrStatus vf ctr cfg true == 0 then setCtr s (s.vf vf).part ctr cfg else s)
  else service vf (fun s =>
    if ctrStatus vf ctr cfg false = 0 then (setCtr s (s.vf vf).part ctr cfg, 0, []) else refuse s (ctrStatus vf ctr cfg false)) s

/-- R373: an entry that may be enabled. -/
def dbgOk (entry : Nat) (w0 w1 : Dword) : Bool :=
  let kind := bitsOf w1 1 2
  let len := bitsOf w1 3 5
  if !bitOf w1 0 then true
  else if entry < 4 then kind == 0 && len == 0
  else kind != 0 && len ≤ 30 && w0.toNat % 2 ^ len == 0

/-- DBG_SET (R364, R373). -/
def execDbgSet (vf ctx entry : Nat) (w0 w1 : Dword) (s : State) : Host.Outcome State Fault Refusal :=
  service vf (fun s =>
    if !ownCtx s vf ctx then refuse s 1
    else if entry = 255 then (s.modCtx ctx fun x => { x with bken := bitOf w0 0 }, 0, [])
    else if decide (entry < 8) && dbgOk entry w0 w1 then
      (s.modCtx ctx fun x => { x with dbg := Tab.put x.dbg entry { addr := w0, w1 := w1 &&& 0xFF } }, 0, [])
    else refuse s 1) s

/-- LOG_SET (R364, R376). -/
def execLogSet (vf ctx mode base len : Nat) (s : State) : Host.Outcome State Fault Refusal :=
  service vf (fun s =>
    if !(ownCtx s vf ctx && mode ≤ 2 && (mode == 0 || (len % 64 == 0 && 128 ≤ len))) then refuse s 1
    else (s.modCtx ctx fun x => { x with logMode := mode, logBase := base, logLen := len }, 0, [])) s

/-! ### ABORT, SNAP_CLOSE, HANG_SET -/

/-- The launches an abort names. DEDUCED, unsafe (log 59). -/
def abortNames (s : State) (ctx lnum : Nat) : List Nat :=
  (liveLaunches s ctx).filter fun l => lnum == 0 || (s.launch l).lnum == lnum

/-- R411: a named block still waits for its record to enter the hold. -/
def abortWaits (s : State) (ctx lnum : Nat) : Bool :=
  (abortNames s ctx lnum).any fun l => s.blocks.any fun e => e.2.launch == l && awaitsRecord e.2

/-- R409: the record of an abort by request, and the abort. -/
def abortBy (s : State) (ctx lnum : Nat) : State :=
  let r : FaultRec := { wid := 0, lnum := lnum, ctx := ctx, pc := 0, core := 0xFFFF }
  raiseAbort s ctx r { code := 0x304, arg := 0, addr := 0, synd := 0 } (if lnum = 0 then none else some lnum)

/-- ABORT (R409, R411). -/
def execAbort (vf ctx lnum : Nat) (s : State) : Host.Outcome State Fault Refusal :=
  if serving s vf && ownCtx s vf ctx && abortWaits s ctx lnum then .next s
  else service vf (fun s =>
    if !ownCtx s vf ctx then refuse s 1
    else
      let n := (abortNames s ctx lnum).length
      if n = 0 ∧ lnum ≠ 0 then (s, 0, [0]) else (abortBy s ctx lnum, 0, [n])) s

/-- SNAP_CLOSE (R449, R450). -/
def execSnapClose (vf ctx level op : Nat) (s : State) : Host.Outcome State Fault Refusal :=
  service vf (fun s =>
    if !(ownCtx s vf ctx && decide (1 ≤ level) && decide (level ≤ (s.ctx ctx).levels.length) && op ≤ 1) then refuse s 1
    else if s.blocks.any fun e => e.2.st == .resident && !e.2.halted && (s.launch e.2.launch).ctx == ctx then refuse s 2
    else (wake ((if op = 0 then acceptLevels else rejectLevels) s ctx level).releaseHeld, 0, [])) s

/-- HANG_SET (R461). -/
def execHangSet (vf ctx h : Nat) (s : State) : Host.Outcome State Fault Refusal :=
  service vf (fun s =>
    if !(ownCtx s vf ctx && decide (24 ≤ h) && decide (h ≤ 40)) then refuse s 1
    else (s.modCtx ctx fun x => { x with hangExp := h }, 0, [2 ^ h])) s

/-! ### Reading a request (R288) -/

/-- A posted request as the event that performs it: the code, then one argument to a word.
DEDUCED, unsafe (log 73). -/
def readRequest (vf : Nat) (r : List Byte) : Instr :=
  let a (i : Nat) : Nat := ofBytes ((r.drop (8 * i)).take 8)
  let d (i : Nat) : Dword := .ofNat 64 (a i)
  match (r.getD 0 0).toNat with
  | 1 => .ctxNew vf (a 1) (a 2) (a 3) (a 4)
  | 2 => .ctxFree vf (a 1)
  | 3 => .asidNew vf (a 1) (a 2) (a 3)
  | 4 => .asidFree vf (a 1)
  | 5 => .vfSet vf (a 1) (a 2) (a 3)
  | 6 => .gateRsv vf (a 1) (.ofNat 48 (a 2))
  | 7 => .shadowSet vf (a 1) (a 2)
  | 8 => .fstoreSet vf (a 1) (a 2)
  | 9 => .place vf (a 1) (a 2) (a 3)
  | 10 => .qpNew vf (a 1) (a 2) (.ofNat 128 (a 3 + 2 ^ 64 * a 4)) (a 5) (a 6) (a 7)
  | 11 => .qpFree vf (a 1)
  | 12 => .winSet vf (a 1) (d 2) (d 3) (d 4) (d 5) (d 6) (d 7)
  | 13 => .winFree vf (a 1)
  | 14 => .attest vf (a 1) (.ofNat 256 (ofBytes ((r.drop 16).take 32)))
  | 15 => .traceSet vf (a 1) (a 2) (a 3) (a 4)
  | 16 => .ctrSet vf (a 1) (d 2) false
  | 17 => .dbgSet vf (a 1) (a 2) (d 3) (d 4)
  | 18 => .logSet vf (a 1) (a 2) (a 3) (a 4)
  | 19 => .faultSet vf (a 1) (a 2)
  | 20 => .abort vf (a 1) (a 2)
  | 21 => .snapClose vf (a 1) (a 2) (a 3)
  | 22 => .hangSet vf (a 1) (a 2)
  | 23 => .winQp vf (a 1) (a 2)
  | _ => .ctxFree vf (2 ^ 64)

/-- A request that waits for something else: WIN-FREE and ABORT. -/
def requestWaits (s : State) (vf : Nat) (r : List Byte) : Bool :=
  match readRequest vf r with
  | .winFree _ w => decide (w < 1023) && (s.win vf w).closing && !(winCmds s vf w).isEmpty
  | .abort _ c l => ownCtx s vf c && abortWaits s c l
  | _ => false

end Sys2Proof.Machine
end

