-- ==== Sys2Proof/Machine/Startup.lean ====
section
/-! DEFINITION. Start-up and the operator (R17 to R28, R278, R279, R355 to R360, R470, R473 to R475, R484): power,
boot, warm resets, hard partitions, and what a management port may ask. -/

namespace Sys2Proof.Machine

open Sys2Proof

/-! ### What a field reports (R17, R18, R23, R358) -/

def noReport : FieldReport :=
  { selfTest := false, cores := 0, clusters := 0, channels := 0, sect := 0, slices := 0, banks := 0, linkUp := 0, ethLanes := [] }

def noFuse : Fuse := { cores := 0, clusters := 0, digest := 0, key := [], minVersion := 0 }

def State.fuse (s : State) (f : Nat) : Fuse := s.fuses.getD f noFuse

/-- R17: the clusters of a fuse map with at least one enabled core. -/
def liveClusters (cores : BitVec 192) (clusters : BitVec 48) : BitVec 48 :=
  .ofNat 48 (((List.range 48).map fun c => if clusters.getLsbD c && cores.toNat / 2 ^ (4 * c) % 16 != 0 then 2 ^ c else 0).sum)

def clusterCores (clusters : BitVec 48) : BitVec 192 :=
  .ofNat 192 (((List.range 48).map fun c => if clusters.getLsbD c then 15 * 2 ^ (4 * c) else 0).sum)

/-- Runs of n units, one for each of the first units of a mask that are set. -/
def widen (w n : Nat) {m : Nat} (mask : BitVec m) : BitVec w :=
  (List.range m).foldl (fun v k => if mask.getLsbD k then v ||| bitRun w (n * k) n else v) 0

/-- R17: the cores that a field's fuse map enables. -/
def fusedCores (x : Fuse) : BitVec 192 := x.cores &&& clusterCores x.clusters

/-- R17: the fuses of a module as it is shipped. -/
def shipped (l : List Fuse) : Bool :=
  l.length == 48 && l.all (fun x => decide (176 ≤ countBits (fusedCores x))) &&
    decide (8832 ≤ (l.map fun x => countBits (fusedCores x)).sum)

/-- The cores a field starts with: enabled by its fuses and passed by its self-test. -/
def startCores (x : Fuse) (r : FieldReport) : BitVec 192 :=
  fusedCores x &&& r.cores &&& clusterCores r.clusters &&& widen 192 64 r.sect

/-- R358: passed self-test, an enabled core, all eight channels and a link up. -/
def reportHealthy (x : Fuse) (r : FieldReport) : Bool :=
  r.selfTest && startCores x r != 0 && r.channels == 255 && r.linkUp != 0

/-- R23: the STATE that a field's entry takes at its start; where several hold at once, 2 comes before 3, and 3
before 4. DEDUCED, unsafe (log 117). -/
def reportState (x : Fuse) (r : FieldReport) (y : Field) : Nat :=
  if y.cores = 0 then 2
  else if r.channels = 0 then 3
  else if !r.selfTest || r.sect == 0 then 4
  else if y.cores = fusedCores x ∧ r.channels = 255 ∧ r.sect = 7 ∧ y.slices = .allOnes 24 ∧ y.banks = .allOnes 192 then 0 else 1

/-- A field as its fuses and its report show it. -/
def reportField (x : Fuse) (r : FieldReport) (f : Nat) : Field :=
  let cores := startCores x r
  let slices := r.slices &&& widen 24 8 r.sect
  let y : Field :=
    { state := 0, cores := cores, clusters := liveClusters cores (x.clusters &&& r.clusters)
      linkUp := r.linkUp &&& .ofNat 4 (linkPres f), linkFailed := 0, chan := r.channels, sect := r.sect, slices := slices
      banks := r.banks &&& widen 192 8 slices, frames := 196608 * countBits r.channels, fcache := 128 * countBits r.channels
      retired := 0, throttled := false }
  { y with state := reportState x r y }

/-! ### Verifying Tolquel (R356) -/

/-- R356: a field's boot ROM accepts an image. -/
def slotOk (x : Fuse) (img : Image) : Bool :=
  Config.sha512 img.key == x.key && img.signed == Config.sha512 img.bytes && decide (x.minVersion ≤ img.version)

/-- R356: the slot a field loads, 0 for A and 1 for B, by IMGSEL. -/
def bootSlot (s : State) (f : Nat) : Option Nat :=
  let x := s.fuse f
  let a := if slotOk x s.imageA then some 0 else none
  let b := if slotOk x s.imageB then some 1 else none
  if s.boot.imgsel = 1 then b.orElse fun _ => a else a.orElse fun _ => b

/-! ### A start (R355, R473, R475) -/

/-- What a power cycle keeps: the flash, the fuses, and what the BMC holds. -/
def coldState (s : State) : State :=
  { State.reset with
    boot := s.boot, imageA := s.imageA, imageB := s.imageB, fuses := s.fuses, lockedOff := s.lockedOff
    cycle := s.cycle, draws := s.draws, inputs := s.inputs }

/-- R473, R475: a failed start leaves its cause; the module stays up for the next one, or is powered off. -/
def failStart (s : State) (cause cfield : Nat) : State :=
  let b := { s.boot with cause := cause, cfield := cfield }
  let s := { s with boot := b, running := false, starting := false }
  if b.mode = 1 ∧ 8 ≤ b.attempts then { coldState s with lockedOff := true } else s

/-- R355, step 1. -/
def stepOne (b : Boot) (time : Dword) : Boot :=
  let n := min 255 (b.attempts + 1)
  { b with attempts := n, tstart := time, mode := if 4 ≤ n then 1 else b.mode, steps := 0 }

/-- The STEPS of a start that has completed the first n steps. -/
def setSteps (s : State) (n : Nat) : State := { s with boot := { s.boot with steps := .ofNat 16 (2 ^ n - 1) } }

/-- Step 1 of a start (R355): `go` says that the next step begins. -/
def firstStep (s : State) (r : StartReport) : State × Bool :=
  let s := { s with powered := true, running := false, starting := true }
  if !r.magicOk then (failStart { s with boot := { Boot.fresh with attempts := 1, tstart := r.bmcTime } } 6 0xFF, false)
  else
    let s := { s with boot := { stepOne s.boot r.bmcTime with pkgid := (r.pkgid.getD s.boot.pkgid) % 256 } }
    if !r.powerOk then (failStart s 3 0xFF, false)
    else (s, r.stall != some 1)

/-- Fields that are fenced at a start (R356, R358). -/
def fenceAll (s : State) (fs : List Nat) : State :=
  if fs = [] then s else fillRoutes (fs.foldl (fun s f => (closeField s f).1) s)

/-- A port as its lanes have trained (R484); one that has failed stays failed. -/
def startPort (s : State) (r : StartReport) (n : Nat) : Port :=
  let f := portField n
  let full : BitVec 8 := if n < 48 then 255 else 1
  let lanes := ((r.fields.getD f noReport).ethLanes.getD (portIndex n) 0) &&& full
  let failed := (anyPort s n).failed
  { Port.none with
    mac := Config.portMac n, lanes := lanes, failed := failed
    up := lanes == full && !failed && (s.field f).state != 4 && (decide (48 ≤ n) || !s.minimal) }

/-- Every unit a partition's field entry names: guaranteed and margin. -/
def allClusters (p : PartField) : BitVec 64 := p.clus ||| p.clusm
def allBanks (p : PartField) : BitVec 192 := p.bank ||| p.bankm

def byteAt (n i : Nat) : Nat := n / 2 ^ (8 * i) % 256

/-- R279: a field entry that fits beside those of the other partitions. -/
def partFits (s : State) (part : Nat) (e : Nat × PartField) : Bool :=
  let f := s.field e.1
  let p := e.2
  let old := partField s part e.1
  let rest := s.parts.filter fun q => q.1 != part && q.2.live
  let others := rest.map fun q => Tab.get PartField.none q.2.fields e.1
  -- what a resize under way will add counts too
  let wanted := others ++ rest.filterMap fun q => (q.2.goal.bind fun g => g.find? fun x => x.1 == e.1).map (·.2)
  let sum (g : PartField → Nat) : Nat := (others.map g).sum + g p
  decide (e.1 < 48) && f.state < 3 && p.clus &&& p.clusm == 0 && p.bank &&& p.bankm == 0 &&
    (allClusters p).toNat &&& f.clusters.toNat == (allClusters p).toNat && (allBanks p) &&& f.banks == (allBanks p) &&
    wanted.all (fun q => (allClusters q) &&& (allClusters p) == 0 && (allBanks q) &&& (allBanks p) == 0 &&
      q.clush &&& (allClusters p) &&& ~~~old.clusm == 0 && q.bankh &&& (allBanks p) &&& ~~~old.bankm == 0) &&
    (List.range 8).all (fun i => sum (fun q => byteAt q.chsh.toNat i) ≤ 16) &&
    (List.range 3).all (fun i => sum (fun q => byteAt q.ethsh.toNat i) ≤ 16) && sum (·.fcsh) ≤ f.fcache

/-- An entry as Tolquel publishes it: everything of its own is held. -/
def heldNowField (p : PartField) : PartField :=
  { p with clush := (allClusters p), bankh := (allBanks p), fstore := 0, shadow := 0 }

/-- The fields of a partition by number, each once. -/
def enterFields (g : Nat → PartField → PartField) (l : List (Nat × PartField)) : Tab PartField :=
  l.foldl (fun t e => Tab.put t e.1 (g e.1 e.2)) []

/-- R355, R358: steps 3 and 4: the fields, the lead, the routes, the ports and the service partition (R278).
`dead` are fields that have failed in step 4. -/
def bringUp (s : State) (r : StartReport) (lead : Nat) (dead : List Nat) : State :=
  let fs := List.range 48
  let image := bootSlot s lead
  let s := { s with
    lead := lead, minimal := s.boot.mode == 1
    fields := fs.map fun f => (f, reportField (s.fuse f) (r.fields.getD f noReport) f) }
  -- a link is up when both its sides are
  let both (f : Nat) : Nat := ((List.range 4).map fun d => if usable s f d then 2 ^ d else 0).sum
  let s := fillRoutes { s with fields := s.fields.map fun e => (e.1, { e.2 with linkUp := .ofNat 4 (both e.1) }) }
  let out := fs.filter fun f => (s.field f).state == 4 || dead.contains f || (f != lead && bootSlot s f != image)
  let s := fenceAll s out
  let s := fenceAll s (fs.filter fun f => (s.field f).state < 2 && hopsOf s lead f == 0xFF)
  let s := { s with ports := fs.map fun n => (n, startPort s r n), mgmt := [(0, startPort s r 48), (1, startPort s r 49)] }
  { s with parts := Tab.put s.parts 0 { Tab.get Partition.none s.parts 0 with
      live := true, fields := enterFields (fun _ p => heldNowField p) (r.service.filter (partFits s 0)) } }

/-- R359: step 5. -/
def finishStart (s : State) (steps : BitVec 16) (image : Nat) : State :=
  let b := { s.boot with steps := steps, imgok := image, tdone := .ofNat 64 s.now }
  { s with
    running := true, starting := false, lockedOff := false
    boot := if b.mode = 0 then { b with attempts := 0, cause := 0, cfield := 0xFF } else b }

/-- One start from step 1 (R355, R356, R358, R473). DEDUCED, unsafe (log 90). -/
def start (s : State) (r : StartReport) : State :=
  match firstStep s r with
  | (s, false) => s
  | (s, true) =>
    let fs := List.range 48
    let none_ := fs.all fun f => (bootSlot s f).isNone
    if none_ ∧ s.boot.mode = 0 then failStart (setSteps s 1) 1 0
    else if r.stall = some 2 then setSteps s 1
    else if r.stall = some 3 then setSteps s 2
    else
      -- in minimal mode the lead may run without a slot that verifies
      let able := fs.filter fun f => reportHealthy (s.fuse f) (r.fields.getD f noReport) && (none_ || (bootSlot s f).isSome)
      let dead := able.takeWhile fun f => r.deadLeads.getLsbD f
      match able.drop dead.length with
      | [] => failStart (setSteps s 3) 2 0xFF
      | lead :: _ =>
        if !r.serviceOk then failStart (setSteps s 3) 5 lead
        else if r.stall = some 4 then setSteps s 3
        else
          let s := bringUp s r lead dead
          if r.stall = some 5 then setSteps s 4
          else
            let slot := bootSlot s lead
            let image := slot.map fun n => if n = 0 then s.imageA else s.imageB
            finishStart { s with topoGen := 2, topoTime := s.now, image := image } 0x1F (slot.getD 0xFF)

/-- POWER_ON (R355): a start from an unpowered module, or the next one after a failed start, which keeps what the
module still holds (R470). A module's fuses are those it is shipped with. -/
def execPowerOn (r : StartReport) (s : State) : Host.Outcome State Fault Refusal :=
  .next (if s.running || s.lockedOff || s.starting then s
    else
      let s := if s.powered then s else coldState s
      let fuses := if s.fuses = [] then r.fuses else s.fuses
      if shipped fuses then wake (start { s with fuses := fuses } r) else s)

/-- LEAD_REACH_TIMEOUT (R358): a field without a route to the lead is fenced. -/
def execLeadReachTimeout (field : Nat) (s : State) : Host.Outcome State Fault Refusal :=
  guarded (fun s => if s.running && decide (field < 48) && field != s.lead && (s.field field).state < 2 &&
      hopsOf s s.lead field == 0xFF then retireField s field else s) s

/-- START_TIMEOUT (R355, R473): a start that has not come to its end in 120 s. -/
def execStartTimeout (s : State) : Host.Outcome State Fault Refusal :=
  .next (if s.starting then failStart s 4 0xFF else s)

/-- POWER_LOSS (R28): no part of the wafer stays powered. -/
def execPowerLoss (s : State) : Host.Outcome State Fault Refusal := .next (coldState s)

/-! ### Warm reset (R470) -/

/-- R470: what a warm reset makes of a block on a core; one whose image is lost is handled as a drain-mode block
(R452). -/
def resetBlock (s : State) (b : Nat) : State :=
  let k := s.blk b
  if k.imageLost then failBlock s b 1
  else if k.halted then unplace (s.modBlk b fun k => { k with body := closeArmed k.body, ckpt := closeArmed k.ckpt }) b
  else if (Grp.blk b).rollback s then unplace (rollbackBlock s b) b
  else failBlock s b 1

/-- The caches of the wafer are written back and emptied. -/
def flushAll (s : State) : State :=
  let s := s.asids.foldl (fun s e => if e.2.live then invalidate s (ownerWriter s e.1) e.1 0 (2 ^ 55) else s) s
  { s with tlb := [], fab := { Fabric.none with route := s.fab.route, hops := s.fab.hops } }

/-- R196, R455: field store is lost: its pages are retired, and a partition may use its frames again. -/
def loseStore (s : State) : State :=
  let s := retireFrames s true ((s.frames.filter fun e => storeFrame e.1 && e.2.canon.isSome && !e.2.retired).map (·.1))
  { s with
    mem := dropCells s.mem fun a => decide (0x300000000000 ≤ a % 2 ^ 46)
    frames := s.frames.filter fun e => !storeFrame e.1 }

/-- R196, R469, R470: the running blocks, the activations and the field store end, and what no journal copy holds is
gone. DEDUCED, unsafe (log 91). -/
def endForReset (s : State) : State :=
  let s := (s.blocks.filter fun e => e.2.st == .resident).foldl (fun s e => resetBlock s e.1) s
  let s := (s.acts.filter fun e => e.2.live).foldl (fun s e => stopAct s e.1) s
  let s := loseStore (flushAll s)
  { s with cores := [], launches := s.launches.map fun e => (e.1, { e.2 with live := e.2.live && !e.2.journal.isEmpty }) }

/-- Data ports that carry traffic again, or none in minimal mode (R474, R484). -/
def modePorts (s : State) : State :=
  { s with ports := s.ports.map fun e => (e.1, { e.2 with
      up := !s.minimal && e.2.lanes == 255 && !e.2.failed && (s.field (portField e.1)).state != 4 }) }

/-- WARM_RESET (R355, R470): steps 1 and 5 without a power cycle, which keep DRAM and the journal. -/
def execWarmReset (r : StartReport) (s : State) : Host.Outcome State Fault Refusal :=
  guarded (fun s =>
    if !s.running then s
    else match firstStep (endForReset s) r with
    | (s, false) => s
    | (s, true) =>
      if r.stall = some 5 then setSteps s 1
      else
        let s := modePorts { s with minimal := s.boot.mode == 1 }
        wake (finishStart (newTopology s) 0x11 s.boot.imgok)) s

/-! ### Hard partitions (R278, R279, R281) -/

/-- R330: a partition holds a bank in every field of STATE 0 or 1. -/
def banksEverywhere (s : State) (fields : List (Nat × PartField)) : Bool :=
  (List.range 48).all fun f => decide (2 ≤ (s.field f).state) || fields.any fun e => e.1 == f && allBanks e.2 != 0

/-- PARTITION_CREATE (R278): in normal mode, within the units that are free. -/
def execPartitionCreate (part : Nat) (fields : List (Nat × PartField)) (lendTo borrow : Nat) (s : State) :
    Host.Outcome State Fault Refusal :=
  .next (if s.running && !s.minimal && decide (1 ≤ part) && decide (part ≤ 31) && !(s.part part).live &&
      banksEverywhere s fields && fields.all (partFits s part) then
    s.setPart part { Partition.none with
      live := true, lendTo := lendTo, borrow := borrow, gen := 2, fields := enterFields (fun _ p => heldNowField p) fields }
  else s)

/-- The clusters of a field that a partition's resize gives up. -/
def givenUp (s : State) (part f : Nat) : BitVec 64 := (partField s part f).clush &&& ~~~(openClusters s part f)

/-- The cores of a partition's resize that are given up. -/
def coresGivenUp (s : State) (part : Nat) : List Nat :=
  ((s.part part).fields.filter fun e => (givenUp s part e.1) != 0).flatMap fun e =>
    ((List.range 48).filter fun n => (givenUp s part e.1).getLsbD n).flatMap fun n => clusterCoresOf e.1 n

/-- R278, R281: a resize takes effect: the record changes, and units given up are scrubbed. -/
def finishResize (s : State) (part : Nat) : State :=
  match (s.part part).goal with
  | none => s
  | some g =>
    let old := s.part part
    let left := (coresGivenUp s part).map fun c => (coreField c, c % 192 / 4)
    let s := left.eraseDups.foldl (fun s e => clearCluster s e.1 e.2) s
    let s := (old.fields.filter fun e => !(g.any fun x => x.1 == e.1)).foldl (fun s e => trimStore s part e.1 0) s
    let s := s.modPart part fun p => { p with
      gen := p.gen + 2, goal := none, fields := enterFields (fun f q => resized (Tab.get PartField.none p.fields f) q) g }
    wake (old.fields.foldl (fun s e => rebank s part e.1 e.2.bankh.toNat (partField s part e.1).bankh.toNat) s)

/-- R278: nothing runs any more on what a resize gives up. -/
def resizeDue (s : State) (part : Nat) : Bool :=
  (s.part part).goal.isSome && (coresGivenUp s part).all fun c => (List.range 4).all fun i => !slotBusy s c i

/-- What a resize may not take away: units lent, pools and field store in use, and every bank of a field. -/
def resizeKeeps (s : State) (part : Nat) (fields : List (Nat × PartField)) : Bool :=
  (s.part part).fields.all fun e =>
    let old := e.2
    let lentC := old.clusm &&& ~~~old.clush
    let lentB := old.bankm &&& ~~~old.bankh
    let far := (old.clush &&& ~~~(old.clus ||| old.clusm)) != 0 || (old.bankh &&& ~~~(old.bank ||| old.bankm)) != 0
    match fields.find? fun x => x.1 == e.1 with
    | some (_, new) => lentC &&& new.clusm == lentC && lentB &&& new.bankm == lentB && decide (2 * old.fstore ≤ new.fcsh) &&
        (decide (2 ≤ (s.field e.1).state) || (resized old new).bankh != 0)
    | none => lentC == 0 && lentB == 0 && !far && old.shadow == 0

/-- PARTITION_RESIZE (R278): blocks on units given up leave them first. DEDUCED, safe (log 118). -/
def execPartitionResize (part : Nat) (fields : List (Nat × PartField)) (s : State) : Host.Outcome State Fault Refusal :=
  guarded (fun s =>
    if s.running && !s.minimal && decide (1 ≤ part) && (s.part part).live && (s.part part).goal.isNone && banksEverywhere s fields &&
        fields.all (partFits s part) && resizeKeeps s part fields then
      let s := s.modPart part fun p => { p with goal := some fields }
      let cores := coresGivenUp s part
      let s := (blocksOnCores s cores).foldl evictTied s
      let s := (actsOnCores s cores).foldl (fun s a => s.modAct a fun k => { k with park := .save }) s
      if resizeDue s part then finishResize s part else s
    else s) s

/-- The margin units of other partitions that a partition holds in a field, by owner. -/
def borrowed (s : State) (part f : Nat) : List (Bool × Nat × Nat) :=
  let p := partField s part f
  let c := p.clush &&& ~~~(p.clus ||| p.clusm)
  let b := p.bankh &&& ~~~(p.bank ||| p.bankm)
  let owner (bank : Bool) (n : Nat) : Option (Bool × Nat × Nat) :=
    (s.parts.find? fun q => marginUnit (partField s q.1 f) bank n).map fun q => (bank, n, q.1)
  (if c = 0 then [] else ((List.range 64).filter c.getLsbD).filterMap (owner false)) ++
    if b = 0 then [] else ((List.range 192).filter b.getLsbD).filterMap (owner true)

/-- PARTITION_DESTROY (R278): a partition that no virtual function lies in and that has lent nothing; what it has
borrowed goes back, and its field store is gone. -/
def execPartitionDestroy (part : Nat) (s : State) : Host.Outcome State Fault Refusal :=
  guarded (fun s =>
    let lent := (s.part part).fields.any fun e => e.2.clusm &&& ~~~e.2.clush != 0 || e.2.bankm &&& ~~~e.2.bankh != 0
    if s.running && decide (1 ≤ part) && (s.part part).live && !lent && !(s.vfs.any fun e => e.2.live && e.2.part == part) then
      let s := (s.part part).fields.foldl (fun s e =>
        (borrowed s part e.1).foldl (fun s u => handUnit s e.1 u.1 u.2.1 part u.2.2) (trimStore s part e.1 0)) s
      wake { s with parts := Tab.erase s.parts part }
    else s) s

/-! ### The operator (R359, R360, R408, R474, R475) -/

/-- OPERATOR_CLEAR_ATTEMPTS (R359, R475): in minimal mode through Tolquel; on a module held off, through the
BMC. -/
def execOperatorClearAttempts (s : State) : Host.Outcome State Fault Refusal :=
  .next (if s.running then { s with boot := { s.boot with attempts := 0, mode := 0 } }
    else if s.lockedOff then { s with boot := { s.boot with attempts := 0 }, lockedOff := false }
    else s)

/-- IMAGE_WRITE (R474). DEDUCED, unsafe (log 94). -/
def execImageWrite (slot : Bool) (image : Image) (imgsel : Option Bool) (s : State) : Host.Outcome State Fault Refusal :=
  .next (if s.running && s.minimal then
    { s with
      imageA := if slot then s.imageA else image, imageB := if slot then image else s.imageB
      boot := { s.boot with imgsel := match imgsel with | some b => b.toNat | none => s.boot.imgsel } }
  else s)

/-- The links of a field, on both their sides. -/
def setLinks (s : State) (f : Nat) (up : BitVec 4) : State :=
  [0, 1, 2, 3].foldl (fun s d => match neighbour f d with
    | some b =>
      let on := up.getLsbD d && (s.field b).state != 4 && !(s.field b).linkFailed.getLsbD (opposite d)
      let put (d : Nat) (x : Field) : Field :=
        { x with linkUp := if on then x.linkUp ||| bitRun 4 d 1 else x.linkUp &&& ~~~(bitRun 4 d 1) }
      (s.modField f (put d)).modField b (put (opposite d))
    | none => s) s

/-- FIELD_SELF_TEST (R474): the field's entry follows the result. -/
def execFieldSelfTest (field : Nat) (r : FieldReport) (s : State) : Host.Outcome State Fault Refusal :=
  guarded (fun s => if s.running && s.minimal && decide (field < 48) && field != s.lead then
    let old := s.field field
    let new := reportField (s.fuse field) r field
    if new.state = 4 then (if old.state = 4 then s else retireField s field)
    else
      let s := s.setField field { new with retired := old.retired, linkFailed := old.linkFailed, throttled := old.throttled }
      newTopology (fillRoutes (setLinks (recount s field) field new.linkUp))
  else s) s

/-- OPERATOR_ATTEST (R360). -/
def execOperatorAttest (nonce : BitVec 256) (s : State) : Host.Outcome State Fault Refusal :=
  .next (if s.running then sayOperator s (.attest (attestReport s none nonce)) else s)

/-- The context is a steward's. -/
def isSteward (s : State) (ctx : Nat) : Bool := (s.ctx ctx).live && (s.vf (s.ctx ctx).vf).live && (s.vf (s.ctx ctx).vf).steward == ctx

/-- OPERATOR_RESUME (R408): a steward's context that has stopped goes on. -/
def execOperatorResume (ctx : Nat) (s : State) : Host.Outcome State Fault Refusal :=
  guarded (fun s => if s.running && isSteward s ctx then wake (resumeTarget s ctx none) else s) s

/-- OPERATOR_ABORT (R408, R409). -/
def execOperatorAbort (ctx : Nat) (s : State) : Host.Outcome State Fault Refusal :=
  .next (if s.running && isSteward s ctx && !abortWaits s ctx 0 then wake (abortBy s ctx 0) else s)

end Sys2Proof.Machine
end

