-- ==== Sys2Proof/Machine/Failures.lean ====
section
/-! DEFINITION. Part failures (R344, R444, R451 to R456, R463 to R467, R483), the lending of margin units
(R282, R283, R459), and the placement engines (R337). -/

namespace Sys2Proof.Machine

open Sys2Proof

/-! ### Units (R12, R13, R465) -/

/-- The cores that a unit's failure takes, by wafer core number. -/
def unitCoresOf (u : UnitId) : List Nat :=
  match u.kind with
  | .core => [192 * u.field + 4 * u.num + u.k]
  | .cluster => (List.range 4).map fun k => 192 * u.field + 4 * u.num + k
  | .sector => (List.range 64).map fun k => 192 * u.field + 64 * u.num + k
  | .none | .slice | .link | .channel | .port | .line => []

/-- The clusters whose caches are lost with it, by wafer cluster number. -/
def unitClustersOf (u : UnitId) : List Nat :=
  match u.kind with
  | .cluster => [48 * u.field + u.num]
  | .sector => (List.range 16).map fun c => 48 * u.field + 16 * u.num + c
  | .none | .core | .slice | .link | .channel | .port | .line => []

/-- A unit that exists, in a field in use. -/
def unitThere (s : State) (u : UnitId) : Bool :=
  decide (u.field < 48) && (s.field u.field).state != 4 && match u.kind with
  | .core => decide (u.num < 48) && decide (u.k < 4) && (s.field u.field).cores.getLsbD (4 * u.num + u.k)
  | .cluster => (s.field u.field).clusters.getLsbD u.num
  | .sector => (s.field u.field).sect.getLsbD u.num
  | .slice => (s.field u.field).slices.getLsbD u.num
  | .channel => (s.field u.field).chan.getLsbD u.num
  | .none | .link | .port | .line => false

/-- The field without a unit's bits. -/
def Field.without (x : Field) (u : UnitId) : Field :=
  let lose (m : BitVec 192) : Field :=
    let cores := x.cores &&& ~~~m
    { x with cores := cores, clusters := liveClusters cores x.clusters }
  match u.kind with
  | .core => lose (bitRun 192 (4 * u.num + u.k) 1)
  | .cluster => lose (bitRun 192 (4 * u.num) 4)
  | .sector =>
    let y := lose (bitRun 192 (64 * u.num) 64)
    { y with
      sect := y.sect &&& ~~~(bitRun 3 u.num 1), slices := y.slices &&& ~~~(bitRun 24 (8 * u.num) 8)
      banks := y.banks &&& ~~~(bitRun 192 (64 * u.num) 64) }
  | .slice => { x with slices := x.slices &&& ~~~(bitRun 24 u.num 1), banks := x.banks &&& ~~~(bitRun 192 (8 * u.num) 8) }
  | .channel => { x with chan := x.chan &&& ~~~(bitRun 8 u.num 1), frames := x.frames - 196608, fcache := x.fcache - 128 }
  | .none | .link | .port | .line => x

/-- R23, R465: the STATE a field takes after a failure in it. -/
def Field.worse (x : Field) : Nat :=
  if x.state = 4 ∨ x.sect = 0 ∨ (x.chan = 0 ∧ x.state ≠ 3) then 4
  else if x.state = 3 then 3
  else if x.cores = 0 then 2 else max 1 x.state

/-! ### Caches and banks of a failed unit (R330, R467) -/

/-- A drain-mode context of the cluster's slots binds the ASID. -/
def drainBinds (s : State) (cl asid : Nat) : Bool :=
  (List.range 4).any fun i => (List.range 4).any fun j =>
    let k := s.cslot (4 * cl + i) j
    k.valid && k.drain && (List.range 4).any fun a => k.av a && k.asid a == asid

/-- A drain-mode context of some slot binds the ASID. -/
def drainAnywhere (s : State) (asid : Nat) : Bool :=
  s.cores.any fun c => c.2.slots.any fun e => e.2.valid && e.2.drain && (List.range 4).any fun a => e.2.av a && e.2.asid a == asid

/-- R467: the copies of failed clusters. The dirty bytes of rollback-mode blocks reach their homes; other
dirty lines are lost there. Counts the pages retired. -/
def loseCopies (s : State) (cls : List Nat) : List (Nat × CLine) → State × Nat
  | [] => (s, 0)
  | (key, x) :: r =>
    if !cls.contains (key / 2 ^ 64) then loseCopies s cls r
    else
      let loc := key % 2 ^ 64 * 128
      let core := key / 2 ^ 64 * 4
      if x.dirty ≠ 0 ∧ drainBinds s (key / 2 ^ 64) (loc / 2 ^ 55) = true then
        match lineLeaf s core loc with
        | some (pa, _) =>
          let (s, n) := loseCopies (retireFrame (s.dropCline core loc) (pa / 2 ^ 16) (fun i => i == pa / 128 % 512) false) cls r
          (s, n + 1)
        | none => loseCopies (s.dropCline core loc) cls r
      else loseCopies (flushLine s (ownerWriter s (loc / 2 ^ 55)) key) cls r

/-! ### The failure of a unit (R465, R467) -/

/-- R467: the lines that a failed slice held. Whether one was dirty there is the unit's, and open here: the bytes
of rollback-mode blocks come from their images, and those of the others are lost. Counts the pages retired. -/
def loseSlice (s : State) (f l : Nat) : List (Nat × Copy) → State × Nat
  | [] => (s, 0)
  | (key, _) :: r =>
    let loc := key % 2 ^ 64 * 128
    if key / 2 ^ 64 ≠ 24 * f + l then loseSlice s f l r
    else
      let s := keepL2 s (· != key)
      match (if fieldPoint s loc f = some l then lineLeaf s (192 * f) loc else none) with
      | none => loseSlice s f l r
      | some (pa, _) =>
        let dirty := pa / 2 ^ 46 == f && Config.choose s.draws % 2 == 1 && drainAnywhere s (loc / 2 ^ 55)
        let s := { s with draws := s.draws + 1 }
        if dirty then
          let (s, n) := loseSlice (retireFrame s (pa / 2 ^ 16) (fun i => i == pa / 128 % 512) false) f l r
          (s, n + 1)
        else loseSlice s f l r

/-- R456, R467: the directory entries of a failed slice are rebuilt: the copies they track are recalled. -/
def recallEntries (s : State) (f l : Nat) : State :=
  let at_ (loc : Nat) : Bool := fieldPoint s loc f == some l
  let home (s : State) (loc : Nat) : Nat := ((lineLeaf s (192 * f) loc).map fun x => x.1 / 2 ^ 46).getD f
  let s := (s.fab.fdir.filter fun e => e.1 / 2 ^ 64 == f && at_ (e.1 % 2 ^ 64 * 512)).foldl (fun s e =>
    dropEntry s f (e.1 % 2 ^ 64 * 512) (home s (e.1 % 2 ^ 64 * 512))) s
  let mine := s.fab.sdir.filter fun e => home s (e.1 * 512) == f && at_ (e.1 * 512)
  mine.foldl (fun s e =>
    let fs := (List.range 48).filter fun g => g != f && e.2.fsh.getLsbD g
    let s := fs.foldl (fun s g => dropEntry s g (e.1 * 512) f) s
    { s with fab := { s.fab with sdir := Tab.erase s.fab.sdir e.1 } }) s

/-- The L2 slices that a unit's failure takes. -/
def unitSlices (u : UnitId) : List Nat :=
  match u.kind with
  | .slice => [u.num]
  | .sector => (List.range 8).map fun i => 8 * u.num + i
  | .none | .core | .cluster | .link | .channel | .port | .line => []

def loseSlices (s : State) (f : Nat) : List Nat → State × Nat
  | [] => (s, 0)
  | l :: r =>
    let (s, n) := loseSlice s f l s.fab.l2
    let (s, m) := loseSlices (recallEntries s f l) f r
    (s, n + m)

/-- R467: blocks with a request outstanding to a home slice: a write held there. -/
def blocksAtSlices (s : State) (f : Nat) (ls : List Nat) : List Nat :=
  ((s.held.filter fun h => h.pa / 2 ^ 46 == f && (fieldPoint s h.loc f).any ls.contains).filterMap fun h =>
    h.blk.bind fun n => match nameGrp n with
      | .blk b | .slice b _ => some b
      | .act _ => none).eraseDups

/-- R467: fences a unit, updates the topology table, and handles what the failure reaches.
DESIGN CHOICE, unsafe (log 78). -/
def failUnit (s : State) (u : UnitId) : State :=
  let f := u.field
  let more := blocksAtSlices s f (unitSlices u)
  let s := breakRoutes s u
  let s := s.modField f fun x => let y := x.without u; { y with state := y.worse }
  let fenced := (s.field f).state == 4
  let (s, n1) := loseCopies s (unitClustersOf u) s.fab.clines
  let (s, n2) := loseSlices s f (unitSlices u)
  let (s, n3) := if fenced then fenceField s f
    else if u.kind = .channel then loseFrames (recount s f) f fun fr => frameChannel fr == u.num else (s, 0)
  let s := newTopology (keepBanks s f)
  let (s, nroll, nfail) := emptyCores s u (if fenced then fieldCores f else unitCoresOf u) more
  let s := if fenced then scrubField s f else (unitClustersOf u).foldl scrubCluster s
  wake (postEvent s u 0x403 nroll nfail (n1 + n2 + n3))

/-- HEARTBEAT_TIMEOUT (R465): a core, cluster or sector has missed three heartbeats. -/
def execHeartbeatTimeout (unit : UnitId) (s : State) : Host.Outcome State Fault Refusal :=
  guarded (fun s =>
    let watched : Bool := match unit.kind with
      | .core | .cluster | .sector => unitThere s unit
      | .none | .slice | .link | .channel | .port | .line => false
    if s.running && watched then failUnit s unit else s) s

/-- CROSSBAR_PORT_PARITY_ERROR (R465): one that retry does not clear fails the sector. -/
def execCrossbarPortParityError (field sector : Nat) (cleared : Bool) (s : State) : Host.Outcome State Fault Refusal :=
  guarded (fun s =>
    let u : UnitId := { field := field, kind := .sector, num := sector, k := 0 }
    if s.running && !cleared && unitThere s u then failUnit s u else s) s

/-- The link from a field, on both its sides. -/
def setLink (s : State) (f d : Nat) (g : Field → BitVec 4 → Field) : State :=
  match neighbour f d with
  | none => s
  | some b => (s.modField f fun x => g x (bitRun 4 d 1)).modField b fun x => g x (bitRun 4 (opposite d) 1)

/-- LINK_RETRAIN (R465, R467, R483): 0 the link is down to retrain, 1 it is up again, 2 its retraining has
failed three times. -/
def execLinkRetrain (field dir outcome : Nat) (s : State) : Host.Outcome State Fault Refusal :=
  let down (x : Field) (m : BitVec 4) : Field := { x with linkUp := x.linkUp &&& ~~~m }
  let there := s.running && decide (field < 48) && match neighbour field dir with
    | some b => !(s.field field).linkFailed.getLsbD dir && !(s.field b).linkFailed.getLsbD (opposite dir) && (s.field field).state != 4 && (s.field b).state != 4
    | none => false
  .next (if !there then s
    else if outcome = 0 then newTopology (fillRoutes (setLink s field dir down))
    else if outcome = 1 then newTopology (fillRoutes (setLink s field dir fun x m => { x with linkUp := x.linkUp ||| m }))
    else
      let u : UnitId := { field := field, kind := .link, num := dir, k := 0 }
      let fail (x : Field) (m : BitVec 4) : Field :=
        { down x m with linkFailed := x.linkFailed ||| m, state := if x.state < 2 then 1 else x.state }
      postEvent (newTopology (fillRoutes (setLink (breakRoutes s u) field dir fail))) u 0x403 0 0 0)

/-- MEMORY_CHANNEL_RETRAINING (R465, R467): the third failure fails the channel; its pages are retired with
all lines lost. -/
def execMemoryChannelRetraining (field ch failures : Nat) (s : State) : Host.Outcome State Fault Refusal :=
  guarded (fun s =>
    let u : UnitId := { field := field, kind := .channel, num := ch, k := 0 }
    if s.running && unitThere s u && decide (3 ≤ failures) then failUnit s u else s) s

/-- THERMAL_LIMIT (R29): the field lowers its clock-enable rate. -/
def execThermalLimit (field : Nat) (s : State) : Host.Outcome State Fault Refusal :=
  .next (if s.running && decide (field < 48) then s.modField field fun x => { x with throttled := true } else s)

/-- RETURN_WITHIN_LIMIT (R29). -/
def execReturnWithinLimit (field : Nat) (s : State) : Host.Outcome State Fault Refusal :=
  .next (if s.running && decide (field < 48) then s.modField field fun x => { x with throttled := false } else s)

/-! ### Uncorrectable errors (R444, R451 to R453) -/

def siteNum : EccSite → Nat
  | .regfile => 0 | .scratch => 1 | .l0 => 2 | .cluster => 3 | .l2 => 4 | .fieldCache => 5 | .dram => 6 | .shadow => 7 | .pageTable => 8

/-- The location of a line by the canonical address of its frame. -/
def canonLoc (s : State) (pa : Nat) : Option Nat :=
  ((Tab.get Frame.none s.frames (pa / 2 ^ 16)).canon).map fun c => c + pa % 2 ^ 16 / 128 * 128

/-- R437: the event of an uncorrectable error. -/
def eccEv (s : State) (site : EccSite) (pa : Nat) (retired : Bool) : Ev :=
  let line := pa / 128 * 128
  { code := 0x402, arg := 0, addr := line
    synd := siteNum site + 16 * (s.shadows.any fun e => e.2.pa == line).toNat + 32 * retired.toNat +
      256 * ((canonLoc s pa).getD 0 % 2 ^ 55) }

/-- R452: the consumer of an error, or the steward of the ASID's OWNER; how many blocks rolled back and
ended. -/
def consume (s : State) (name : Nat) (u : UnitId) (e : Ev) (loc : Option Nat) : State × Nat × Nat :=
  match nameGrp name with
  | .act a =>
    if (s.actv a).live then
      (touchAct s a { wid := 0, lnum := 0, ctx := (s.actv a).ctx, pc := 0, core := (s.actv a).core, unit := u } e, 0, 1)
    else (s, 0, 0)
  | .blk b | .slice b _ =>
    if (s.blk b).st = .resident then touchBlocks s u false e [b]
    else match loc with
    | some l =>
      let ctx := (s.asid (l / 2 ^ 55)).owner
      (s.hold (s.ctx ctx).vf (faultBytes { wid := 0, lnum := 0, ctx := ctx, pc := 0, core := 0xFFFF, unit := u } e s.now), 0, 0)
    | none => (s, 0, 0)

/-- An error that takes the page of a line with it: R452, R453, R468. -/
def loseLine (s : State) (site : EccSite) (pa name : Nat) (u : UnitId) : State :=
  let loc := canonLoc s pa
  let e := eccEv s site pa true
  let s := retireFrame s (pa / 2 ^ 16) (fun i => i == pa / 128 % 512) false
  let (s, r, n) := consume (newTopology s) name u e loc
  postEvent s u 0x402 r n 1

/-- The times of errors within the last millisecond, with the present one. DEDUCED, unsafe (log 80). -/
def recentErrs (now : Nat) (l : List Nat) : List Nat := (l.filter fun t => now - t ≤ 1000000) ++ [now]

/-- R451, sites 0 and 1: state of a core is lost; the fourth error in 1 ms fails the core (R465). -/
def loseCoreState (s : State) (site : EccSite) (name : Nat) : State :=
  let core := (nameGrp name).core s
  let u : UnitId := { field := coreField core, kind := .core, num := core % 192 / 4, k := core % 4 }
  let (s, r, n) := consume s name u { code := 0x402, arg := 0, addr := 0, synd := siteNum site } none
  let s := postEvent s u 0x402 r n 0
  let errs := recentErrs s.now (Tab.get Core.none s.cores core).errs
  let s := s.modCore core fun k => { k with errs := errs }
  if 4 ≤ errs.length && unitThere s u then failUnit s u else s

/-- The entries of an address space's tables that point to a table frame. -/
def parentsOf (s : State) (root fr : Nat) : List Nat :=
  let at_ (frame i : Nat) : Nat := frame * 2 ^ 16 + 8 * i
  ((tableEntries s root).filter fun x => leafKind x.2 == 1).flatMap fun x =>
    if leafFrame x.2 = fr then [at_ root x.1]
    else ((tableEntries s (leafFrame x.2)).filter fun y => leafKind y.2 == 1 && leafFrame y.2 == fr).map fun y =>
      at_ (leafFrame x.2) y.1

/-- R451, site 8: the 16 entries of a table line are lost, and the table moves to a fresh frame. -/
def loseTableLine (s : State) (field pa name : Nat) (u : UnitId) : State :=
  let line := pa / 128 * 128
  let fr := pa / 2 ^ 16
  let e := eccEv s .pageTable pa true
  let dead := toBytes 8 (0xF1D * 2 ^ 52)
  let s := s.store line ((List.range 16).flatMap fun _ => dead)
  let users := (s.asids.filter fun a => a.2.live && (a.2.root == fr || !(parentsOf s a.2.root fr).isEmpty)).map (·.1)
  let loc := users.head?.map (· * 2 ^ 55)
  let s := match takeFrame s field with
    | some (fr', s) =>
      let up := s.asids.flatMap fun a => if a.2.live then parentsOf s a.2.root fr else []
      let s := moveLines s (fr * 2 ^ 16) (fr' * 2 ^ 16) 65536
      let here (a : Nat) : Nat := if a / 2 ^ 16 = fr then fr' * 2 ^ 16 + a % 2 ^ 16 else a
      let s := up.eraseDups.foldl (fun s a => s.store (here a) (toBytes 8 (setBits (s.load64 (here a)) 16 36 fr').toNat)) s
      { s with
        asids := s.asids.map fun a => (a.1, if a.2.root = fr then { a.2 with root := fr' } else a.2)
        frames := Tab.put s.frames fr { Frame.none with retired := true, used := true } }
    | none => { s with mem := zeroLines s.mem fr fun _ => true }
  let s := users.foldl (fun s a => invalidate s (ownerWriter s a) a 0 (2 ^ 55)) s
  let s := newTopology (recount (s.modField field fun x => { x with retired := x.retired + 1 }) field)
  let (s, r, n) := consume s name u e loc
  postEvent s u 0x402 r n 1

/-- R444, R451: an error in a cached copy of a field's clusters: clean copies go; a dirty sector is lost. -/
def loseCopy (s : State) (site : EccSite) (field pa name : Nat) (u : UnitId) : State :=
  match canonLoc s pa with
  | none => postEvent s u 0x402 0 0 0
  | some loc =>
    let copies := s.fab.clines.filter fun e => e.1 % 2 ^ 64 == loc / 128 && e.1 / 2 ^ 64 / 48 == field
    let s := copies.foldl (fun s e => s.dropCline (e.1 / 2 ^ 64 * 4) loc) s
    let s := if copies.any fun e => e.2.dirty != 0 then loseLine s site pa name u else postEvent s u 0x402 0 0 0
    match (if site = .cluster then copies.head? else none) with
    | none => s
    | some c =>
      let cl := c.1 / 2 ^ 64
      let errs := recentErrs s.now (Tab.get [] s.fab.errs cl)
      let s := { s with fab := { s.fab with errs := Tab.put s.fab.errs cl errs } }
      let v : UnitId := { field := field, kind := .cluster, num := cl % 48, k := 0 }
      if 4 ≤ errs.length && unitThere s v then failUnit s v else s

/-- R465: the unit has no spare row left for a row with an uncorrectable error, which is the unit's, and open here:
it fails. -/
def lastRow (s : State) (u : UnitId) : State :=
  let none_ := Config.choose s.draws % 2
  let s := { s with draws := s.draws + 1 }
  if none_ = 1 ∧ unitThere s u = true then failUnit s u else s

/-- An error in a line of L2 or the field cache, dirty or not as it may be. -/
def loseCached (s : State) (site : EccSite) (pa name : Nat) (u : UnitId) : State :=
  let dirty := Config.choose s.draws % 2
  let s := { s with draws := s.draws + 1 }
  if dirty = 1 then loseLine s site pa name u else postEvent s u 0x402 0 0 0

/-- MEMORY_UNCORRECTABLE (R451, R465): `blk` names the consumer, a block that is not resident for none. Whether an
L2 or field-cache line was dirty, and whether a spare row is left, is the unit's, and open here. -/
def execMemoryUncorrectable (site : EccSite) (field pa blk : Nat) (s : State) : Host.Outcome State Fault Refusal :=
  guarded (fun s =>
    let u : UnitId := { field := field, kind := .channel, num := pa / 2 ^ 16 % 8, k := 0 }
    if !s.running || decide (48 ≤ field) then s
    else wake (match site with
    | .regfile | .scratch =>
      let here : Bool := match nameGrp blk with
        | .act a => (s.actv a).live && (s.actv a).entered
        | .blk b | .slice b _ => (s.blk b).st == .resident
      if here then loseCoreState s site blk else s
    | .l0 | .cluster => loseCopy s site field pa blk u
    | .l2 =>
      let at_ := ((canonLoc s pa).bind fun loc => fieldPoint s loc field).getD (Config.choose s.draws % 24)
      lastRow (loseCached s site pa blk u) { field := field, kind := .slice, num := at_, k := 0 }
    | .fieldCache => loseCached s site pa blk u
    | .dram => lastRow (loseLine s site pa blk u) u
    | .shadow =>
      let line := pa / 128 * 128
      let e := eccEv s site pa false
      let (s, r, n) := consume s blk u e (canonLoc s pa)
      let s := { s with shadows := s.shadows.map fun x => (x.1, if x.2.pa = line then { x.2 with bytes := List.replicate 128 0 } else x.2) }
      postEvent s u 0x402 r n 0
    | .pageTable => loseTableLine s field pa blk u)) s

/-! ### Margin units (R282, R283, R459) -/

/-- The unit is healthy. -/
def unitWell (s : State) (f : Nat) (bank : Bool) (n : Nat) : Bool :=
  decide (f < 48) && (s.field f).state != 4 && if bank then (s.field f).banks.getLsbD n else (s.field f).clusters.getLsbD n

/-- Nothing runs on a unit. -/
def unitIdle (s : State) (f : Nat) (bank : Bool) (n : Nat) : Bool :=
  (unitCores f bank n).all fun c => (List.range 4).all fun i => !slotBusy s c i

/-- A launch of a partition that is admitted and whose blocks find no place (R282). -/
def waitsForRoom (s : State) (part : Nat) : Bool :=
  s.launches.any fun e => e.2.live && !e.2.fence && e.2.state < 2 && (s.ctx e.2.ctx).part == part &&
    (e.2.state == 1 || (depsMet s e.2 && !fenced s e.2 && barrierFree s e.1)) && !(unplaced s e.1).isEmpty &&
    (dispatchTry s e.1).isNone

/-- R282: no block has been on a unit for 100 µs. -/
def idleLong (s : State) (f : Nat) (bank : Bool) (n : Nat) : Bool :=
  unitIdle s f bank n && (unitCores f bank n).all fun c => decide ((s.core c).busyAt + 100000 ≤ s.now)

/-- R282, R330: an idle margin unit of an owner may go to the partition it lends to; a bank only while the owner
holds another there. -/
def lendDue (s : State) (f : Nat) (bank : Bool) (n owner : Nat) : Bool :=
  let p := s.part owner
  let q := p.lendTo
  let x := partField s owner f
  s.running && !s.minimal && p.live && (s.part q).live && (s.part q).borrow == owner && q != owner && unitWell s f bank n &&
    marginUnit x bank n && holdsUnit x bank n && (!bank || decide (2 ≤ countBits x.bankh)) && p.goal.isNone &&
    idleLong s f bank n && waitsForRoom s q && !waitsForRoom s owner

/-- A lending by Tolquel (R282). -/
def lend (s : State) (f : Nat) (bank : Bool) (n owner : Nat) : State :=
  if lendDue s f bank n owner then wake (handUnit s f bank n owner (s.part owner).lendTo) else s

/-- MARGIN_LEND (R282). -/
def execMarginLend (field : Nat) (bank : Bool) (num owner : Nat) (s : State) : Host.Outcome State Fault Refusal :=
  guarded (fun s => lend s field bank num owner) s

/-- A margin unit of an owner that another partition holds. -/
def lentOut (s : State) (f : Nat) (bank : Bool) (n owner : Nat) : Bool :=
  let p := s.part owner
  s.running && !s.minimal && p.live && unitWell s f bank n && marginUnit (partField s owner f) bank n &&
    holdsUnit (partField s p.lendTo f) bank n && !holdsUnit (partField s owner f) bank n

/-- A revocation has begun and not ended. -/
def revoking (s : State) (f : Nat) (bank : Bool) (n owner : Nat) : Bool :=
  lentOut s f bank n owner && (Tab.find s.revokes (revokeKey f bank n)).isSome

/-- R282, R283: what a revocation does next: it begins when the owner has blocks without a place, and it ends when
nothing of the borrower's is left on the unit. -/
def revokeDue (s : State) (f : Nat) (bank : Bool) (n owner : Nat) : Bool :=
  lentOut s f bank n owner &&
    if (Tab.find s.revokes (revokeKey f bank n)).isSome then unitIdle s f bank n else waitsForRoom s owner

def revoke (s : State) (f : Nat) (bank : Bool) (n owner : Nat) : State :=
  if !revokeDue s f bank n owner then s
  else
    let cores := unitCores f bank n
    let s := if (Tab.find s.revokes (revokeKey f bank n)).isSome then s
      else
        let s := { s with revokes := Tab.put s.revokes (revokeKey f bank n) s.now }
        let s := (blocksOnCores s cores).foldl evictTied s
        (actsOnCores s cores).foldl (fun s a => s.modAct a fun k => { k with park := .save }) s
    wake (if unitIdle s f bank n then handUnit s f bank n (s.part owner).lendTo owner else s)

/-- REVOCATION (R283). -/
def execRevocation (field : Nat) (bank : Bool) (num owner : Nat) (s : State) : Host.Outcome State Fault Refusal :=
  guarded (fun s => revoke s field bank num owner) s

/-- R459: a block of the borrower on an overrun unit, with those tied to it (R43, R44).
DESIGN CHOICE, safe (log 83). -/
def overrunBlock (s : State) (b : Nat) : State × Nat × Nat :=
  let k := s.blk b
  if k.st ≠ .resident then (s, 0, 0)
  else if k.halted then (evictTied (saveBlock s b) b, 0, 0)
  else if (Grp.blk b).rollback s ∧ k.imageLost = false then (evictTied (saveBlock (rollbackBlock s b) b) b, 1, 0)
  else (failBlock s b 1, 0, 1)

def overrunBlocks (s : State) : List Nat → State × Nat × Nat
  | [] => (s, 0, 0)
  | b :: r =>
    let (s, x, y) := overrunBlock s b
    let (s, x', y') := overrunBlocks s r
    (s, x + x', y + y')

/-- R459: a revocation has not come to its end within 25 µs. -/
def overrun (s : State) (f : Nat) (bank : Bool) (n owner : Nat) : Bool :=
  revoking s f bank n owner && !unitIdle s f bank n &&
    decide (Tab.get 0 s.revokes (revokeKey f bank n) + 25000 < s.now)

/-- R459: the unit of an overrun revocation is fenced. -/
def fenceOverrun (s : State) (field : Nat) (bank : Bool) (num owner : Nat) : State :=
  if !overrun s field bank num owner then s
  else
    let q := (s.part owner).lendTo
    let u : UnitId :=
      if bank then { field := field, kind := .slice, num := num / 8, k := 0 } else { field := field, kind := .cluster, num := num, k := 0 }
    let e : Ev :=
      { code := 0x404, arg := 0, addr := 0, synd := (s.now - Tab.get 0 s.revokes (revokeKey field bank num)) / 1000 }
    let s := changeHeld s q field fun x => setHeld x bank num false
    let s := { s with revokes := Tab.erase s.revokes (revokeKey field bank num) }
    let s := s.modField field fun x =>
      let y := if bank then { x with banks := x.banks &&& ~~~(bitRun 192 num 1) } else x.without u
      { y with state := y.worse }
    let (s, nret) := loseCopies s (if bank then [] else (unitClustersOf u)) s.fab.clines
    let s := newTopology (keepBanks s field)
    let cores := unitCores field bank num
    let (s, nroll, nfail) := overrunBlocks s (blocksOnCores s cores)
    let s := (actsOnCores s cores).foldl (fun s a => stopAct s a) s
    let s := if bank then s else clearCluster s field num
    let s := postEvent s u 0x404 nroll nfail nret
    wake ((s.vfs.filter fun v => v.2.live && (v.2.part == owner || v.2.part == q)).foldl (fun s v =>
      s.hold v.1 (faultBytes { wid := 0, lnum := 0, ctx := v.2.steward, pc := 0, core := 0xFFFF, unit := u } e s.now)) s)

/-- REVOCATION_OVERRUN (R459). -/
def execRevocationOverrun (field : Nat) (bank : Bool) (num owner : Nat) (s : State) : Host.Outcome State Fault Refusal :=
  guarded (fun s => fenceOverrun s field bank num owner) s

/-! ### Placement (R337, R338) -/

/-- R337: a granule may move to a field. -/
def mayMove (s : State) (asid gran f : Nat) : Bool :=
  match Tab.find s.granules (granuleKey asid (gran * 2 ^ 21)) with
  | none => false
  | some g =>
    g.home != f && !g.pinned && (g.lastMove == 0 || decide (20000000 ≤ s.now - g.lastMove)) &&
      !granStore s asid gran && canTake s asid gran f

/-- The field that made most of an epoch's accesses to a granule. -/
def epochField (s : State) (key : Nat) : Option Nat :=
  let n (f : Nat) : Nat := Tab.get 0 s.fab.access (64 * key + f)
  let total := ((List.range 48).map n).sum
  (List.range 48).find? fun f => decide (8192 ≤ n f) && decide (total < 2 * n f)

/-- PLACEMENT_EPOCH (R337): the migrations of a field's granules begin, and its counts start afresh. -/
def execPlacementEpoch (field : Nat) (s : State) : Host.Outcome State Fault Refusal :=
  .next (if !s.running then s
    else
      let mine := s.granules.filter fun e => e.2.home == field
      let moves := mine.filterMap fun e =>
        (epochField s e.1).bind fun f =>
          if mayMove s (e.1 / 2 ^ 34) (e.1 % 2 ^ 34) f then some (Instr.migration (e.1 / 2 ^ 34) (e.1 % 2 ^ 34) f) else none
      let s := { s with inputs := s.inputs ++ moves.take 8 }
      { s with fab := { s.fab with access := s.fab.access.filter fun a => !mine.any fun e => e.1 == a.1 / 64 } })

/-- MIGRATION (R338): a granule moves, or nothing changes. -/
def execMigration (asid granule field : Nat) (s : State) : Host.Outcome State Fault Refusal :=
  guarded (fun s =>
    if s.running && mayMove s asid granule field then
      let home := (Tab.get (Granule.first field) s.granules (granuleKey asid (granule * 2 ^ 21))).home
      match migrate s asid granule field with
      | some s => wake (s.count (s.asid asid).part none home 0x44 1)
      | none => s
    else s) s

end Sys2Proof.Machine
end

