-- ==== Sys2Proof/Machine/Protocol.lean ====
section
/-! DEFINITION. The coherence protocol (R328 to R336, R456) as messages of clusters, field points and homes: each
has the effect that Coherence gives it. Bytes of lines of classes 1 and 2 stand at their homes in this model, so
these steps change which copies exist. -/

namespace Sys2Proof.Machine

open Sys2Proof

/-! ### Requests (R333) -/

/-- The home field of a line that a cluster asks for, over a route (R328) and in use (R483), with its place and its
leaf. -/
def lineHome (s : State) (cl loc : Nat) : Option (Nat × Nat × Dword) :=
  match lineLeaf s (4 * cl) loc with
  | some (pa, e) =>
    if leafKind e = 2 ∧ pa / 2 ^ 46 < 48 ∧ homeDown s pa = false ∧ hopsOf s (cl / 48) (pa / 2 ^ 46) ≠ 0xFF then
      some (pa / 2 ^ 46, pa / 128 * 128, e)
    else none
  | none => none

/-- A request of a cluster that is in use, for a line of a live address space. -/
def mayAsk (s : State) (cl asid : Nat) : Bool :=
  s.running && decide (cl < 2304) && (s.field (cl / 48)).state != 4 && (s.field (cl / 48)).clusters.getLsbD (cl % 48) &&
    (s.asid asid).live

/-- A request of a cluster for a line, with the home, the place of the line and its leaf. -/
def request (s : State) (cl asid line : Nat) (f : State → Nat → Nat → Nat → Dword → State) : State :=
  if !mayAsk s cl asid then s
  else match lineHome s cl (lineAt asid line) with
  | none => s
  | some (home, pa, e) => fitDirs (f s (lineAt asid line) home pa e) (cl / 48) (lineAt asid line) home

/-- READ_REQUEST (R333, R335): a miss of a cluster cache; a class 0 read takes the first copy found (R187). -/
def execReadRequest (cluster asid line : Nat) (s : State) : Host.Outcome State Fault Refusal :=
  .next (request s cluster asid line fun s loc home pa e =>
    if (s.copyAt cluster loc).st ≤ 2 then s
    else if leafCc e = 0 then
      let (s, d) := lineFrom s cluster loc pa
      (fillSlices s home loc cluster (some d)).setCopy cluster loc { newCopy s 0 with data := some d }
    else readMiss s cluster loc home)

/-- OWNERSHIP_REQUEST (R333): an owned write or a near atomic. -/
def execOwnershipRequest (cluster asid line : Nat) (s : State) : Host.Outcome State Fault Refusal :=
  .next (request s cluster asid line fun s loc home _ e =>
    if leafCc e = 0 then s else acquireLine s cluster loc home 0 none)

/-- Bytes of a sector that a mask names, as offsets in the line. -/
def maskedBytes (sector : Nat) (mask : BitVec 32) (data : List Byte) : List (Nat × Byte) :=
  ((List.range 32).filter fun i => mask.getLsbD i).map fun i => (32 * (sector % 4) + i, data.getD i 0)

/-- A write at the home by a cluster: `all` drops the writer's copy too. -/
def protocolWrite (s : State) (cl loc home pa : Nat) (e : Dword) (ups : List (Nat × Byte)) (all : Bool) : State :=
  let w := ownerWriter s (loc / 2 ^ 55)
  let s := if leafCc e = 0 ∧ all = true then (writeBack s w cl loc pa (leafMk e) true).1 else s
  let s := (homeWrite s w loc pa (leafMk e) ups).1
  if leafCc e ≠ 0 then writeAtHome s (cl / 48) loc home (if all then none else some cl)
  else ups.foldl (fun s u => patchCopies s cl (loc + u.1) [u.2]) s

/-- WRITE_REQUEST (R333): a write-through or self-invalidating write of a sector. -/
def execWriteRequest (cluster asid line : Nat) (mask : BitVec 32) (sector : Nat) (data : List Byte) (s : State) :
    Host.Outcome State Fault Refusal :=
  guarded (fun s => wake (request s cluster asid line fun s loc home pa e =>
    protocolWrite s cluster loc home pa e (maskedBytes sector mask data) false)) s

/-- UNCACHED_READ (R333): the owner writes back and drops to S; on class 0 the cluster's own dirty bytes reach the
home. -/
def execUncachedRead (cluster asid line : Nat) (s : State) : Host.Outcome State Fault Refusal :=
  guarded (fun s => wake (request s cluster asid line fun s loc home pa e =>
    if leafCc e = 0 then (writeBack s (ownerWriter s asid) cluster loc pa (leafMk e) false).1
    else readUncached s (cluster / 48) loc home)) s

/-- UNCACHED_WRITE (R333). -/
def execUncachedWrite (cluster asid line : Nat) (mask : BitVec 32) (sector : Nat) (data : List Byte) (s : State) :
    Host.Outcome State Fault Refusal :=
  guarded (fun s => wake (request s cluster asid line fun s loc home pa e =>
    protocolWrite s cluster loc home pa e (maskedBytes sector mask data) true)) s

/-- The operation of a far atomic, without one a compare-and-swap (R220, R222), and the sizes it has. -/
def farKind (aop : Option Aop) : AtomKind :=
  match aop with
  | some o => .aop o
  | none => .cas

def farSize (aop : Option Aop) (n : Nat) : Bool := n == 4 || n == 8 || (aop.isNone && n == 16)

/-- FAR_ATOMIC (R222, R333): performed by the home; `v` is its operand and the value it compares with. -/
def execFarAtomic (cluster asid addr : Nat) (aop : Option Aop) (size : BitVec 3) (v : BitVec 128 × BitVec 128) (s : State) :
    Host.Outcome State Fault Refusal :=
  let n := 2 ^ size.toNat
  guarded (fun s =>
    if !farSize aop n || addr % n != 0 then s
    else wake (request s cluster asid (addr / 128) fun s loc home pa e =>
      let s := if leafCc e = 0 then (writeBack s (ownerWriter s asid) cluster loc pa (leafMk e) true).1 else s
      match (farKind aop).new (s.bytes (pa + addr % 128) n) (toBytes n v.1.toNat) (toBytes n v.2.toNat) with
      | some new => protocolWrite s cluster loc home pa e (offsets addr new) true
      | none => if leafCc e = 0 then s else writeAtHome s (cluster / 48) loc home none)) s

/-! ### Evictions and notices (R333) -/

/-- R456, check 3: a write-back from a cluster that the entry does not record. The copies of the region are
recalled, its entries are built anew, the write-back, which nothing matches, is a lost home line, and blocks with
a write held in the region are hit. DEDUCED, unsafe (log 82). -/
def protocolError (s : State) (cl loc home pa : Nat) : State :=
  let u : UnitId := { field := cl / 48, kind := .line, num := 0, k := 0 }
  let s := (regionFields s loc).foldl (fun s f => dropEntry s f (loc / 512 * 512) home) s
  let s := { s with fab := { s.fab with sdir := s.fab.sdir.filter fun e => e.1 != loc / 512 } }
  let s := newTopology (retireFrame s (pa / 2 ^ 16) (fun i => i == pa / 128 % 512) false)
  let hit := ((s.held.filter fun h => h.loc / 512 == loc / 512).filterMap (·.blk)).eraseDups
  let e : Ev := { code := 0x406, arg := 0, addr := loc % 2 ^ 55, synd := 3 }
  let (s, r, n) := touchBlocks s u false e hit
  postEvent s u 0x406 r n 1

/-- A cluster's copy goes; of an M line its owner is cleared, and for an E line a notice is on its way. -/
def evictCopy (cluster asid line : Nat) (s : State) : State :=
  let loc := lineAt asid line
  let c := s.copyAt cluster loc
  if !mayAsk s cluster asid || decide (2 < c.st) then s
  else match lineHome s cluster loc with
  | none => s.dropCline (4 * cluster) loc
  | some (home, pa, e) =>
    wake (if leafCc e = 0 then flushLine s (ownerWriter s asid) (clineKey (4 * cluster) loc)
      else
        let t := s.dropCline (4 * cluster) loc
        if c.st ≠ 2 then t
        else if ownerOf s home loc = some cluster then clearOwner t home loc else protocolError t cluster loc home pa)

/-- EVICTION (R333). -/
def execEviction (cluster asid line : Nat) (s : State) : Host.Outcome State Fault Refusal := guarded (evictCopy cluster asid line) s

/-- R182, R191: the clusters' lines that sets with more lines than ways give up. -/
def evictionsDue (s : State) : List Nat :=
  let l := s.fab.clines.map fun e => (e.1, e.2.prio, e.2.used)
  if l.length ≤ Config.cacheWays 1 + 1 then [] else (l.filterMap fun e => victim (setWays s 1 e.1) 1 e.1 l).eraseDups

/-- The field point's OWN names a cluster that holds the line no longer: its clean-eviction notice is on its way. -/
def noticeDue (s : State) (cl loc : Nat) : Bool :=
  Tab.get 0 (s.fdirAt (cl / 48) loc).own (inRegion loc) == 64 + cl % 48 && decide (2 < (s.copyAt cl loc).st)

/-- A clean-eviction notice reaches the field point, which clears OWN; one that arrives late changes no entry
rewritten since. -/
def cleanNotice (s : State) (cl loc : Nat) : State :=
  if noticeDue s cl loc then
    let d := s.fdirAt (cl / 48) loc
    s.setFdir (cl / 48) loc { d with own := Tab.erase d.own (inRegion loc) }
  else s

/-- CLEAN_EVICTION_NOTICE (R333). -/
def execCleanEvictionNotice (cluster asid line : Nat) (s : State) : Host.Outcome State Fault Refusal :=
  .next (if s.running then cleanNotice s cluster (lineAt asid line) else s)

/-- The home's FOWN names a field whose point names no owner: its clean-release notice is on its way. -/
def releaseNoticeDue (s : State) (f loc : Nat) : Bool :=
  Tab.get 0 (s.sdirAt loc).fown (inRegion loc) == 64 + f && Tab.get 0 (s.fdirAt f loc).own (inRegion loc) == 0

/-- A clean-release notice reaches the home, which clears FOWN, and the field's GR. -/
def cleanRelease (s : State) (f loc : Nat) : State :=
  if releaseNoticeDue s f loc then
    let i := inRegion loc
    let d := s.fdirAt f loc
    let h := s.sdirAt loc
    (s.setFdir f loc { d with gr := d.gr &&& ~~~(bitRun 4 i 1) }).setSdir loc { h with fown := Tab.erase h.fown i }
  else s

/-- CLEAN_RELEASE_NOTICE (R333). -/
def execCleanReleaseNotice (field asid line : Nat) (s : State) : Host.Outcome State Fault Refusal :=
  .next (if s.running then cleanRelease s field (lineAt asid line) else s)

/-- RECALL (R333): the owner writes back, and keeps a read copy or none. A cluster without the line answers
"no copy". -/
def execRecall (cluster asid line : Nat) (keep : Bool) (s : State) : Host.Outcome State Fault Refusal :=
  let loc := lineAt asid line
  .next (if !s.running || decide (2 < (s.copyAt cluster loc).st) then s
    else match lineHome s cluster loc with
    | some (home, _, e) =>
      if leafCc e = 0 ∨ ownerOf s home loc ≠ some cluster then s else recallOwner s home loc keep
    | none => s)

/-- INVALIDATION (R333): the cluster's copy, its L0 copies with it, goes, and its acknowledgement clears the bits of
what holds no line of the region any more; class 0 lines receive none. -/
def execInvalidation (cluster asid line : Nat) (s : State) : Host.Outcome State Fault Refusal :=
  let loc := lineAt asid line
  let c := s.copyAt cluster loc
  .next (if !s.running || c.data.isSome || c.st == 1 || c.st == 2 then s
    else match lineHome s cluster loc with
    | some (home, _, _) => clearBits (s.dropCline (4 * cluster) loc) home loc (cluster / 48)
    | none => s.dropCline (4 * cluster) loc)

/-! ### Peers (R335) -/

/-- PEER_PROBE (R335): a hit, with its sharer notice accepted, or a normal read. -/
def execPeerProbe (cluster asid line : Nat) (s : State) : Host.Outcome State Fault Refusal :=
  .next (request s cluster asid line fun s loc home _ e =>
    let p := Tab.get PeerPred.none s.fab.peer (peerKey cluster loc)
    if leafCc e = 0 ∨ (s.copyAt cluster loc).st ≤ 2 ∨ p.valid = false ∨ p.conf < 2 then s
    else match probePeer s cluster loc home p with
    | (s, true) => s
    | (s, false) => readLineFor s cluster loc home true)

/-- SHARER_NOTICE (R335): the field point acknowledges the notice, or answers "retry" and the requester reads
normally. -/
def execSharerNotice (cluster supplier asid line : Nat) (s : State) : Host.Outcome State Fault Refusal :=
  .next (request s cluster asid line fun s loc home _ e =>
    if leafCc e = 0 ∨ (s.copyAt cluster loc).st ≤ 2 ∨ supplier / 48 ≠ cluster / 48 then s
    else if (s.copyAt supplier loc).st ≠ 0 then readLineFor s cluster loc home true
    else
      let s := if ownerOf s home loc = some supplier then clearOwner s home loc else s
      (addSharer (addSharer s home loc supplier) home loc cluster).setCopy cluster loc (newCopy s 0))

end Sys2Proof.Machine
end

