-- ==== Sys2Proof/Machine/Auto.lean ====
section
/-! DEFINITION. What the device does of itself: the passing of time (R354, R461), and the events that are
due in a state. -/

namespace Sys2Proof.Machine

open Sys2Proof

/-! ### Time -/

/-- R354: what one step of so many nanoseconds slews, at most one part in 2,000. -/
def slewStep (slew : Int) (ns : Nat) : Int :=
  if slew = 0 then 0 else max (-((ns / 2000 : Nat) : Int)) (min ((ns / 2000 : Nat) : Int) slew)

/-- R461: a wait that keeps the hang count as it is. -/
def longWait (t : Thread) : Bool :=
  match t.st with
  | .waiting (.win _ _ _ _ _) | .waiting (.nap _) | .waiting (.retry .heldLine) | .waiting (.retry (.heldAt _)) => true
  | .waiting _ | .running | .inAct _ | .gone => false

/-- R461: a block's hang count rises in a step in which `picked` issues, if anything does. -/
def hangRises (s : State) (picked : Option Nat) (b : Nat) (k : Block) : Bool :=
  k.st == .resident && !k.captured && !k.halted && !(s.field (coreField k.core)).throttled &&
    !(k.body.threads.any fun e => longWait e.2) && (picked == some b || (groupPicks s (.blk b)).isEmpty)

/-- R372: the events that only timing or placement decides: cycles, misses, bytes of DRAM and links, peer hits,
and atomics near and far. -/
def timingEvents : List Nat := [0x00, 0x03, 0x10, 0x11, 0x12, 0x13, 0x14, 0x15, 0x16, 0x20, 0x21]

/-- R370: what the enabled counters of such events gain in a step. -/
def tallied (cycle part : Nat) (p : Partition) : Partition :=
  { p with ctrs := p.ctrs.map fun e =>
      if bitOf e.2.cfg 15 && timingEvents.contains (bitsOf e.2.cfg 0 8) then
        (e.1, { e.2 with val := e.2.val + .ofNat 64 (Config.tally cycle (128 * part + e.1)) })
      else e }

/-- R282, R324: a core as a step finds it: when it was last in use, and starve counts only of slots with a pick. -/
def coreTick (s : State) (time c : Nat) (k : Core) : Core :=
  let used := s.blocks.any (fun e => e.2.st == .resident && e.2.core == c) || s.acts.any (fun e => e.2.live && e.2.core == c)
  let k := if used then { k with busyAt := time } else k
  if k.slots.all fun e => e.2.starve == 0 then k
  else
    let cands := coreCands s c
    { k with slots := k.slots.map fun e =>
        (e.1, if cands.any fun p => p.grp.slot s == e.1 then e.2 else { e.2 with starve := 0 }) }

/-- One step of the model's time, in which a group may issue. DEDUCED, safe (log 14). -/
def State.tick (s : State) (picked : Option Nat) : State :=
  let ns := Config.nsStep s.cycle
  let adj := slewStep s.slew ns
  let time := if s.slew = 0 then s.time + ns else s.time + ((ns : Int) + adj).toNat
  { s with
    cycle := s.cycle + 1
    clock := s.clock + .ofNat 64 (Config.cycleStep s.cycle)
    time := time
    cores := s.cores.map fun e => (e.1, coreTick s time e.1 e.2)
    slew := if s.slew = 0 then s.slew else s.slew - adj
    parts := s.parts.map fun e => (e.1, tallied s.cycle e.1 e.2)
    blocks := s.blocks.map fun e => (e.1, { e.2 with
      hang := if hangRises s picked e.1 e.2 then e.2.hang + Config.cycleStep s.cycle else e.2.hang
      runTime := if e.2.st == .resident && !e.2.captured && !e.2.halted then e.2.runTime + ns else e.2.runTime }) }

/-! ### The events due -/

/-- Thread numbers of a group. -/
def threadNums (s : State) (g : Grp) : List Nat :=
  match g with
  | .blk b | .slice b _ => (s.blk b).body.threads.map (·.1)
  | .act a => (s.actv a).threads.map (·.1)

def onlyIf (b : Bool) (i : Instr) : List Instr := if b then [i] else []

/-- The events of one thread. -/
def threadDue (s : State) (g : Grp) (n : Nat) : List Instr :=
  let c : Cx := ⟨g, n⟩
  onlyIf (overrunDue s c && (overrunMates s c).head? == some n) (.yieldOverrun g.name n) ++ onlyIf (vectoringDue s c) (.vectoring g.name n) ++
    onlyIf (timeoutDue s c).isSome (.waitwTimeout g.name n) ++ onlyIf (napDue s c) (.napExpiry g.name n) ++
    onlyIf (opDue s c).isSome (.waitingInstructionComplete g.name n) ++
    (s.thr c).owed.map fun o => .dataResponse g.name n o.reg

/-- What the next step of a page fetch comes to. -/
def fetchDue (s : State) (b : Nat) (x : Cmd) : List Instr :=
  match x.kind with
  | .fetchpg loc epa e =>
    match stepFetch s b x loc epa e with
    | (_, .ok true) | (_, .fault _) => [.fetchpgComplete b x.key]
    | (_, .ok false) => [.fetchNoframe b x.key]
    | (s', .wait) => onlyIf (s'.qps != s.qps) (.fetchpgComplete b x.key)
  | _ => []

/-- The events of one engine command. -/
def cmdDue (s : State) (b : Nat) (x : Cmd) : List Instr :=
  onlyIf (landingDue s b x) (.landing b x.tc x.key) ++
    (x.mc.filter fun e => shuttleTurn s x && destDue x e).map (fun e => .mcastLanding b x.tc x.key e.blk) ++
    onlyIf (shuttleDone s b x) (.shuttleCommandComplete b x.tc x.key) ++
    onlyIf (matrixDone x) (.matrixCommandComplete b x.tc x.key) ++
    onlyIf (windowDone s b x) (.windowCommandComplete b x.key) ++
    onlyIf (match x.kind with
      | .mma _ _ _ _ => mmaMayStart (s.blk b).body (s.launch (s.blk b).launch).det x
      | _ => false) (.mmaStart b x.tc x.key) ++
    fetchDue s b x

/-- The events of one block. -/
def blockDue (s : State) (b : Nat) (k : Block) : List Instr :=
  onlyIf (parkDue s b) (.blockPark b) ++ onlyIf (commitDue s b) (.checkpointCommit b) ++
    onlyIf (periodDue s b) (.checkpointPeriod b) ++ onlyIf (blockEndDue s b) (.blockEnd b) ++ onlyIf (hangDue s b) (.hang b) ++
    (k.body.skeins.filter fun e => deliveryDue s b e.1).map (fun e => .userInterruptDelivery b e.1) ++
    k.body.cmds.flatMap (cmdDue s b)

/-- The events of one launch. -/
def launchDue (s : State) (id : Nat) (l : Launch) : List Instr :=
  onlyIf (l.live && l.fence && l.state == 0 && depsMet s l) (.fenceMet id) ++
    onlyIf (dispatchTry s id).isSome (.dispatch id) ++ onlyIf (recordDue s id) (.completionRecord id) ++
    (if l.resident then
      ((List.range 48).filter (arrivalDue s id)).map (fun f => Instr.barrierArrival id f) ++
        ((List.range 48).filter (releaseDue s id)).map (fun f => Instr.barrierRelease id f)
     else [])

/-- The next packets of a ring-sum pass, or its cancellation. -/
def passDue (s : State) (p : Nat) (x : Pass) : List Instr :=
  if !x.live then onlyIf (x.stops.any (cancelDue s)) (.rsumPacket p 0)
  else ((List.range (ringStops x.desc)).filter fun i => !(packetsDue s x i).isEmpty).map fun i => .rsumPacket p i

/-- What Tolquel does for a virtual function: its next request, and its fault hold. -/
def vfDue (s : State) (v : Nat) (f : Vf) : List Instr :=
  onlyIf (pollDue s v) (.faultHoldPoll v) ++
    match f.requests with
    | [] => []
    | r :: _ => onlyIf (f.live && !requestWaits s v r) (readRequest v r)

/-- The events due: what the units of a running device may do next. DESIGN CHOICE, unsafe (log 77). -/
def dueEvents (s : State) : List Instr :=
  if !s.running || s.minimal then []
  else
    s.blocks.flatMap (fun e => if e.2.st == .resident then blockDue s e.1 e.2 else []) ++
    s.acts.flatMap (fun e => onlyIf (actParkDue s e.1) (.blockPark (Grp.act e.1).name) ++
      onlyIf (entrySlot s e.1).isSome (.activationEntry e.1)) ++
    (groups s).flatMap (fun g => (threadNums s g).flatMap (threadDue s g)) ++
    s.launches.flatMap (fun e => if e.2.live then launchDue s e.1 e.2 else []) ++
    s.passes.flatMap (fun e => passDue s e.1 e.2) ++
    s.cores.flatMap (fun e => onlyIf (quantumDue s e.1) (.quantumEnd e.1)) ++
    s.vfs.flatMap fun e => if e.2.live then vfDue s e.1 e.2 else []

/-! ### What comes next -/

/-- What may come next: an event, a pick, or work that the device began earlier and goes on with. -/
inductive Action where
  | event (i : Instr)
  | pick (p : Pick)
  /-- The service of a request of a remote party (R348). -/
  | serve (id : Nat)
  /-- A margin unit of an owner is lent, taken back, or fenced (R282, R283, R459). -/
  | margin (f : Nat) (bank : Bool) (n owner : Nat)
  /-- A resize of a partition takes effect (R278). -/
  | resize (part : Nat)
  /-- A clean-eviction notice of a cluster, or a clean-release notice of a field, arrives (R333). -/
  | notice (cl loc : Nat)
  | release (f loc : Nat)
  /-- A cluster replaces a line (R191). -/
  | replace (key : Nat)
  deriving DecidableEq, Repr

/-- The margin units of a partition's entry for a field with something due. -/
def marginsDue (s : State) (owner f : Nat) (p : PartField) : List Action :=
  let due (bank : Bool) (n : Nat) : Bool :=
    marginUnit p bank n && (lendDue s f bank n owner || revokeDue s f bank n owner || overrun s f bank n owner)
  (if p.clusm = 0 then [] else ((List.range 48).filter (due false)).map fun n => Action.margin f false n owner) ++
    if p.bankm = 0 then [] else ((List.range 192).filter (due true)).map fun n => Action.margin f true n owner

/-- The notices of an entry of a field's directory that are on their way. -/
def noticesDue (s : State) (key : Nat) (d : FDir) : List Action :=
  (d.own.map fun e => (48 * (key / 2 ^ 64) + (e.2 - 64), key % 2 ^ 64 * 512 + 128 * e.1)).filterMap fun x =>
    if noticeDue s x.1 x.2 then some (.notice x.1 x.2) else none

/-- The notices of fields to a home's directory that are on their way. -/
def releasesDue (s : State) (key : Nat) (d : SDir) : List Action :=
  (d.fown.map fun e => (e.2 - 64, key * 512 + 128 * e.1)).filterMap fun x =>
    if releaseNoticeDue s x.1 x.2 then some (.release x.1 x.2) else none

/-- What the device goes on with. -/
def worksDue (s : State) : List Action :=
  if !s.running || s.minimal then []
  else
    (servedDue s).map .serve ++
    s.parts.flatMap (fun e => e.2.fields.flatMap (fun p => marginsDue s e.1 p.1 p.2) ++ if resizeDue s e.1 then [.resize e.1] else []) ++
    s.fab.fdir.flatMap (fun e => noticesDue s e.1 e.2) ++ s.fab.sdir.flatMap (fun e => releasesDue s e.1 e.2) ++ (evictionsDue s).map .replace

def actions (s : State) : List Action :=
  (dueEvents s).map .event ++ worksDue s ++ if s.running then (corePicks s).map .pick else []

/-- A margin unit is lent, taken back, or fenced, as it is due. -/
def marginStep (s : State) (f : Nat) (bank : Bool) (n owner : Nat) : State :=
  if overrun s f bank n owner then fenceOverrun s f bank n owner
  else if revokeDue s f bank n owner then revoke s f bank n owner
  else lend s f bank n owner

/-- A step in which nothing comes next: waits are looked at again. -/
def idle (s : State) : State := wake (s.tick none)

/-- Begins a pick: its core's arbitration, and the fetch of its slot. DESIGN CHOICE, safe (log 7). -/
def startPick (s : State) (p : Pick) : State × Fetched :=
  let core := p.grp.core s
  let s' := if p.grp.isSlice then noteSlice s core p else noteServed s core (coreCands s core) p
  fetchPick { s'.tick (match p.grp with | .blk b | .slice b _ => some b | .act _ => none) with pick := p, svc := false, lag := Config.late s.cycle } p

end Sys2Proof.Machine
end

