-- ==== Sys2Proof/Machine/Cross.lean ====
section
/-! DEFINITION. The cross-lane instructions, each a rendezvous of the skein (R146 to R149), and the
predicate instructions (R150). -/

namespace Sys2Proof.Machine

open Sys2Proof

/-- R81: the g registers of a destination are empty until their values are written. -/
def emptyDst (t : Thread) (x : Opd × Nat) : Thread :=
  match x.1 with
  | .g n => { t with empty := (List.range x.2).foldl (fun e k => Tab.set false e (n.toNat + k) true) t.empty }
  | .s _ | .p _ | .q _ | .j _ | .a _ | .tc _ | .z => t

/-- An instruction that waits in a rendezvous with the values of its sources, its g destinations empty (R81,
R146). DEDUCED, safe (log 20). -/
def meetOp (i : Instr) (h : Hdr) (srcs : List Src) (dsts : List (Opd × Nat)) (r : State → Cx → List Dword → Rdv) : Op :=
  plainOp i h srcs dsts fun s c x =>
    (s.modThr c fun t => dsts.foldl emptyDst t, .wait (.rdv (r s c x)))

/-- SHFL (R147). -/
def execShfl (h : Hdr) (mode : ShflMode) (wid : BitVec 3) (pv : BitVec 4) (f : F0) (s : State) :
    Host.Outcome State Fault Refusal :=
  .next (issue (meetOp (.shfl h mode wid pv f) h (f0Srcs f 1 1 1) [(f.d, 1), (.p pv, 1)] fun _ _ x =>
    .shfl f.d mode wid pv (x.getD 0 0).lo (immZ f (x.getD 1 0).lo)) s)

/-- VOTE (R148). -/
def execVote (h : Hdr) (mode : VoteMode) (f : F0) (s : State) : Host.Outcome State Fault Refusal :=
  .next (issue (meetOp (.vote h mode f) h (f0Srcs f 1 1 1) [(f.d, 1)] fun s c _ =>
    .vote f.d mode (rdP s c f.a)) s)

/-- BALLOT (R148). -/
def execBallot (h : Hdr) (f : F0) (s : State) : Host.Outcome State Fault Refusal :=
  .next (issue (meetOp (.ballot h f) h (f0Srcs f 1 1 1) [(f.d, 2)] fun s c _ => .ballot f.d (rdP s c f.a)) s)

/-- MATCH (R148). -/
def execMatchL (h : Hdr) (w64 : Bool) (f : F0) (s : State) : Host.Outcome State Fault Refusal :=
  .next (issue (meetOp (.matchL h w64 f) h (f0Srcs f (if w64 then 2 else 1) 1 1) [(f.d, 2)] fun _ _ x =>
    .matchL f.d (x.getD 0 0)) s)

/-- REDUX (R149). -/
def execRedux (h : Hdr) (rop : Rop) (f : F0) (s : State) : Host.Outcome State Fault Refusal :=
  .next (issue (meetOp (.redux h rop f) h (f0Srcs f 1 1 1) [(f.d, 1)] fun _ _ x => .redux f.d rop (x.getD 0 0).lo) s)

/-- SCAN (R149). -/
def execScan (h : Hdr) (rop : Rop) (excl : Bool) (f : F0) (s : State) : Host.Outcome State Fault Refusal :=
  .next (issue (meetOp (.scan h rop excl f) h (f0Srcs f 1 1 1) [(f.d, 1)] fun _ _ x =>
    .scan f.d rop excl (x.getD 0 0).lo) s)

/-- A predicate of the predicates A and B. -/
def predOp (i : Instr) (h : Hdr) (f : F0) (v : Bool → Bool → Bool) : Op :=
  plainOp i h (f0Srcs f 1 1 1) [(f.d, 1)] fun s c _ => putFlag s c f.d (v (rdP s c f.a) (rdP s c f.b))

/-- PAND (R150). -/
def execPand (h : Hdr) (na nb : Bool) (f : F0) (s : State) : Host.Outcome State Fault Refusal :=
  .next (issue (predOp (.pand h na nb f) h f fun a b => (a != na) && (b != nb)) s)

/-- POR (R150). -/
def execPor (h : Hdr) (na nb : Bool) (f : F0) (s : State) : Host.Outcome State Fault Refusal :=
  .next (issue (predOp (.por h na nb f) h f fun a b => (a != na) || (b != nb)) s)

/-- PXOR (R150). -/
def execPxor (h : Hdr) (na nb : Bool) (f : F0) (s : State) : Host.Outcome State Fault Refusal :=
  .next (issue (predOp (.pxor h na nb f) h f fun a b => (a != na) != (b != nb)) s)

/-- PNOT (R150). -/
def execPnot (h : Hdr) (f : F0) (s : State) : Host.Outcome State Fault Refusal :=
  .next (issue (predOp (.pnot h f) h f fun a _ => !a) s)

/-- R150: the predicates that a PMOV.set names take the bits of a word. -/
def setMasked (p : BitVec 16) (mask : BitVec 16) (a : Word) : BitVec 16 :=
  (List.range 16).foldl (fun p i => if mask.getLsbD i then setPred p i (a.getLsbD i) else p) p

/-- R150: the predicate file as a word, bit 0 reading 1. -/
def predWord (p : BitVec 16) : Word := (p ||| 1).zeroExtend 32

/-- R83: the predicates a PMOV reads or writes, as `needs` numbers them: it waits while one is still owed.
DEDUCED, safe (log 107). -/
def pmovNeeds (dir : Bool) (mask : BitVec 16) : List Nat :=
  ((List.range 16).filter fun i => i ≠ 0 && (!dir || mask.getLsbD i)).map (128 + ·)

/-- PMOV (R150). -/
def execPmov (h : Hdr) (dir : Bool) (f : F0) (s : State) : Host.Outcome State Fault Refusal :=
  .next (issue { plainOp (.pmov h dir f) h (f0Srcs f 1 1 1) [(f.d, 1)] fun s c x =>
    if dir then (s.modThr c fun t => { t with p := setMasked t.p f.imm (x.getD 0 0).lo }, .seq)
    else put32 s c f.d (predWord (s.thr c).p) with waits := pmovNeeds dir f.imm } s)

end Sys2Proof.Machine
end

