-- ==== Sys2Proof/Machine/Float.lean ====
section
/-! DEFINITION. The floating-point, conversion, packed and special-function instructions (R155 to R172),
and PAIR (R78, R100). -/

namespace Sys2Proof.Machine

open Sys2Proof

/-- R112, R113: the random bits of element e of the instruction a thread is at. -/
def rndOf (s : State) (c : Cx) (e : Nat) : Nat :=
  stochBits (c.grp.launch s).seed (wid s c) (s.thr c).icount e

/-- R153: the "w" immediate, an FP32 value of a BF16 pattern. -/
def immW (f : F0) (b : Word) : Word := if f.ib then f.imm.zeroExtend 32 <<< 16 else b

/-- R153: the "h" immediate, one pattern in both halves. -/
def immH (f : F0) (b : Word) : Word := if f.ib then f.imm.zeroExtend 32 <<< 16 ||| f.imm.zeroExtend 32 else b

/-- A 32-bit result that may draw random bits. -/
def opRnd (i : Instr) (h : Hdr) (f : F0) (v : (Nat → Nat) → Word → Word → Word → Word) : Op :=
  plainOp i h (f0Srcs f 1 1 1) [(f.d, 1)] fun s c x =>
    put32 s c f.d (v (rndOf s c) ((x.getD 0 0).setWidth 32) ((x.getD 1 0).setWidth 32) ((x.getD 2 0).setWidth 32))

/-- A 64-bit result that may draw random bits. -/
def opRnd64 (i : Instr) (h : Hdr) (f : F0) (v : (Nat → Nat) → Dword → Dword → Dword → Dword) : Op :=
  plainOp i h (f0Srcs f 2 2 2) [(f.d, 2)] fun s c x =>
    put64 s c f.d (v (rndOf s c) (x.getD 0 0) (x.getD 1 0) (x.getD 2 0))

/-- FADD (R155). -/
def execFadd (h : Hdr) (r : Rnd) (f : F0) (s : State) : Host.Outcome State Fault Refusal :=
  .next (issue (opRnd (.fadd h r f) h f fun rnd a b _ => fAdd r rnd a (immW f b)) s)

/-- FSUB (R155). -/
def execFsub (h : Hdr) (r : Rnd) (f : F0) (s : State) : Host.Outcome State Fault Refusal :=
  .next (issue (opRnd (.fsub h r f) h f fun rnd a b _ => fSub r rnd a (immW f b)) s)

/-- FMUL (R155). -/
def execFmul (h : Hdr) (r : Rnd) (f : F0) (s : State) : Host.Outcome State Fault Refusal :=
  .next (issue (opRnd (.fmul h r f) h f fun rnd a b _ => fMul r rnd a (immW f b)) s)

/-- FFMA (R155). -/
def execFfma (h : Hdr) (r : Rnd) (f : F0) (s : State) : Host.Outcome State Fault Refusal :=
  .next (issue (opRnd (.ffma h r f) h f fun rnd a b c => fFma r rnd a (immW f b) c) s)

/-- FMIN (R156). -/
def execFmin (h : Hdr) (ftz : Bool) (f : F0) (s : State) : Host.Outcome State Fault Refusal :=
  .next (issue (op32 (.fmin h ftz f) h f fun a b _ => fMinMax false ftz a (immW f b)) s)

/-- FMAX (R156). -/
def execFmax (h : Hdr) (ftz : Bool) (f : F0) (s : State) : Host.Outcome State Fault Refusal :=
  .next (issue (op32 (.fmax h ftz f) h f fun a b _ => fMinMax true ftz a (immW f b)) s)

/-- FABS (R157). -/
def execFabs (h : Hdr) (ftz : Bool) (f : F0) (s : State) : Host.Outcome State Fault Refusal :=
  .next (issue (op32 (.fabs h ftz f) h f fun a _ _ => fAbs ftz a) s)

/-- FNEG (R157). -/
def execFneg (h : Hdr) (ftz : Bool) (f : F0) (s : State) : Host.Outcome State Fault Refusal :=
  .next (issue (op32 (.fneg h ftz f) h f fun a _ _ => fNeg ftz a) s)

/-- FCOPYS (R157). -/
def execFcopys (h : Hdr) (ftz : Bool) (f : F0) (s : State) : Host.Outcome State Fault Refusal :=
  .next (issue (op32 (.fcopys h ftz f) h f fun a b _ => fCopys ftz a (immW f b)) s)

/-- FSET (R158). -/
def execFset (h : Hdr) (cmp : FCmp) (ftz : Bool) (f : F0) (s : State) : Host.Outcome State Fault Refusal :=
  .next (issue (opFlag (.fset h cmp ftz f) h f 1 fun a b =>
    fcmp cmp (f32In ftz (a.setWidth 32)) (f32In ftz (immW f (b.setWidth 32)))) s)

/-- FCLASS (R159). -/
def execFclass (h : Hdr) (cf : ClassFmt) (f : F0) (s : State) : Host.Outcome State Fault Refusal :=
  .next (issue (plainOp (.fclass h cf f) h (f0Srcs f (if cf = .f64 then 2 else 1) 1 1) [(f.d, 1)] fun s c x =>
    let k := fclassOf (classFl cf) ((x.getD 0 0).toNat % 2 ^ (classFl cf).bits)
    if isP f.d then putFlag s c f.d (f.imm.getLsbD k) else put32 s c f.d (.ofNat 32 (2 ^ k))) s)

/-- FDIV (R160). -/
def execFdiv (h : Hdr) (r : Rnd) (f : F0) (s : State) : Host.Outcome State Fault Refusal :=
  .next (issue (plainOp (.fdiv h r f) h (f0Srcs f 1 1 1) [(f.d, 1)] fun s c x =>
    putLate s c f.d (fDiv r (rndOf s c) ((x.getD 0 0).setWidth 32) (immW f ((x.getD 1 0).setWidth 32)))) s)

/-- HADD2 (R161). -/
def execHadd2 (h : Hdr) (r : Rnd) (f : F0) (s : State) : Host.Outcome State Fault Refusal :=
  .next (issue (opRnd (.hadd2 h r f) h f fun rnd a b _ => hAdd fp16 r rnd a (immH f b)) s)

/-- HMUL2 (R161). -/
def execHmul2 (h : Hdr) (r : Rnd) (f : F0) (s : State) : Host.Outcome State Fault Refusal :=
  .next (issue (opRnd (.hmul2 h r f) h f fun rnd a b _ => hMul fp16 r rnd a (immH f b)) s)

/-- BADD2 (R161). -/
def execBadd2 (h : Hdr) (r : Rnd) (f : F0) (s : State) : Host.Outcome State Fault Refusal :=
  .next (issue (opRnd (.badd2 h r f) h f fun rnd a b _ => hAdd bf16 r rnd a (immH f b)) s)

/-- BMUL2 (R161). -/
def execBmul2 (h : Hdr) (r : Rnd) (f : F0) (s : State) : Host.Outcome State Fault Refusal :=
  .next (issue (opRnd (.bmul2 h r f) h f fun rnd a b _ => hMul bf16 r rnd a (immH f b)) s)

/-- HFMA2 (R161). -/
def execHfma2 (h : Hdr) (r : Rnd) (f : F0) (s : State) : Host.Outcome State Fault Refusal :=
  .next (issue (opRnd (.hfma2 h r f) h f fun rnd a b c => hFma fp16 r rnd a (immH f b) c) s)

/-- BFMA2 (R161). -/
def execBfma2 (h : Hdr) (r : Rnd) (f : F0) (s : State) : Host.Outcome State Fault Refusal :=
  .next (issue (opRnd (.bfma2 h r f) h f fun rnd a b c => hFma bf16 r rnd a (immH f b) c) s)

/-- DADD (R162). -/
def execDadd (h : Hdr) (r : Rnd) (f : F0) (s : State) : Host.Outcome State Fault Refusal :=
  .next (issue (opRnd64 (.dadd h r f) h f fun rnd a b _ => dAdd r rnd a b) s)

/-- DMUL (R162). -/
def execDmul (h : Hdr) (r : Rnd) (f : F0) (s : State) : Host.Outcome State Fault Refusal :=
  .next (issue (opRnd64 (.dmul h r f) h f fun rnd a b _ => dMul r rnd a b) s)

/-- DFMA (R162). -/
def execDfma (h : Hdr) (r : Rnd) (f : F0) (s : State) : Host.Outcome State Fault Refusal :=
  .next (issue (opRnd64 (.dfma h r f) h f fun rnd a b c => dFma r rnd a b c) s)

/-- DSET (R158, R162). -/
def execDset (h : Hdr) (cmp : FCmp) (f : F0) (s : State) : Host.Outcome State Fault Refusal :=
  .next (issue (opFlag (.dset h cmp f) h f 2 fun a b =>
    fcmp cmp (fp64.decode a.toNat) (fp64.decode b.toNat)) s)

/-- CVT (R164). -/
def execCvt (h : Hdr) (r : Rnd) (df sf : Elem) (f : F0) (s : State) : Host.Outcome State Fault Refusal :=
  .next (issue (plainOp (.cvt h r df sf f) h (f0Srcs f (if sf.wide then 2 else 1) 1 1)
    [(f.d, if df.wide then 2 else 1)] fun s c x =>
    let v := Sys2Proof.Machine.cvt r (rndOf s c) df sf (x.getD 0 0)
    if df.wide then put64 s c f.d v else put32 s c f.d v.lo) s)

/-- CVTPK (R165). -/
def execCvtpk (h : Hdr) (r : Rnd) (df src : Elem) (k : BitVec 3) (f : F0) (s : State) : Host.Outcome State Fault Refusal :=
  .next (issue (opRnd (.cvtpk h r df src k f) h f fun rnd a b c =>
    Sys2Proof.Machine.cvtpk r rnd df src k.toNat a b c) s)

/-- CVTUPK (R166). -/
def execCvtupk (h : Hdr) (df sf : Elem) (i : BitVec 4) (f : F0) (s : State) : Host.Outcome State Fault Refusal :=
  .next (issue (op32 (.cvtupk h df sf i f) h f fun a _ _ => Sys2Proof.Machine.cvtupk df sf i.toNat a) s)

/-- RNDI (R167). -/
def execRndi (h : Hdr) (r : Rnd) (f : F0) (s : State) : Host.Outcome State Fault Refusal :=
  .next (issue (opRnd (.rndi h r f) h f fun rnd a _ _ => Sys2Proof.Machine.rndi r rnd a) s)

/-- Q8ADD (R168). -/
def execQ8add (h : Hdr) (r : Rnd) (e5m2 : Bool) (f : F0) (s : State) : Host.Outcome State Fault Refusal :=
  .next (issue (opRnd (.q8add h r e5m2 f) h f fun rnd a b _ => q8 e5m2 r rnd a b (Val.add r.rm)) s)

/-- Q8MUL (R168). -/
def execQ8mul (h : Hdr) (r : Rnd) (e5m2 : Bool) (f : F0) (s : State) : Host.Outcome State Fault Refusal :=
  .next (issue (opRnd (.q8mul h r e5m2 f) h f fun rnd a b _ => q8 e5m2 r rnd a b Val.mul) s)

/-- Q8MIN (R168). -/
def execQ8min (h : Hdr) (r : Rnd) (e5m2 : Bool) (f : F0) (s : State) : Host.Outcome State Fault Refusal :=
  .next (issue (opRnd (.q8min h r e5m2 f) h f fun rnd a b _ => q8 e5m2 r rnd a b (Val.minmax false)) s)

/-- Q8MAX (R168). -/
def execQ8max (h : Hdr) (r : Rnd) (e5m2 : Bool) (f : F0) (s : State) : Host.Outcome State Fault Refusal :=
  .next (issue (opRnd (.q8max h r e5m2 f) h f fun rnd a b _ => q8 e5m2 r rnd a b (Val.minmax true)) s)

/-- IDP4 (R169). -/
def execIdp4 (h : Hdr) (ua ub : Bool) (f : F0) (s : State) : Host.Outcome State Fault Refusal :=
  .next (issue (op32 (.idp4 h ua ub f) h f fun a b c => Sys2Proof.Machine.idp4 ua ub a b c) s)

/-- FDP4 (R170). -/
def execFdp4 (h : Hdr) (r : Rnd) (a5 b5 : Bool) (f : F0) (s : State) : Host.Outcome State Fault Refusal :=
  .next (issue (opRnd (.fdp4 h r a5 b5 f) h f fun rnd a b c => fdp (q8Fl a5) (q8Fl b5) 4 r rnd a b c) s)

/-- FDP2 (R170). -/
def execFdp2 (h : Hdr) (r : Rnd) (f16 : Bool) (f : F0) (s : State) : Host.Outcome State Fault Refusal :=
  .next (issue (opRnd (.fdp2 h r f16 f) h f fun rnd a b c =>
    fdp (if f16 then fp16 else bf16) (if f16 then fp16 else bf16) 2 r rnd a b c) s)

/-- SCALEX (R171). -/
def execScalex (h : Hdr) (r : Rnd) (e8m2 : Bool) (i : BitVec 2) (f : F0) (s : State) : Host.Outcome State Fault Refusal :=
  .next (issue (opRnd (.scalex h r e8m2 i f) h f fun rnd a b _ =>
    Sys2Proof.Machine.scalex r rnd e8m2 i.toNat a b) s)

/-- RCP (R172). -/
def execRcp (h : Hdr) (f : F0) (s : State) : Host.Outcome State Fault Refusal :=
  .next (issue (opLate (.rcp h f) h f fun a _ => sfuResult .rcp a) s)

/-- RSQ (R172). -/
def execRsq (h : Hdr) (f : F0) (s : State) : Host.Outcome State Fault Refusal :=
  .next (issue (opLate (.rsq h f) h f fun a _ => sfuResult .rsq a) s)

/-- SQRT (R172). -/
def execSqrt (h : Hdr) (f : F0) (s : State) : Host.Outcome State Fault Refusal :=
  .next (issue (opLate (.sqrt h f) h f fun a _ => sfuResult .sqrt a) s)

/-- EXP2 (R172). -/
def execExp2 (h : Hdr) (f : F0) (s : State) : Host.Outcome State Fault Refusal :=
  .next (issue (opLate (.exp2 h f) h f fun a _ => sfuResult .exp2 a) s)

/-- LOG2 (R172). -/
def execLog2 (h : Hdr) (f : F0) (s : State) : Host.Outcome State Fault Refusal :=
  .next (issue (opLate (.log2 h f) h f fun a _ => sfuResult .log2 a) s)

/-- EXP (R172). -/
def execExp (h : Hdr) (f : F0) (s : State) : Host.Outcome State Fault Refusal :=
  .next (issue (opLate (.exp h f) h f fun a _ => sfuResult .exp a) s)

/-- LOG (R172). -/
def execLog (h : Hdr) (f : F0) (s : State) : Host.Outcome State Fault Refusal :=
  .next (issue (opLate (.log h f) h f fun a _ => sfuResult .log a) s)

/-- SINPI (R172). -/
def execSinpi (h : Hdr) (f : F0) (s : State) : Host.Outcome State Fault Refusal :=
  .next (issue (opLate (.sinpi h f) h f fun a _ => sfuResult .sinpi a) s)

/-- COSPI (R172). -/
def execCospi (h : Hdr) (f : F0) (s : State) : Host.Outcome State Fault Refusal :=
  .next (issue (opLate (.cospi h f) h f fun a _ => sfuResult .cospi a) s)

/-- TANH (R172). -/
def execTanh (h : Hdr) (f : F0) (s : State) : Host.Outcome State Fault Refusal :=
  .next (issue (opLate (.tanh h f) h f fun a _ => sfuResult .tanh a) s)

/-- SIGM (R172). -/
def execSigm (h : Hdr) (f : F0) (s : State) : Host.Outcome State Fault Refusal :=
  .next (issue (opLate (.sigm h f) h f fun a _ => sfuResult .sigm a) s)

/-- A sub-operation's write: late for a division or special function (R100). -/
def putSub (s : State) (c : Cx) (x : SubOp) (v : Word) : State :=
  if subLate x then wrLate s c x.d.toNat v else wr32 s c (.g x.d) v

/-- The sources of a sub-operation. -/
def subSrcs (x : SubOp) : List Src := x.sources.map fun n => ⟨.g (.ofNat 7 n), 1, false⟩

/-- The value of a sub-operation of a thread's registers. -/
def subOf (s : State) (c : Cx) (x : SubOp) (rnd : Nat → Nat) : Word :=
  subValue x rnd ((s.thr c).reg x.a.toNat) (match x.b with
    | some b => (s.thr c).reg b.toNat
    | none => 0) ((s.thr c).reg x.d.toNat)

/-- PAIR (R78): both sub-operations read their sources before either writes. -/
def execPair (h : Hdr) (s0 s1 : SubOp) (s : State) : Host.Outcome State Fault Refusal :=
  .next (issue (plainOp (.pair h s0 s1) h (subSrcs s0 ++ subSrcs s1) [(.g s0.d, 1), (.g s1.d, 1)] fun s c _ =>
    (putSub (putSub s c s0 (subOf s c s0 (rndOf s c))) c s1 (subOf s c s1 fun e => rndOf s c (e + 4096)), .seq)) s)

end Sys2Proof.Machine
end

