-- ==== Sys2Proof/Machine/Dispatch.lean ====
section
/-! DEFINITION. The dispatcher: one arm per constructor of `Instr`, one meaning each. -/

namespace Sys2Proof.Machine

open Sys2Proof

def exec (i : Instr) (s : State) : Host.Outcome State Fault Refusal :=
  match i with
  | .nop h => Sys2Proof.Machine.execNop h s
  | .pair h s0 s1 => Sys2Proof.Machine.execPair h s0 s1 s
  | .bra h f => Sys2Proof.Machine.execBra h f s
  | .brx h rel f => Sys2Proof.Machine.execBrx h rel f s
  | .call h f => Sys2Proof.Machine.execCall h f s
  | .callx h link f => Sys2Proof.Machine.execCallx h link f s
  | .ret h a => Sys2Proof.Machine.execRet h a s
  | .enrol h j => Sys2Proof.Machine.execEnrol h j s
  | .join h j => Sys2Proof.Machine.execJoin h j s
  | .yield h e n => Sys2Proof.Machine.execYield h e n s
  | .exit h e => Sys2Proof.Machine.execExit h e s
  | .bar h e => Sys2Proof.Machine.execBar h e s
  | .barg h e => Sys2Proof.Machine.execBarg h e s
  | .barw h e => Sys2Proof.Machine.execBarw h e s
  | .waittl h tc a e scope imm => Sys2Proof.Machine.execWaittl h tc a e scope imm s
  | .nap h a e imm => Sys2Proof.Machine.execNap h a e imm s
  | .retu h e => Sys2Proof.Machine.execRetu h e s
  | .umask h e v => Sys2Proof.Machine.execUmask h e v s
  | .sread h d e r => Sys2Proof.Machine.execSread h d e r s
  | .swrite h a e r => Sys2Proof.Machine.execSwrite h a e r s
  | .trap h e code => Sys2Proof.Machine.execTrap h e code s
  | .bkpt h e code => Sys2Proof.Machine.execBkpt h e code s
  | .iadd h f => Sys2Proof.Machine.execIadd h f s
  | .isub h f => Sys2Proof.Machine.execIsub h f s
  | .iaddc h co f => Sys2Proof.Machine.execIaddc h co f s
  | .isubb h co f => Sys2Proof.Machine.execIsubb h co f s
  | .imul h f => Sys2Proof.Machine.execImul h f s
  | .imulh h f => Sys2Proof.Machine.execImulh h f s
  | .imulhu h f => Sys2Proof.Machine.execImulhu h f s
  | .imad h f => Sys2Proof.Machine.execImad h f s
  | .iadd64 h f => Sys2Proof.Machine.execIadd64 h f s
  | .isub64 h f => Sys2Proof.Machine.execIsub64 h f s
  | .imul64 h f => Sys2Proof.Machine.execImul64 h f s
  | .idivu h f => Sys2Proof.Machine.execIdivu h f s
  | .idivs h f => Sys2Proof.Machine.execIdivs h f s
  | .iremu h f => Sys2Proof.Machine.execIremu h f s
  | .irems h f => Sys2Proof.Machine.execIrems h f s
  | .imin h f => Sys2Proof.Machine.execImin h f s
  | .imax h f => Sys2Proof.Machine.execImax h f s
  | .iminu h f => Sys2Proof.Machine.execIminu h f s
  | .imaxu h f => Sys2Proof.Machine.execImaxu h f s
  | .iabs h f => Sys2Proof.Machine.execIabs h f s
  | .ineg h f => Sys2Proof.Machine.execIneg h f s
  | .and h f => Sys2Proof.Machine.execAnd h f s
  | .or h f => Sys2Proof.Machine.execOr h f s
  | .xor h f => Sys2Proof.Machine.execXor h f s
  | .not h f => Sys2Proof.Machine.execNot h f s
  | .andn h f => Sys2Proof.Machine.execAndn h f s
  | .shl h wrap f => Sys2Proof.Machine.execShl h wrap f s
  | .shr h wrap f => Sys2Proof.Machine.execShr h wrap f s
  | .sar h wrap f => Sys2Proof.Machine.execSar h wrap f s
  | .shl64 h wrap f => Sys2Proof.Machine.execShl64 h wrap f s
  | .shr64 h wrap f => Sys2Proof.Machine.execShr64 h wrap f s
  | .sar64 h wrap f => Sys2Proof.Machine.execSar64 h wrap f s
  | .rotl h f => Sys2Proof.Machine.execRotl h f s
  | .funnel h left f => Sys2Proof.Machine.execFunnel h left f s
  | .popc h f => Sys2Proof.Machine.execPopc h f s
  | .clz h f => Sys2Proof.Machine.execClz h f s
  | .ctz h f => Sys2Proof.Machine.execCtz h f s
  | .brev h f => Sys2Proof.Machine.execBrev h f s
  | .bfe h sgn f => Sys2Proof.Machine.execBfe h sgn f s
  | .bfi h f => Sys2Proof.Machine.execBfi h f s
  | .bysel h f => Sys2Proof.Machine.execBysel h f s
  | .iset h cmp f => Sys2Proof.Machine.execIset h cmp f s
  | .iset64 h cmp f => Sys2Proof.Machine.execIset64 h cmp f s
  | .isel h f => Sys2Proof.Machine.execIsel h f s
  | .mov h w64 f => Sys2Proof.Machine.execMov h w64 f s
  | .movi h w64 d imm => Sys2Proof.Machine.execMovi h w64 d imm s
  | .movs h w64 f => Sys2Proof.Machine.execMovs h w64 f s
  | .lea h scale iu f => Sys2Proof.Machine.execLea h scale iu f s
  | .fadd h r f => Sys2Proof.Machine.execFadd h r f s
  | .fsub h r f => Sys2Proof.Machine.execFsub h r f s
  | .fmul h r f => Sys2Proof.Machine.execFmul h r f s
  | .ffma h r f => Sys2Proof.Machine.execFfma h r f s
  | .fmin h ftz f => Sys2Proof.Machine.execFmin h ftz f s
  | .fmax h ftz f => Sys2Proof.Machine.execFmax h ftz f s
  | .fabs h ftz f => Sys2Proof.Machine.execFabs h ftz f s
  | .fneg h ftz f => Sys2Proof.Machine.execFneg h ftz f s
  | .fcopys h ftz f => Sys2Proof.Machine.execFcopys h ftz f s
  | .fset h cmp ftz f => Sys2Proof.Machine.execFset h cmp ftz f s
  | .fclass h cf f => Sys2Proof.Machine.execFclass h cf f s
  | .fdiv h r f => Sys2Proof.Machine.execFdiv h r f s
  | .hadd2 h r f => Sys2Proof.Machine.execHadd2 h r f s
  | .hmul2 h r f => Sys2Proof.Machine.execHmul2 h r f s
  | .hfma2 h r f => Sys2Proof.Machine.execHfma2 h r f s
  | .badd2 h r f => Sys2Proof.Machine.execBadd2 h r f s
  | .bmul2 h r f => Sys2Proof.Machine.execBmul2 h r f s
  | .bfma2 h r f => Sys2Proof.Machine.execBfma2 h r f s
  | .dadd h r f => Sys2Proof.Machine.execDadd h r f s
  | .dmul h r f => Sys2Proof.Machine.execDmul h r f s
  | .dfma h r f => Sys2Proof.Machine.execDfma h r f s
  | .dset h cmp f => Sys2Proof.Machine.execDset h cmp f s
  | .cvt h r df sf f => Sys2Proof.Machine.execCvt h r df sf f s
  | .cvtpk h r df src k f => Sys2Proof.Machine.execCvtpk h r df src k f s
  | .cvtupk h df sf i_ f => Sys2Proof.Machine.execCvtupk h df sf i_ f s
  | .rndi h r f => Sys2Proof.Machine.execRndi h r f s
  | .q8add h r e5m2 f => Sys2Proof.Machine.execQ8add h r e5m2 f s
  | .q8mul h r e5m2 f => Sys2Proof.Machine.execQ8mul h r e5m2 f s
  | .q8min h r e5m2 f => Sys2Proof.Machine.execQ8min h r e5m2 f s
  | .q8max h r e5m2 f => Sys2Proof.Machine.execQ8max h r e5m2 f s
  | .idp4 h ua ub f => Sys2Proof.Machine.execIdp4 h ua ub f s
  | .fdp4 h r a5 b5 f => Sys2Proof.Machine.execFdp4 h r a5 b5 f s
  | .fdp2 h r f16 f => Sys2Proof.Machine.execFdp2 h r f16 f s
  | .scalex h r e8m2 i_ f => Sys2Proof.Machine.execScalex h r e8m2 i_ f s
  | .rcp h f => Sys2Proof.Machine.execRcp h f s
  | .rsq h f => Sys2Proof.Machine.execRsq h f s
  | .sqrt h f => Sys2Proof.Machine.execSqrt h f s
  | .exp2 h f => Sys2Proof.Machine.execExp2 h f s
  | .log2 h f => Sys2Proof.Machine.execLog2 h f s
  | .exp h f => Sys2Proof.Machine.execExp h f s
  | .log h f => Sys2Proof.Machine.execLog h f s
  | .sinpi h f => Sys2Proof.Machine.execSinpi h f s
  | .cospi h f => Sys2Proof.Machine.execCospi h f s
  | .tanh h f => Sys2Proof.Machine.execTanh h f s
  | .sigm h f => Sys2Proof.Machine.execSigm h f s
  | .shfl h mode wid pv f => Sys2Proof.Machine.execShfl h mode wid pv f s
  | .vote h mode f => Sys2Proof.Machine.execVote h mode f s
  | .ballot h f => Sys2Proof.Machine.execBallot h f s
  | .matchL h w64 f => Sys2Proof.Machine.execMatchL h w64 f s
  | .redux h rop f => Sys2Proof.Machine.execRedux h rop f s
  | .scan h rop excl f => Sys2Proof.Machine.execScan h rop excl f s
  | .pand h na nb f => Sys2Proof.Machine.execPand h na nb f s
  | .por h na nb f => Sys2Proof.Machine.execPor h na nb f s
  | .pxor h na nb f => Sys2Proof.Machine.execPxor h na nb f s
  | .pnot h f => Sys2Proof.Machine.execPnot h f s
  | .pmov h dir f => Sys2Proof.Machine.execPmov h dir f s
  | .ld h d f => Sys2Proof.Machine.execLd h d f s
  | .st h d f => Sys2Proof.Machine.execSt h d f s
  | .lds h d f => Sys2Proof.Machine.execLds h d f s
  | .sts h d f => Sys2Proof.Machine.execSts h d f s
  | .ldq h qn f => Sys2Proof.Machine.execLdq h qn f s
  | .pref h d f => Sys2Proof.Machine.execPref h d f s
  | .reside h d f => Sys2Proof.Machine.execReside h d f s
  | .fetchpg h d f => Sys2Proof.Machine.execFetchpg h d f s
  | .atom h aop f => Sys2Proof.Machine.execAtom h aop f s
  | .atoms h aop f => Sys2Proof.Machine.execAtoms h aop f s
  | .cas h f => Sys2Proof.Machine.execCas h f s
  | .cas128 h f => Sys2Proof.Machine.execCas128 h f s
  | .red h aop f => Sys2Proof.Machine.execRed h aop f s
  | .fence h d f => Sys2Proof.Machine.execFence h d f s
  | .qfence h d f => Sys2Proof.Machine.execQfence h d f s
  | .cinv h d f => Sys2Proof.Machine.execCinv h d f s
  | .cwb h d f => Sys2Proof.Machine.execCwb h d f s
  | .snap h scope add d a b => Sys2Proof.Machine.execSnap h scope add d a b s
  | .accept h d a imm => Sys2Proof.Machine.execAccept h d a imm s
  | .reject h d a imm => Sys2Proof.Machine.execReject h d a imm s
  | .snapq h d sel => Sys2Proof.Machine.execSnapq h d sel s
  | .put h sig ord d a b c w => Sys2Proof.Machine.execPut h sig ord d a b c w s
  | .get h ord d a b c w => Sys2Proof.Machine.execGet h ord d a b c w s
  | .waitw h sent d a b w => Sys2Proof.Machine.execWaitw h sent d a b w s
  | .wread h sent acq d w => Sys2Proof.Machine.execWread h sent acq d w s
  | .launch h d a w => Sys2Proof.Machine.execLaunch h d a w s
  | .launchw h d w => Sys2Proof.Machine.execLaunchw h d w s
  | .postc h d a w => Sys2Proof.Machine.execPostc h d a w s
  | .xdef h d a x => Sys2Proof.Machine.execXdef h d a x s
  | .xread h a x => Sys2Proof.Machine.execXread h a x s
  | .talloc h mode a b t => Sys2Proof.Machine.execTalloc h mode a b t s
  | .tfree h t => Sys2Proof.Machine.execTfree h t s
  | .tstat h d sel obj => Sys2Proof.Machine.execTstat h d sel obj s
  | .tload h nt mode d a c t x idx ctx => Sys2Proof.Machine.execTload h nt mode d a c t x idx ctx s
  | .tstore h nt keep d a t x ctx => Sys2Proof.Machine.execTstore h nt keep d a t x ctx s
  | .tloadb h nt d a c buf x ctx => Sys2Proof.Machine.execTloadb h nt d a c buf x ctx s
  | .tmcast h nt d a b c t x ctx => Sys2Proof.Machine.execTmcast h nt d a b c t x ctx s
  | .tbinit h a b n => Sys2Proof.Machine.execTbinit h a b n s
  | .arrive h d a n => Sys2Proof.Machine.execArrive h d a n s
  | .expect h arv d a b n => Sys2Proof.Machine.execExpect h arv d a b n s
  | .waitph h a b ph => Sys2Proof.Machine.execWaitph h a b ph s
  | .rsum h d a b src res => Sys2Proof.Machine.execRsum h d a b src res s
  | .mma h a imm => Sys2Proof.Machine.execMma h a imm s
  | .mzero h d acc ctx => Sys2Proof.Machine.execMzero h d acc ctx s
  | .mprom h d acc ctx => Sys2Proof.Machine.execMprom h d acc ctx s
  | .mlda h d sc t st buf ctx => Sys2Proof.Machine.execMlda h d sc t st buf ctx s
  | .mldb h d sc t st buf ctx => Sys2Proof.Machine.execMldb h d sc t st buf ctx s
  | .msta h d acc b rm sat sc swz t st ofmt ctx => Sys2Proof.Machine.execMsta h d acc b rm sat sc swz t st ofmt ctx s
  | .mread h d acc b i_ => Sys2Proof.Machine.execMread h d acc b i_ s
  | .mwrite h acc b c i_ => Sys2Proof.Machine.execMwrite h acc b c i_ s
  | .gate h n args res => Sys2Proof.Machine.execGate h n args res s
  | .retg h e => Sys2Proof.Machine.execRetg h e s
  | .cpset h d a b slot word => Sys2Proof.Machine.execCpset h d a b slot word s
  | .cpget h d b slot word => Sys2Proof.Machine.execCpget h d b slot word s
  | .tlbinv h all d a b c => Sys2Proof.Machine.execTlbinv h all d a b c s
  | .asidbind h ro unb d a b slot => Sys2Proof.Machine.execAsidbind h ro unb d a b slot s
  | .ckpt h d => Sys2Proof.Machine.execCkpt h d s
  | .croll h stay d a b => Sys2Proof.Machine.execCroll h stay d a b s
  | .halt h d a b => Sys2Proof.Machine.execHalt h d a b s
  | .resume h d a b => Sys2Proof.Machine.execResume h d a b s
  | .yieldOverrun blk thr => Sys2Proof.Machine.execYieldOverrun blk thr s
  | .checkpointPeriod blk => Sys2Proof.Machine.execCheckpointPeriod blk s
  | .blockPark blk => Sys2Proof.Machine.execBlockPark blk s
  | .checkpointCommit blk => Sys2Proof.Machine.execCheckpointCommit blk s
  | .quantumEnd core => Sys2Proof.Machine.execQuantumEnd core s
  | .userInterruptDelivery blk skein => Sys2Proof.Machine.execUserInterruptDelivery blk skein s
  | .vectoring blk thr => Sys2Proof.Machine.execVectoring blk thr s
  | .activationEntry act => Sys2Proof.Machine.execActivationEntry act s
  | .dispatch launch => Sys2Proof.Machine.execDispatch launch s
  | .fenceMet launch => Sys2Proof.Machine.execFenceMet launch s
  | .blockEnd blk => Sys2Proof.Machine.execBlockEnd blk s
  | .completionRecord launch => Sys2Proof.Machine.execCompletionRecord launch s
  | .landing blk tc num => Sys2Proof.Machine.execLanding blk tc num s
  | .mcastLanding blk tc num dst => Sys2Proof.Machine.execMcastLanding blk tc num dst s
  | .shuttleCommandComplete blk tc num => Sys2Proof.Machine.execShuttleCommandComplete blk tc num s
  | .mmaStart blk tc num => Sys2Proof.Machine.execMmaStart blk tc num s
  | .matrixCommandComplete blk tc num => Sys2Proof.Machine.execMatrixCommandComplete blk tc num s
  | .fetchpgComplete blk num => Sys2Proof.Machine.execFetchpgComplete blk num s
  | .fetchNoframe blk num => Sys2Proof.Machine.execFetchNoframe blk num s
  | .windowCommandComplete blk num => Sys2Proof.Machine.execWindowCommandComplete blk num s
  | .rsumPacket pass stop => Sys2Proof.Machine.execRsumPacket pass stop s
  | .barrierArrival launch field => Sys2Proof.Machine.execBarrierArrival launch field s
  | .barrierRelease launch field => Sys2Proof.Machine.execBarrierRelease launch field s
  | .dataResponse blk thr reg => Sys2Proof.Machine.execDataResponse blk thr reg s
  | .migration asid granule field => Sys2Proof.Machine.execMigration asid granule field s
  | .hang blk => Sys2Proof.Machine.execHang blk s
  | .faultHoldPoll vf => Sys2Proof.Machine.execFaultHoldPoll vf s
  | .waitwTimeout blk thr => Sys2Proof.Machine.execWaitwTimeout blk thr s
  | .napExpiry blk thr => Sys2Proof.Machine.execNapExpiry blk thr s
  | .waitingInstructionComplete blk thr => Sys2Proof.Machine.execWaitingInstructionComplete blk thr s
  | .revocation field bank num owner => Sys2Proof.Machine.execRevocation field bank num owner s
  | .ctxNew vf maxsc mode period root => Sys2Proof.Machine.execCtxNew vf maxsc mode period root s
  | .ctxFree vf ctx => Sys2Proof.Machine.execCtxFree vf ctx s
  | .asidNew vf owner root shared => Sys2Proof.Machine.execAsidNew vf owner root shared s
  | .asidFree vf asid => Sys2Proof.Machine.execAsidFree vf asid s
  | .vfSet vf weight quantum period => Sys2Proof.Machine.execVfSet vf weight quantum period s
  | .gateRsv vf entry fields => Sys2Proof.Machine.execGateRsv vf entry fields s
  | .shadowSet vf field frames => Sys2Proof.Machine.execShadowSet vf field frames s
  | .fstoreSet vf field mib => Sys2Proof.Machine.execFstoreSet vf field mib s
  | .place vf asid addr field => Sys2Proof.Machine.execPlace vf asid addr field s
  | .qpNew vf port prio ip peerQpn sendPsn recvPsn => Sys2Proof.Machine.execQpNew vf port prio ip peerQpn sendPsn recvPsn s
  | .qpFree vf qpn => Sys2Proof.Machine.execQpFree vf qpn s
  | .winSet vf win w0 w1 w2 w3 w4 w5 => Sys2Proof.Machine.execWinSet vf win w0 w1 w2 w3 w4 w5 s
  | .winFree vf win => Sys2Proof.Machine.execWinFree vf win s
  | .attest vf addr nonce => Sys2Proof.Machine.execAttest vf addr nonce s
  | .traceSet vf base n enables k => Sys2Proof.Machine.execTraceSet vf base n enables k s
  | .ctrSet vf ctr cfg operator => Sys2Proof.Machine.execCtrSet vf ctr cfg operator s
  | .dbgSet vf ctx entry w0 w1 => Sys2Proof.Machine.execDbgSet vf ctx entry w0 w1 s
  | .logSet vf ctx mode base len => Sys2Proof.Machine.execLogSet vf ctx mode base len s
  | .faultSet vf base n => Sys2Proof.Machine.execFaultSet vf base n s
  | .abort vf ctx lnum => Sys2Proof.Machine.execAbort vf ctx lnum s
  | .snapClose vf ctx level op => Sys2Proof.Machine.execSnapClose vf ctx level op s
  | .hangSet vf ctx h => Sys2Proof.Machine.execHangSet vf ctx h s
  | .winQp vf win qpn => Sys2Proof.Machine.execWinQp vf win qpn s
  | .ack qpn psn => Sys2Proof.Machine.execAck qpn psn s
  | .congestionNotification qpn => Sys2Proof.Machine.execCongestionNotification qpn s
  | .rdmaReadResponse qpn psn data => Sys2Proof.Machine.execRdmaReadResponse qpn psn data s
  | .rateRecovery qpn => Sys2Proof.Machine.execRateRecovery qpn s
  | .ptpMessage time => Sys2Proof.Machine.execPtpMessage time s
  | .powerOn r => Sys2Proof.Machine.execPowerOn r s
  | .leadReachTimeout field => Sys2Proof.Machine.execLeadReachTimeout field s
  | .startTimeout => Sys2Proof.Machine.execStartTimeout s
  | .warmReset r => Sys2Proof.Machine.execWarmReset r s
  | .partitionCreate part fields lendTo borrow => Sys2Proof.Machine.execPartitionCreate part fields lendTo borrow s
  | .partitionResize part fields => Sys2Proof.Machine.execPartitionResize part fields s
  | .partitionDestroy part => Sys2Proof.Machine.execPartitionDestroy part s
  | .operatorClearAttempts => Sys2Proof.Machine.execOperatorClearAttempts s
  | .imageWrite slot image imgsel => Sys2Proof.Machine.execImageWrite slot image imgsel s
  | .fieldSelfTest field r => Sys2Proof.Machine.execFieldSelfTest field r s
  | .operatorAttest nonce => Sys2Proof.Machine.execOperatorAttest nonce s
  | .operatorResume ctx => Sys2Proof.Machine.execOperatorResume ctx s
  | .operatorAbort ctx => Sys2Proof.Machine.execOperatorAbort ctx s
  | .powerLoss => Sys2Proof.Machine.execPowerLoss s
  | .returnWithinLimit field => Sys2Proof.Machine.execReturnWithinLimit field s
  | .memoryChannelRetraining field ch failures => Sys2Proof.Machine.execMemoryChannelRetraining field ch failures s
  | .crossbarPortParityError field sector cleared => Sys2Proof.Machine.execCrossbarPortParityError field sector cleared s
  | .rnrNak qpn => Sys2Proof.Machine.execRnrNak qpn s
  | .pauseFrame port prios pause => Sys2Proof.Machine.execPauseFrame port prios pause s
  | .cleanEvictionNotice cluster asid line => Sys2Proof.Machine.execCleanEvictionNotice cluster asid line s
  | .cleanReleaseNotice field asid line => Sys2Proof.Machine.execCleanReleaseNotice field asid line s
  | .sharerNotice cluster supplier asid line => Sys2Proof.Machine.execSharerNotice cluster supplier asid line s
  | .readRequest cluster asid line => Sys2Proof.Machine.execReadRequest cluster asid line s
  | .lineFetch core asid line first second => Sys2Proof.Machine.execLineFetch core asid line first second s
  | .ownershipRequest cluster asid line => Sys2Proof.Machine.execOwnershipRequest cluster asid line s
  | .writeRequest cluster asid line mask sector data => Sys2Proof.Machine.execWriteRequest cluster asid line mask sector data s
  | .uncachedRead cluster asid line => Sys2Proof.Machine.execUncachedRead cluster asid line s
  | .uncachedWrite cluster asid line mask sector data => Sys2Proof.Machine.execUncachedWrite cluster asid line mask sector data s
  | .farAtomic cluster asid addr aop size v => Sys2Proof.Machine.execFarAtomic cluster asid addr aop size v s
  | .eviction cluster asid line => Sys2Proof.Machine.execEviction cluster asid line s
  | .recall cluster asid line keep => Sys2Proof.Machine.execRecall cluster asid line keep s
  | .invalidation cluster asid line => Sys2Proof.Machine.execInvalidation cluster asid line s
  | .peerProbe cluster asid line => Sys2Proof.Machine.execPeerProbe cluster asid line s
  | .placementEpoch field => Sys2Proof.Machine.execPlacementEpoch field s
  | .marginLend field bank num owner => Sys2Proof.Machine.execMarginLend field bank num owner s
  | .revocationOverrun field bank num owner => Sys2Proof.Machine.execRevocationOverrun field bank num owner s
  | .pcSample core vf => Sys2Proof.Machine.execPcSample core vf s
  | .heartbeatTimeout unit => Sys2Proof.Machine.execHeartbeatTimeout unit s
  | .linkRetrain field dir outcome => Sys2Proof.Machine.execLinkRetrain field dir outcome s
  | .laneTraining port lanes ok => Sys2Proof.Machine.execLaneTraining port lanes ok s
  | .memoryUncorrectable site field pa blk => Sys2Proof.Machine.execMemoryUncorrectable site field pa blk s
  | .thermalLimit field => Sys2Proof.Machine.execThermalLimit field s
  | .rdmaWrite r => Sys2Proof.Machine.execRdmaWrite r s
  | .rdmaWriteWithImmediate r => Sys2Proof.Machine.execRdmaWriteWithImmediate r s
  | .rdmaRead r => Sys2Proof.Machine.execRdmaRead r s
  | .fetchAdd r => Sys2Proof.Machine.execFetchAdd r s
  | .cmpSwap r => Sys2Proof.Machine.execCmpSwap r s
  | .ackTimeout qpn => Sys2Proof.Machine.execAckTimeout qpn s

end Sys2Proof.Machine
end

