-- ==== Sys2Proof/Machine/Place.lean ====
section
/-! DEFINITION. A thread placed from outside at one slot of code: what a launch and its dispatch come to
for a block of one thread, with a page of code mapped at address 0. -/

namespace Sys2Proof.Machine

open Sys2Proof

/-- The line that holds a slot in place 0, with its TGT bit set and its parity (R61). -/
def lineFor (w : Nat) : Nat :=
  let body := w % 2 ^ 96 + 2 ^ 480
  body + 2 ^ 496 * (lineParity (.ofNat 512 body)).toNat

/-- Page tables for address 0 in frames 1 to 3 of field 0, and the line in frame 4 (R178, R179). -/
def placeMemory (m : Memory) (line : Nat) : Memory :=
  let put (m : Memory) (a x n : Nat) : Memory := Tab.setRun 0 m a (toBytes n x)
  let table (frame : Nat) : Nat := 1 + 2 ^ 16 * frame
  put (put (put (put m 0x10000 (table 2) 8) 0x20000 (table 3) 8) 0x30000 (2 + 4 + 8 + 16 + 256 + 2 ^ 16 * 4) 8)
    0x40000 line 64

/-- The packet of a launch of one block of one thread, in drain mode, with 128 registers, every tile and
every tensor identifier of its slot (R312). -/
def placePacket : List Dword :=
  [.ofNat 64 (2 ^ 6 + 128 * 2 ^ 32 + 64 * 2 ^ 48 + 256 * 2 ^ 55), .ofNat 64 (2 ^ 42), 0, 0, 0, 0, 0, 0,
    .ofNat 64 (2 ^ 48), 0, 0, 0, 0, 0, 0, 0]

/-- The slot registers: context 1 of virtual function 0 in partition 1, steward, drain mode, all of the
core's registers, scratchpad, tiles, tensor identifiers and engine contexts, checkpoint period 50 µs (R290). -/
def placeSlot : CSlot :=
  { CSlot.none with
    w0 := .ofNat 64 (1 + 2 ^ 16 + 2 ^ 17 + 3 * 2 ^ 19 + 2 ^ 21 + 50 * 2 ^ 32 + 2 ^ 48)
    w1 := .ofNat 64 (256 * 2 ^ 8 + (2 ^ 32 - 1) * 2 ^ 32)
    w2 := .ofNat 64 (2 ^ 16 - 1 + 64 * 2 ^ 22 + 256 * 2 ^ 40 + 255 * 2 ^ 56)
    w3 := 1 }

def placeWord (s : State) (w : Nat) : State :=
  { s with
    powered := true, running := true, starting := false, minimal := false, inputs := [], pick := Pick.none
    boot := { s.boot with mode := 0 }
    fields := [(0, { Field.none with state := 0, chan := .allOnes 8, cores := .allOnes 192, clusters := .allOnes 48 })]
    vfs := [(0, { Vf.none with live := true, part := 1, steward := 1, weight := 1, quantum := 1000, period := 50 })]
    parts := [(1, { Partition.none with live := true })]
    ctxs := [(1, { Ctx.none with live := true, part := 1, priv := 1, maxsc := 3, drain := true, ckper := 50, asids := [(0, 1)], hangExp := 32 })]
    asids := [(1, { AsidEnt.none with root := 1, live := true, part := 1, owner := 1 })]
    cores := [(0, { Core.none with slots := [(0, placeSlot)] })]
    launches := [(0, { Launch.none with live := true, pkt := placePacket, ctx := 1, lnum := 1, state := 1, placed := 1 })]
    blocks := [(0, { Block.none with
      st := .resident, regs := 128, body := { Body.none with threads := [(0, Thread.start 0)], skeins := [(0, Skein.start)] } })]
    acts := [], held := [], tlb := [], frames := [], svc := false, mem := placeMemory s.mem (lineFor w) }

end Sys2Proof.Machine
end

