-- ==== Sys2Proof/Machine/Step.lean ====
section
/-! DEFINITION. One step of the device: an input if one waits, else one of the due events and picks. -/

namespace Sys2Proof.Machine

open Sys2Proof

/-- What has begun goes on in a step of its own. -/
def work (f : State → State) (s : State) : Host.Outcome State Fault Refusal := guarded (fun s => wake (f s)) (s.tick none)

/-- The second slot of a co-issue group, in the cycle of the first (R64, R65). -/
def stepSecond (s : State) : Host.Outcome State Fault Refusal :=
  match fetchPick s s.pick with
  | (s', .instr i) => exec i s'
  | (s', .undefined _) | (s', .event _) | (s', .parity _) | (s', .service) => .next { s' with pick := { s'.pick with co := .single } }

/-- One step. DESIGN CHOICE, safe (log 8). DESIGN CHOICE, safe (log 10). -/
def step (s : State) : Host.Outcome State Fault Refusal :=
  if s.pick.co.isSecond then stepSecond s
  else match s.inputs with
  | i :: r => exec i { s.tick none with inputs := r }
  | [] =>
    match chooseOne s (actions s) with
    | none => .next (idle s)
    | some (.event i) => exec i (s.tick none)
    | some (.serve id) => work (goOnServing id) s
    | some (.margin f bank n owner) => work (marginStep · f bank n owner) s
    | some (.resize part) => work (finishResize · part) s
    | some (.notice cl loc) => work (cleanNotice · cl loc) s
    | some (.release f loc) => work (cleanRelease · f loc) s
    | some (.replace key) => work (evictCopy (key / 2 ^ 64) (key % 2 ^ 64 / 2 ^ 48) (key % 2 ^ 48)) s
    | some (.pick p) =>
      match startPick s p with
      | (s', .instr i) => exec i s'
      | (s', .undefined w) => .next (issueUndefined w s')
      | (s', .event e) => .next (raiseAll e s')
      | (s', .parity l) => .next (lineParityCheck s' ⟨p.grp, p.thrs.headD 0⟩ l)
      | (_, .service) => .fault .serviceSpace

/-- The state with one thread running at the slot that holds the word's instruction. -/
def State.withFetchWord (s : State) (nbits w : Nat) : State := placeWord s (w % 2 ^ nbits)

end Sys2Proof.Machine
end

