-- ==== Sys2Proof/Safety.lean ====
section
/-! DEFINITION. The terms claims are stated in: what counts as a safe run, when an instruction issues for one
thread of a pick, and what a step that moves one thread alone leaves unchanged. -/

namespace Sys2Proof

open Sys2Proof.Machine

/-- A step that goes on. -/
def Goes (s : State) : Prop := ∃ t, step s = .next t

/-- Runs of n steps from a state, every one of which goes on. -/
def SafeFor : Nat → State → Prop
  | 0, _ => True
  | n + 1, s => ∃ t, step s = .next t ∧ SafeFor n t

/-- The pick is the one thread `c` of a block or activation, it runs, and nothing comes before its
instruction: no stop kept for it, no breakpoint, no overrun of its yield counter (R413), and its guard is
known and true (R71, R83). -/
structure Stands (s : State) (c : Cx) (h : Hdr) : Prop where
  pick : s.pick = { grp := c.grp, thrs := [c.n] }
  execute : c.grp.isSlice = false
  running : (s.thr c).st = .running
  free : (s.thr c).stop = none
  clear : boundaryEv s c = none
  known : predOwed (s.thr c) h.gp.toNat = false
  guard : guardOf h (s.thr c).p = true

/-- The operands of an instruction are there: every register lies below the group's G (R74), no source is
empty, no destination is empty or awaited (R82, R83). -/
structure Operands (s : State) (c : Cx) (srcs : List Src) (dsts : List (Opd × Nat)) : Prop where
  below : ((srcs.map fun x => (x.o, x.n)) ++ dsts).any (aboveG (c.grp.regs s)) = false
  filled : emptySrcs s c srcs = []
  arrived : srcs.any (fun x => opdOwed (s.thr c) x.o) = false
  ready : dsts.any (dstEmpty (s.thr c)) = false

/-- An instruction on registers alone may issue: it stands, its operands are there, and it does not read a
queue inside an activation (R298). -/
structure Ready (s : State) (c : Cx) (h : Hdr) (srcs : List Src) (dsts : List (Opd × Nat)) : Prop where
  stands : Stands s c h
  operands : Operands s c srcs dsts
  queues : c.grp.isAct = true → ∀ x ∈ srcs, ∀ q, x.o ≠ .q q

/-- The 32-bit values of A, B and C; later sources that name one queue read further entries (R51). -/
def valA (s : State) (c : Cx) (f : F0) : Word := rd32 s c 0 f.a
def valB (s : State) (c : Cx) (f : F0) : Word := rd32 s c (aheadOf (f0Srcs f 1 1 1) 1 f.b) f.b
def valC (s : State) (c : Cx) (f : F0) : Word := rd32 s c (aheadOf (f0Srcs f 1 1 1) 2 f.c) f.c

/-- R31, R40, R70: what issuing an instruction with header h counts for its thread, its reads of queues
among it (R51). -/
def issued (s : State) (h : Hdr) (srcs : List Src) (t : Thread) : Thread :=
  advanceQueues { t with
    yc := t.yc - 1, icount := t.icount + 1, skipBp := false, yielded := false, mustIssue := false
    gapUntil := s.cycle + h.gap.toNat, gaveWay := h.gw, ready := s.cycle, peer := [] } srcs

/-- The thread goes on at the next slot. -/
def onward (t : Thread) : Thread := { t with st := .running, pc := nextPc t.pc }

/-- Register `d` of a thread takes a 32-bit value; z discards it (R84). -/
def takes32 (d : Opd) (v : Word) (t : Thread) : Thread :=
  match d with
  | .g n => t.setReg n.toNat v
  | .s _ | .p _ | .q _ | .j _ | .a _ | .tc _ | .z => t

/-- A pair of registers takes a 64-bit value (R73). -/
def takes64 (d : Opd) (v : Dword) (t : Thread) : Thread :=
  match d with
  | .g n => (t.setReg n.toNat v.lo).setReg (n.toNat + 1) v.hi
  | .s _ | .p _ | .q _ | .j _ | .a _ | .tc _ | .z => t

/-- A register takes a result that is written late: at once, or owed to it and the register empty until it
lands (R81). -/
def takesLate (lag : Bool) (d : Opd) (v : Word) (t : Thread) : Thread :=
  match d with
  | .g n => t.lateReg lag n.toNat v
  | .s _ | .p _ | .q _ | .j _ | .a _ | .tc _ | .z => t

/-- A truth value: to a predicate register, or as 1 or 0 (R144). -/
def takesFlag (d : Opd) (v : Bool) (t : Thread) : Thread :=
  match d with
  | .p n => t.setP n.toNat v
  | .g _ | .s _ | .q _ | .j _ | .a _ | .tc _ | .z => takes32 d (if v then 1 else 0) t

/-- A step changes one thread and nothing else: not another thread, not a skein, not a block or activation
beyond its threads, not a byte of memory, and of everything else only counts of performance counters. -/
structure Alone (s t : State) (c : Cx) : Prop where
  others : ∀ d : Cx, d ≠ c → t.thr d = s.thr d
  skeins : ∀ g k, t.sk g k = s.sk g k
  blocks : ∀ b, t.blk b = { s.blk b with body := { (s.blk b).body with threads := (t.blk b).body.threads } }
  acts : ∀ a, t.actv a = { s.actv a with threads := (t.actv a).threads }
  bytes : ∀ a, Tab.get 0 t.mem a = Tab.get 0 s.mem a
  counters : ∀ p, t.part p = { s.part p with ctrs := (t.part p).ctrs }
  rest : t = { s with blocks := t.blocks, acts := t.acts, parts := t.parts }

/-- An instruction answers a next state in which its thread has moved on by f, and nothing else has
changed. -/
def Moves (s : State) (c : Cx) (h : Hdr) (srcs : List Src) (f : Thread → Thread)
    (o : Host.Outcome State Fault Refusal) : Prop :=
  ∃ t, o = .next t ∧ t.thr c = onward (f (issued s h srcs (s.thr c))) ∧ Alone s t c

/-- A thread that has issued an instruction and waits at it. -/
def standsAt (s : State) (w : Wait) (t : Thread) : Thread :=
  if t.waitIc = t.icount then { t with st := .waiting w }
  else { t with st := .waiting w, waitAt := s.now, waitIc := t.icount }

/-- An instruction answers a next state in which its thread waits at it, and nothing else has changed. -/
def Waits (s : State) (c : Cx) (h : Hdr) (srcs : List Src) (w : Wait) (o : Host.Outcome State Fault Refusal) : Prop :=
  ∃ t, o = .next t ∧ t.thr c = standsAt s w (issued s h srcs (s.thr c)) ∧ Alone s t c

/-- The threads of a group by number, as a table in order. -/
def threadsOf (s : State) (g : Grp) : Tab Thread :=
  match g with
  | .blk b => (s.blk b).body.threads
  | .act a => (s.actv a).threads
  | .slice _ _ => []

/-- The rest of the skein already waits in a rendezvous at the thread's PC: it is the last to arrive. -/
structure Last (s : State) (c : Cx) : Prop where
  order : ((threadsOf s c.grp).map (·.1)).Pairwise (· < ·)
  waits : ∀ m ∈ s.liveSk c.grp c.skein, m ≠ c.n → ∃ r, (s.thr ⟨c.grp, m⟩).st = .waiting (.rdv r)
  at_ : ∀ m ∈ s.liveSk c.grp c.skein, (s.thr ⟨c.grp, m⟩).pc = (s.thr c).pc


/-- R81: the g registers of an instruction's destinations are empty until it completes. -/
def emptied (dsts : List (Opd × Nat)) (t : Thread) : Thread := dsts.foldl emptyDst t

/-- A participant's thread as it stands when the last thread c has arrived with rendezvous r. -/
def arrived (s : State) (c : Cx) (h : Hdr) (srcs : List Src) (dsts : List (Opd × Nat)) (r : Rdv) (m : Nat) : Thread :=
  if m = c.n then standsAt s (.rdv r) (emptied dsts (issued s h srcs (s.thr c))) else s.thr ⟨c.grp, m⟩

/-- A rendezvous completes: each participant has taken its result by F and gone on at the next slot, and no byte
of memory has changed. -/
def Meets (s : State) (c : Cx) (h : Hdr) (srcs : List Src) (dsts : List (Opd × Nat)) (r : Rdv) (F : Nat → Thread → Thread)
    (o : Host.Outcome State Fault Refusal) : Prop :=
  ∃ t, o = .next t ∧ (∀ m ∈ s.liveSk c.grp c.skein, t.thr ⟨c.grp, m⟩ = passOn s.cycle (F m (arrived s c h srcs dsts r m))) ∧
    ∀ a, Tab.get 0 t.mem a = Tab.get 0 s.mem a

/-- The state an instruction's effect starts from: its issue counted, its own PC and count of instructions as they
were. -/
def starting (s : State) (c : Cx) (h : Hdr) (srcs : List Src) : State :=
  s.setThr c { issued s h srcs (s.thr c) with icount := (s.thr c).icount, peer := (s.thr c).peer }

/-- The thread once the instruction has been performed: one more issued, and on at `pc`. -/
def performedAt (pc : Dword) (t : Thread) : Thread :=
  { t with icount := t.icount + 1, peer := [], st := .running, pc := pc }

/-- An instruction answers a next state that is `u`, the state its effect leaves, but for the thread's going on
at `pc` and counts of performance counters. -/
def Leads (u : State) (c : Cx) (pc : Dword) (o : Host.Outcome State Fault Refusal) : Prop :=
  ∃ t, o = .next t ∧ t.thr c = performedAt pc (u.thr c) ∧ Alone u t c

/-- The same for an instruction that has issued and waits. -/
def Holds (u : State) (c : Cx) (w : Wait) (o : Host.Outcome State Fault Refusal) : Prop :=
  ∃ t, o = .next t ∧ (t.thr c).st = .waiting w ∧ (t.thr c).pc = (u.thr c).pc ∧ (t.thr c).g = (u.thr c).g ∧
    (t.thr c).p = (u.thr c).p ∧ (t.thr c).icount = (u.thr c).icount + 1 ∧ Alone u t c

end Sys2Proof
end

