-- ==== Sys2Proof/Certificates/Slice0/Obligations.lean ====
section
/-! DEFINITION. The statements for the provers. -/

open Sys2Proof Sys2Proof.Machine

namespace Sys2Proof

/-! ### Registers: the result of every instruction that only computes -/

/-- B, or its immediate extended by sign or by zero (R122). -/
def sImm (f : F0) (b : Word) : Word := if f.ib then f.imm.signExtend 32 else b
def zImm (f : F0) (b : Word) : Word := if f.ib then f.imm.zeroExtend 32 else b

/-- The same for a pair. -/
def sImm64 (f : F0) (b : Dword) : Dword := if f.ib then f.imm.signExtend 64 else b
def zImm64 (f : F0) (b : Dword) : Dword := if f.ib then f.imm.zeroExtend 64 else b

/-- R139, R143, R145, R169: the 32-bit results of integer instructions, of the values of A, B and C. -/
def intValue : Instr → Option (Hdr × F0 × (Word → Word → Word → Word))
  | .iadd h f => some (h, f, fun a b _ => a + sImm f b)
  | .isub h f => some (h, f, fun a b _ => a - sImm f b)
  | .imul h f => some (h, f, fun a b _ => a * sImm f b)
  | .imulh h f => some (h, f, fun a b _ => .ofInt 32 (a.toInt * (sImm f b).toInt / 2 ^ 32))
  | .imulhu h f => some (h, f, fun a b _ => .ofNat 32 (a.toNat * (zImm f b).toNat / 2 ^ 32))
  | .imad h f => some (h, f, fun a b c => a * sImm f b + c)
  | .imin h f => some (h, f, fun a b _ => if a.toInt ≤ (sImm f b).toInt then a else sImm f b)
  | .imax h f => some (h, f, fun a b _ => if a.toInt ≤ (sImm f b).toInt then sImm f b else a)
  | .iminu h f => some (h, f, fun a b _ => if a.toNat ≤ (zImm f b).toNat then a else zImm f b)
  | .imaxu h f => some (h, f, fun a b _ => if a.toNat ≤ (zImm f b).toNat then zImm f b else a)
  | .iabs h f => some (h, f, fun a _ _ => if a.toInt < 0 then 0 - a else a)
  | .ineg h f => some (h, f, fun a _ _ => 0 - a)
  | .and h f => some (h, f, fun a b _ => a &&& zImm f b)
  | .or h f => some (h, f, fun a b _ => a ||| zImm f b)
  | .xor h f => some (h, f, fun a b _ => a ^^^ zImm f b)
  | .not h f => some (h, f, fun a _ _ => ~~~ a)
  | .andn h f => some (h, f, fun a b _ => a &&& ~~~ zImm f b)
  | .rotl h f => some (h, f, fun a b _ => a.rotateLeft ((zImm f b).toNat % 32))
  | .funnel h left f => some (h, f, fun a b c => Machine.funnel left a b c)
  | .popc h f => some (h, f, fun a _ _ => popW a)
  | .clz h f => some (h, f, fun a _ _ => clzW a)
  | .ctz h f => some (h, f, fun a _ _ => ctzW a)
  | .brev h f => some (h, f, fun a _ _ => brevW a)
  | .bfe h sgn f => some (h, f, fun a b _ => Machine.bfe sgn a (zImm f b))
  | .bfi h f => some (h, f, fun a b c => Machine.bfi a (zImm f b) c)
  | .bysel h f => some (h, f, fun a b c => Machine.bysel a (if f.ib then byselImm f.imm else b) c)
  | .idp4 h ua ub f => some (h, f, fun a b c => Machine.idp4 ua ub a b c)
  | .mov h false f => some (h, f, fun a _ _ => a)
  | .movs h false f => some (h, f, fun a _ _ => a)
  | _ => none

/-- R139, R145: the 64-bit results of the instructions whose A and B are pairs. -/
def wideValue : Instr → Option (Hdr × F0 × (Dword → Dword → Dword))
  | .iadd64 h f => some (h, f, fun a b => a + sImm64 f b)
  | .isub64 h f => some (h, f, fun a b => a - sImm64 f b)
  | .imul64 h f => some (h, f, fun a b => a * b)
  | _ => none

/-- R142: a shift of a w-bit value by n, with WRAP reducing n modulo w. -/
def shiftCountOf (w : Nat) (wrap : Bool) (n : Word) : Nat := if wrap then n.toNat % w else n.toNat

/-- R142: the instructions that shift a 32-bit A. -/
def shiftValue : Instr → Option (Hdr × Bool × F0 × (Word → Nat → Word))
  | .shl h w f => some (h, w, f, fun a n => if n < 32 then a <<< n else 0)
  | .shr h w f => some (h, w, f, fun a n => if n < 32 then a >>> n else 0)
  | .sar h w f => some (h, w, f, fun a n => if n < 32 then a.sshiftRight n else if a.msb then .allOnes 32 else 0)
  | _ => none

/-- R142: the instructions that shift a pair. -/
def shiftValue64 : Instr → Option (Hdr × Bool × F0 × (Dword → Nat → Dword))
  | .shl64 h w f => some (h, w, f, fun a n => if n < 64 then a <<< n else 0)
  | .shr64 h w f => some (h, w, f, fun a n => if n < 64 then a >>> n else 0)
  | .sar64 h w f => some (h, w, f, fun a n => if n < 64 then a.sshiftRight n else if a.msb then .allOnes 64 else 0)
  | _ => none

/-- R141: the four division instructions, of the values of A and B. -/
def divValue : Instr → Option (Hdr × F0 × (Word → Word → Word))
  | .idivu h f => some (h, f, fun a b => if zImm f b = 0 then 0xFFFFFFFF else .ofNat 32 (a.toNat / (zImm f b).toNat))
  | .idivs h f => some (h, f, fun a b => if sImm f b = 0 then 0xFFFFFFFF
      else if a = 0x80000000 ∧ sImm f b = 0xFFFFFFFF then 0x80000000 else .ofInt 32 (a.toInt.tdiv (sImm f b).toInt))
  | .iremu h f => some (h, f, fun a b => if zImm f b = 0 then a
      else .ofNat 32 (a.toNat - (zImm f b).toNat * (a.toNat / (zImm f b).toNat)))
  | .irems h f => some (h, f, fun a b => if sImm f b = 0 then a
      else if a = 0x80000000 ∧ sImm f b = 0xFFFFFFFF then 0
      else .ofInt 32 (a.toInt - (sImm f b).toInt * a.toInt.tdiv (sImm f b).toInt))
  | _ => none

/-- R144: the tests of ISET and ISET64. -/
def icmpTest {n : Nat} (c : ICmp) (a b : BitVec n) : Prop :=
  match c with
  | .eq => a = b
  | .ne => a ≠ b
  | .lt => a.toInt < b.toInt
  | .le => a.toInt ≤ b.toInt
  | .gt => a.toInt > b.toInt
  | .ge => a.toInt ≥ b.toInt
  | .ltu => a.toNat < b.toNat
  | .leu => a.toNat ≤ b.toNat
  | .gtu => a.toNat > b.toNat
  | .geu => a.toNat ≥ b.toNat

/-- R144: codes 0 to 5 sign-extend an immediate, 6 to 9 zero-extend it. -/
def icmpImm (c : ICmp) (f : F0) (b : Word) : Word :=
  match c with
  | .eq | .ne | .lt | .le | .gt | .ge => sImm f b
  | .ltu | .leu | .gtu | .geu => zImm f b

def icmpImm64 (c : ICmp) (f : F0) (b : Dword) : Dword :=
  match c with
  | .eq | .ne | .lt | .le | .gt | .ge => sImm64 f b
  | .ltu | .leu | .gtu | .geu => zImm64 f b

/-- R155, R156, R157, R161, R165 to R168, R170, R171: the 32-bit results of floating-point instructions, of
the random bits of each element and the values of A, B and C. -/
def floatValue : Instr → Option (Hdr × F0 × ((Nat → Nat) → Word → Word → Word → Word))
  | .fadd h r f => some (h, f, fun n a b _ => fAdd r n a (immW f b))
  | .fsub h r f => some (h, f, fun n a b _ => fSub r n a (immW f b))
  | .fmul h r f => some (h, f, fun n a b _ => fMul r n a (immW f b))
  | .ffma h r f => some (h, f, fun n a b c => fFma r n a (immW f b) c)
  | .fmin h z f => some (h, f, fun _ a b _ => fMinMax false z a (immW f b))
  | .fmax h z f => some (h, f, fun _ a b _ => fMinMax true z a (immW f b))
  | .fabs h z f => some (h, f, fun _ a _ _ => fAbs z a)
  | .fneg h z f => some (h, f, fun _ a _ _ => fNeg z a)
  | .fcopys h z f => some (h, f, fun _ a b _ => fCopys z a (immW f b))
  | .hadd2 h r f => some (h, f, fun n a b _ => hAdd fp16 r n a (immH f b))
  | .hmul2 h r f => some (h, f, fun n a b _ => hMul fp16 r n a (immH f b))
  | .hfma2 h r f => some (h, f, fun n a b c => hFma fp16 r n a (immH f b) c)
  | .badd2 h r f => some (h, f, fun n a b _ => hAdd bf16 r n a (immH f b))
  | .bmul2 h r f => some (h, f, fun n a b _ => hMul bf16 r n a (immH f b))
  | .bfma2 h r f => some (h, f, fun n a b c => hFma bf16 r n a (immH f b) c)
  | .cvtpk h r df src k f => some (h, f, fun n a b c => Machine.cvtpk r n df src k.toNat a b c)
  | .cvtupk h df sf i f => some (h, f, fun _ a _ _ => Machine.cvtupk df sf i.toNat a)
  | .rndi h r f => some (h, f, fun n a _ _ => Machine.rndi r n a)
  | .q8add h r five f => some (h, f, fun n a b _ => q8 five r n a b (Val.add r.rm))
  | .q8mul h r five f => some (h, f, fun n a b _ => q8 five r n a b Val.mul)
  | .q8min h r five f => some (h, f, fun n a b _ => q8 five r n a b (Val.minmax false))
  | .q8max h r five f => some (h, f, fun n a b _ => q8 five r n a b (Val.minmax true))
  | .fdp4 h r a5 b5 f => some (h, f, fun n a b c => fdp (q8Fl a5) (q8Fl b5) 4 r n a b c)
  | .fdp2 h r f16 f => some (h, f, fun n a b c => fdp (if f16 then fp16 else bf16) (if f16 then fp16 else bf16) 2 r n a b c)
  | .scalex h r e8m2 i f => some (h, f, fun n a b _ => Machine.scalex r n e8m2 i.toNat a b)
  | _ => none

/-- R162: the FP64 results, of pairs. -/
def doubleValue : Instr → Option (Hdr × F0 × ((Nat → Nat) → Dword → Dword → Dword → Dword))
  | .dadd h r f => some (h, f, fun n a b _ => dAdd r n a b)
  | .dmul h r f => some (h, f, fun n a b _ => dMul r n a b)
  | .dfma h r f => some (h, f, fun n a b c => dFma r n a b c)
  | _ => none

/-- R160, R172: the results that are written late, of the random bits and the values of A and B. -/
def lateValue : Instr → Option (Hdr × F0 × ((Nat → Nat) → Word → Word → Word))
  | .fdiv h r f => some (h, f, fun n a b => fDiv r n a (immW f b))
  | .rcp h f => some (h, f, fun _ a _ => sfuResult .rcp a)
  | .rsq h f => some (h, f, fun _ a _ => sfuResult .rsq a)
  | .sqrt h f => some (h, f, fun _ a _ => sfuResult .sqrt a)
  | .exp2 h f => some (h, f, fun _ a _ => sfuResult .exp2 a)
  | .log2 h f => some (h, f, fun _ a _ => sfuResult .log2 a)
  | .exp h f => some (h, f, fun _ a _ => sfuResult .exp a)
  | .log h f => some (h, f, fun _ a _ => sfuResult .log a)
  | .sinpi h f => some (h, f, fun _ a _ => sfuResult .sinpi a)
  | .cospi h f => some (h, f, fun _ a _ => sfuResult .cospi a)
  | .tanh h f => some (h, f, fun _ a _ => sfuResult .tanh a)
  | .sigm h f => some (h, f, fun _ a _ => sfuResult .sigm a)
  | _ => none

/-- The value of one sub-operation of a PAIR, of its thread's registers (R100). -/
def pairValue (s : State) (c : Cx) (x : SubOp) (rnd : Nat → Nat) : Word :=
  subValue x rnd ((s.thr c).reg x.a.toNat)
    (match x.b with
      | some b => (s.thr c).reg b.toNat
      | none => 0) ((s.thr c).reg x.d.toNat)

/-- A sub-operation's write: late for a division or a special function (R100). -/
def pairWrite (lag : Bool) (x : SubOp) (v : Word) (t : Thread) : Thread :=
  if x.sop.sfu || x.sop == .fdiv then t.lateReg lag x.d.toNat v else t.setReg x.d.toNat v

end Sys2Proof

/-- R139, R143, R145, R169: every 32-bit integer instruction outside the carries, shifts, divisions and comparisons
writes its result to D and changes nothing else. R139: IADD64, ISUB64 and IMUL64 write the sum, difference and
product of pairs, modulo 2^64. -/
def Obligations.IntegerResults : Prop :=
  (
    ∀ (s : State) (c : Cx) (i : Instr) (h : Hdr) (f : F0) (v : Word → Word → Word → Word),
      intValue i = some (h, f, v) → Ready s c h (f0Srcs f 1 1 1) [(f.d, 1)] → isS f.d = false →
      Moves s c h (f0Srcs f 1 1 1) (takes32 f.d (v (valA s c f) (valB s c f) (valC s c f))) (exec i s)) ∧
  (
    ∀ (s : State) (c : Cx) (i : Instr) (h : Hdr) (f : F0) (v : Dword → Dword → Dword),
      wideValue i = some (h, f, v) → Ready s c h (f0Srcs f 2 2 1) [(f.d, 2)] → isS f.d = false →
      Moves s c h (f0Srcs f 2 2 1) (takes64 f.d (v (rd64 s c f.a) (rd64 s c f.b))) (exec i s))

/-- R140: IADDC and ISUBB: the sum or difference with the carry C, and its carry or borrow to CO. -/
def Obligations.CarryChain : Prop :=
  ∀ (s : State) (c : Cx) (h : Hdr) (f : F0) (co : BitVec 4),
    Ready s c h (f0Srcs f 1 1 1) [(f.d, 1), (.p co, 1)] → isS f.d = false →
    (let t := (valA s c f).toNat + (sImm f (valB s c f)).toNat + (rdP s c f.c).toNat
     Moves s c h (f0Srcs f 1 1 1) (fun x => (takes32 f.d (.ofNat 32 t) x).setP co.toNat (decide (2 ^ 32 ≤ t)))
       (exec (.iaddc h co f) s)) ∧
    (let t : Int := (valA s c f).toNat - (sImm f (valB s c f)).toNat - (rdP s c f.c).toNat
     Moves s c h (f0Srcs f 1 1 1) (fun x => (takes32 f.d (.ofInt 32 t) x).setP co.toNat (decide (t < 0)))
       (exec (.isubb h co f) s))

/-- R141: quotients and remainders with their boundary cases; D is empty until the result is written. When the result
lands is free (log 6). -/
def Obligations.Divisions : Prop :=
  ∀ (s : State) (c : Cx) (i : Instr) (h : Hdr) (f : F0) (v : Word → Word → Word),
    divValue i = some (h, f, v) → Ready s c h (f0Srcs f 1 1 1) [(f.d, 1)] → isS f.d = false →
    Moves s c h (f0Srcs f 1 1 1) (takesLate s.lag f.d (v (valA s c f) (valB s c f))) (exec i s)

/-- R142: the shifts of words and pairs, by counts below and above the width, with WRAP and without. -/
def Obligations.Shifts : Prop :=
  (∀ (s : State) (c : Cx) (i : Instr) (h : Hdr) (w : Bool) (f : F0) (v : Word → Nat → Word),
    shiftValue i = some (h, w, f, v) → Ready s c h (f0Srcs f 1 1 1) [(f.d, 1)] → isS f.d = false →
    Moves s c h (f0Srcs f 1 1 1) (takes32 f.d (v (valA s c f) (shiftCountOf 32 w (zImm f (valB s c f))))) (exec i s)) ∧
  ∀ (s : State) (c : Cx) (i : Instr) (h : Hdr) (w : Bool) (f : F0) (v : Dword → Nat → Dword),
    shiftValue64 i = some (h, w, f, v) → Ready s c h (f0Srcs f 2 1 1) [(f.d, 2)] → isS f.d = false →
    Moves s c h (f0Srcs f 2 1 1) (takes64 f.d (v (rd64 s c f.a) (shiftCountOf 64 w (zImm f (valB s c f))))) (exec i s)

/-- R144: ISET and ISET64 write the truth of the test CMP names, and ISEL chooses by a predicate. -/
def Obligations.CompareAndSelect : Prop :=
  ∀ (s : State) (c : Cx) (h : Hdr) (f : F0) (k : ICmp), isS f.d = false →
    (Ready s c h (f0Srcs f 1 1 1) [(f.d, 1)] → ∃ r : Bool, (r = true ↔ icmpTest k (valA s c f) (icmpImm k f (valB s c f))) ∧
      Moves s c h (f0Srcs f 1 1 1) (takesFlag f.d r) (exec (.iset h k f) s)) ∧
    (Ready s c h (f0Srcs f 2 2 1) [(f.d, 1)] → ∃ r : Bool, (r = true ↔ icmpTest k (rd64 s c f.a) (icmpImm64 k f (rd64 s c f.b))) ∧
      Moves s c h (f0Srcs f 2 2 1) (takesFlag f.d r) (exec (.iset64 h k f) s)) ∧
    (Ready s c h (f0Srcs f 1 1 1) [(f.d, 1)] →
      Moves s c h (f0Srcs f 1 1 1) (takes32 f.d (if rdP s c f.c then valA s c f else sImm f (valB s c f))) (exec (.isel h f) s))

/-- R145: MOV and MOVS of pairs, MOV of a completed count, MOVI and LEA. -/
def Obligations.MovesAndAddresses : Prop :=
  ∀ (s : State) (c : Cx) (h : Hdr) (f : F0), isS f.d = false →
    (Ready s c h (f0Srcs f 2 1 1) [(f.d, 2)] → (∀ n, f.a ≠ .tc n) →
      Moves s c h (f0Srcs f 2 1 1) (takes64 f.d (rd64 s c f.a)) (exec (.mov h true f) s)) ∧
    (∀ n, Ready s c h (f0Srcs f 2 1 1) [(f.d, 2)] → f.a = .tc n → (c.grp.cslot s).eng n.toNat = true →
      Moves s c h (f0Srcs f 2 1 1) (takes64 f.d (.ofNat 64 (completedOf s c n.toNat))) (exec (.mov h true f) s)) ∧
    (Ready s c h (f0Srcs f 2 1 1) [(f.d, 2)] →
      Moves s c h (f0Srcs f 2 1 1) (takes64 f.d (rd64 s c f.a)) (exec (.movs h true f) s)) ∧
    (∀ imm, Ready s c h [] [(f.d, 1)] → Moves s c h [] (takes32 f.d imm) (exec (.movi h false f.d imm) s)) ∧
    (∀ imm, Ready s c h [] [(f.d, 2)] →
      Moves s c h [] (takes64 f.d (imm.signExtend 64)) (exec (.movi h true f.d imm) s)) ∧
    ∀ (scale : BitVec 3) (iu : Bool), Ready s c h (f0Srcs f 2 1 1) [(f.d, 2)] →
      Moves s c h (f0Srcs f 2 1 1) (takes64 f.d (rd64 s c f.a +
          ((if iu then (valB s c f).zeroExtend 64 else (valB s c f).signExtend 64) <<< scale.toNat) + f.imm.signExtend 64))
        (exec (.lea h scale iu f) s)

/-- R158, R159, R162, R164: comparisons, classes, FP64 arithmetic and conversions write their results to D. -/
def Obligations.FloatTestsAndConversions : Prop :=
  ∀ (s : State) (c : Cx) (h : Hdr) (f : F0), isS f.d = false →
    (∀ k z, Ready s c h (f0Srcs f 1 1 1) [(f.d, 1)] → Moves s c h (f0Srcs f 1 1 1)
      (takesFlag f.d (fcmp k (f32In z (valA s c f)) (f32In z (immW f (valB s c f))))) (exec (.fset h k z f) s)) ∧
    (∀ k, Ready s c h (f0Srcs f 2 2 1) [(f.d, 1)] → Moves s c h (f0Srcs f 2 2 1)
      (takesFlag f.d (fcmp k (fp64.decode (rd64 s c f.a).toNat) (fp64.decode (rd64 s c f.b).toNat))) (exec (.dset h k f) s)) ∧
    (∀ k, k ≠ .f64 → Ready s c h (f0Srcs f 1 1 1) [(f.d, 1)] →
      let n := fclassOf (classFl k) ((valA s c f).toNat % 2 ^ (classFl k).bits)
      Moves s c h (f0Srcs f 1 1 1) (if isP f.d then takesFlag f.d (f.imm.getLsbD n) else takes32 f.d (.ofNat 32 (2 ^ n)))
        (exec (.fclass h k f) s)) ∧
    (Ready s c h (f0Srcs f 2 1 1) [(f.d, 1)] →
      let n := fclassOf fp64 (rd64 s c f.a).toNat
      Moves s c h (f0Srcs f 2 1 1) (if isP f.d then takesFlag f.d (f.imm.getLsbD n) else takes32 f.d (.ofNat 32 (2 ^ n)))
        (exec (.fclass h .f64 f) s)) ∧
    (∀ i v, doubleValue i = some (h, f, v) → Ready s c h (f0Srcs f 2 2 2) [(f.d, 2)] →
      Moves s c h (f0Srcs f 2 2 2) (takes64 f.d (v (rndOf s c) (rd64 s c f.a) (rd64 s c f.b) (rd64 s c f.c))) (exec i s)) ∧
    ∀ (r : Rnd) (df sf : Elem), Ready s c h (f0Srcs f (if sf.wide then 2 else 1) 1 1) [(f.d, if df.wide then 2 else 1)] →
      let v := Machine.cvt r (rndOf s c) df sf (if sf.wide then rd64 s c f.a else (valA s c f).zeroExtend 64)
      Moves s c h (f0Srcs f (if sf.wide then 2 else 1) 1 1) (if df.wide then takes64 f.d v else takes32 f.d v.lo)
        (exec (.cvt h r df sf f) s)

/-- The floating-point instructions with a 32-bit result write it to D and change nothing else. R81, R160, R172: FDIV
and the special functions write late: D is empty until the result is written. The value of a special function within
the bound of R115 is free (log 15), and when a late result lands is free (log 6). -/
def Obligations.FloatResults : Prop :=
  (
    ∀ (s : State) (c : Cx) (i : Instr) (h : Hdr) (f : F0) (v : (Nat → Nat) → Word → Word → Word → Word),
      floatValue i = some (h, f, v) → Ready s c h (f0Srcs f 1 1 1) [(f.d, 1)] → isS f.d = false →
      Moves s c h (f0Srcs f 1 1 1) (takes32 f.d (v (rndOf s c) (valA s c f) (valB s c f) (valC s c f))) (exec i s)) ∧
  (
    ∀ (s : State) (c : Cx) (i : Instr) (h : Hdr) (f : F0) (v : (Nat → Nat) → Word → Word → Word),
      lateValue i = some (h, f, v) → Ready s c h (f0Srcs f 1 1 1) [(f.d, 1)] → isS f.d = false →
      Moves s c h (f0Srcs f 1 1 1) (takesLate s.lag f.d (v (rndOf s c) (valA s c f) (valB s c f))) (exec i s))

/-- R150, R84: the predicate instructions, and PMOV both ways; p0 stays true. R83: a PMOV that reads or writes a
predicate still owed to its thread waits to issue (its writes by log 107). -/
def Obligations.PredicateResults : Prop :=
  ∀ (s : State) (c : Cx) (h : Hdr) (f : F0), Ready s c h (f0Srcs f 1 1 1) [(f.d, 1)] →
    (∀ n na nb, f.d = .p n →
      let x := rdP s c f.a != na
      let y := rdP s c f.b != nb
      Moves s c h (f0Srcs f 1 1 1) (fun t => t.setP n.toNat (x && y)) (exec (.pand h na nb f) s) ∧
      Moves s c h (f0Srcs f 1 1 1) (fun t => t.setP n.toNat (x || y)) (exec (.por h na nb f) s) ∧
      Moves s c h (f0Srcs f 1 1 1) (fun t => t.setP n.toNat (x != y)) (exec (.pxor h na nb f) s) ∧
      Moves s c h (f0Srcs f 1 1 1) (fun t => t.setP n.toNat (!(rdP s c f.a))) (exec (.pnot h f) s)) ∧
    (isS f.d = false → (∀ n, 0 < n → n < 16 → predOwed (s.thr c) n = false) →
      Moves s c h (f0Srcs f 1 1 1) (takes32 f.d ((s.thr c).p.zeroExtend 32 ||| 1)) (exec (.pmov h false f) s)) ∧
    ((∀ n, 0 < n → n < 16 → f.imm.getLsbD n = true → predOwed (s.thr c) n = false) →
      ∃ p : BitVec 16, Moves s c h (f0Srcs f 1 1 1) (fun t => { t with p := p }) (exec (.pmov h true f) s) ∧
        ∀ n, n < 16 → predOf p n = if f.imm.getLsbD n && n != 0 then (valA s c f).getLsbD n else predOf (s.thr c).p n) ∧
    ∀ (dir : Bool) (n : Nat), 0 < n → n < 16 → (dir = true → f.imm.getLsbD n = true) → predOwed (s.thr c) n = true →
      ∃ t, exec (.pmov h dir f) s = .next t ∧ (t.thr c).pc = (s.thr c).pc ∧ (t.thr c).g = (s.thr c).g ∧ (t.thr c).p = (s.thr c).p ∧
        (t.thr c).icount = (s.thr c).icount ∧ Alone s t c

/-- R78, R100: PAIR reads the sources of both sub-operations before either writes, the second write last. -/
def Obligations.PairResult : Prop :=
  ∀ (s : State) (c : Cx) (h : Hdr) (x y : SubOp), Ready s c h (subSrcs x ++ subSrcs y) [(.g x.d, 1), (.g y.d, 1)] →
    Moves s c h (subSrcs x ++ subSrcs y)
      (fun t => pairWrite s.lag y (pairValue s c y fun e => rndOf s c (e + 4096)) (pairWrite s.lag x (pairValue s c x (rndOf s c)) t))
      (exec (.pair h x y) s)

namespace Sys2Proof

/-! ### Rendezvous -/

/-- Every other live thread of c's skein waits at c's PC with the rendezvous r gives it. -/
def Others (s : State) (c : Cx) (r : Nat → Rdv) : Prop :=
  ∀ m ∈ s.liveSk c.grp c.skein, m ≠ c.n → (s.thr ⟨c.grp, m⟩).st = .waiting (.rdv (r m))

/-- R148: what VOTE answers to the lane of thread m, of the predicates p of the participants l. -/
def votes (mode : VoteMode) (l : List Nat) (p : Nat → Bool) (m : Nat) : Prop :=
  match mode with
  | .any => ∃ n ∈ l, p n = true
  | .all => ∀ n ∈ l, p n = true
  | .uni => (∀ n ∈ l, p n = true) ∨ ∀ n ∈ l, p n = false
  | .elect => ∀ n ∈ l, m % 64 ≤ n % 64

end Sys2Proof

/-- R148: VOTE, BALLOT and MATCH of the skein's live threads, completed by the last of them to arrive. R147: SHFL gives
each participant A of the lane its mode and B name, with PV true, where that lane takes part; else its own A, with
PV false. R75, R121: a BALLOT or MATCH into an s pair leaves the lowest lane's answer there, once for the skein. -/
def Obligations.VotesAndShuffles : Prop :=
  (
    ∀ (s : State) (c : Cx) (h : Hdr) (f : F0), Last s c →
      (∀ (mode : VoteMode) (p : Nat → Bool) (d : BitVec 4), f.d = .p d → Ready s c h (f0Srcs f 1 1 1) [(f.d, 1)] → p c.n = rdP s c f.a →
        Others s c (fun m => .vote f.d mode (p m)) →
        ∃ b : Nat → Bool, (∀ m ∈ s.liveSk c.grp c.skein, b m = true ↔ votes mode (s.liveSk c.grp c.skein) p m) ∧
          Meets s c h (f0Srcs f 1 1 1) [(f.d, 1)] (.vote f.d mode (p c.n)) (fun m t => t.setP d.toNat (b m)) (exec (.vote h mode f) s)) ∧
      (∀ p : Nat → Bool, isS f.d = false → Ready s c h (f0Srcs f 1 1 1) [(f.d, 2)] → p c.n = rdP s c f.a →
        Others s c (fun m => .ballot f.d (p m)) →
        ∃ v : Dword, (∀ i, i < 64 → (v.getLsbD i = true ↔ ∃ m ∈ s.liveSk c.grp c.skein, m % 64 = i ∧ p m = true)) ∧
          Meets s c h (f0Srcs f 1 1 1) [(f.d, 2)] (.ballot f.d (p c.n)) (fun _ => takes64 f.d v) (exec (.ballot h f) s)) ∧
      ∀ (w64 : Bool) (a : Nat → Dword), isS f.d = false → Ready s c h (f0Srcs f (if w64 then 2 else 1) 1 1) [(f.d, 2)] →
        a c.n = (if w64 then rd64 s c f.a else (valA s c f).zeroExtend 64) → Others s c (fun m => .matchL f.d (a m)) →
        ∃ v : Nat → Dword, (∀ m ∈ s.liveSk c.grp c.skein, ∀ i, i < 64 →
            ((v m).getLsbD i = true ↔ ∃ n ∈ s.liveSk c.grp c.skein, n % 64 = i ∧ a n = a m)) ∧
          Meets s c h (f0Srcs f (if w64 then 2 else 1) 1 1) [(f.d, 2)] (.matchL f.d (a c.n)) (fun m => takes64 f.d (v m))
            (exec (.matchL h w64 f) s)) ∧
  (
    ∀ (s : State) (c : Cx) (h : Hdr) (f : F0) (mode : ShflMode) (w : BitVec 3) (pv : BitVec 4) (a b : Nat → Word),
      Last s c → isS f.d = false → Ready s c h (f0Srcs f 1 1 1) [(f.d, 1), (.p pv, 1)] →
      a c.n = valA s c f → b c.n = zImm f (valB s c f) → Others s c (fun m => .shfl f.d mode w pv (a m) (b m)) →
      ∃ src : Nat → Option Nat,
        (∀ m ∈ s.liveSk c.grp c.skein, ∀ n, src m = some n → n ∈ s.liveSk c.grp c.skein ∧
          n % 64 = shflSource mode w.toNat (c.grp.launch s).width (m % 64) (b m).toNat) ∧
        (∀ m ∈ s.liveSk c.grp c.skein, src m = none → ∀ n ∈ s.liveSk c.grp c.skein,
          n % 64 ≠ shflSource mode w.toNat (c.grp.launch s).width (m % 64) (b m).toNat) ∧
        Meets s c h (f0Srcs f 1 1 1) [(f.d, 1), (.p pv, 1)] (.shfl f.d mode w pv (a c.n) (b c.n))
          (fun m t => (takes32 f.d (match src m with
            | some n => a n
            | none => a m) t).setP pv.toNat (src m).isSome)
          (exec (.shfl h mode w pv f) s)) ∧
  (
    ∀ (s : State) (c : Cx) (i : Instr) (h : Hdr) (f : F0) (srcs : List Src) (r : Nat → Rdv) (v : Dword) (n : BitVec 6), Last s c →
      f.d = .s n → Ready s c h srcs [(f.d, 2)] → Others s c r →
      ((∃ p : Nat → Bool, i = .ballot h f ∧ srcs = f0Srcs f 1 1 1 ∧ p c.n = rdP s c f.a ∧ r = (fun m => .ballot f.d (p m)) ∧
          ∀ i, i < 64 → (v.getLsbD i = true ↔ ∃ m ∈ s.liveSk c.grp c.skein, m % 64 = i ∧ p m = true)) ∨
        (∃ (w64 : Bool) (a : Nat → Dword), i = .matchL h w64 f ∧ srcs = f0Srcs f (if w64 then 2 else 1) 1 1 ∧
          a c.n = (if w64 then rd64 s c f.a else (valA s c f).zeroExtend 64) ∧ r = (fun m => .matchL f.d (a m)) ∧
          ∀ i, i < 64 → (v.getLsbD i = true ↔
            ∃ m ∈ s.liveSk c.grp c.skein, m % 64 = i ∧ a m = a ((s.liveSk c.grp c.skein).headD 0)))) →
      ∃ t, exec i s = .next t ∧ t.sreg c.grp c.skein n.toNat = v.lo ∧ t.sreg c.grp c.skein (n.toNat + 1) = v.hi ∧
        (∀ k, k ≠ n.toNat → k ≠ n.toNat + 1 → t.sreg c.grp c.skein k = s.sreg c.grp c.skein k) ∧
        (∀ m ∈ s.liveSk c.grp c.skein, (t.thr ⟨c.grp, m⟩).st = .running ∧ (t.thr ⟨c.grp, m⟩).pc = nextPc (s.thr c).pc ∧
          (t.thr ⟨c.grp, m⟩).g = (s.thr ⟨c.grp, m⟩).g ∧ (t.thr ⟨c.grp, m⟩).p = (s.thr ⟨c.grp, m⟩).p) ∧
        ∀ a, Tab.get 0 t.mem a = Tab.get 0 s.mem a)

/-- R75, R135, R136: UMASK, and SWRITE to SR.HVEC and SR.UPEND, act once for the skein, with the lowest lane's value.
That the lowest lane's value is taken follows R75 (log 47). -/
def Obligations.SkeinRegisters : Prop :=
  ∀ (s : State) (c : Cx) (h : Hdr) (e : Bool), Last s c →
    (∀ v : Bool, Ready s c h [] [] → Others s c (fun _ => .umask v) →
      ∃ t, exec (.umask h e v) s = .next t ∧
        (t.sk c.grp c.skein).masked =
          (if v then true else if (s.sk c.grp c.skein).inside = 0 then false else (s.sk c.grp c.skein).masked) ∧
        (∀ m ∈ s.liveSk c.grp c.skein, (t.thr ⟨c.grp, m⟩).st = .running ∧ (t.thr ⟨c.grp, m⟩).pc = nextPc (s.thr c).pc) ∧
        ∀ a, Tab.get 0 t.mem a = Tab.get 0 s.mem a) ∧
    (∀ (a : Opd) (v : Nat → Dword), Ready s c h [⟨a, 2, e⟩] [] → v c.n = rd64 s c a → Others s c (fun m => .special .hvec (v m)) →
      ∃ t, exec (.swrite h a e .hvec) s = .next t ∧
        (t.sk c.grp c.skein).hvec = v ((s.liveSk c.grp c.skein).headD 0) ∧
        (∀ m ∈ s.liveSk c.grp c.skein, (t.thr ⟨c.grp, m⟩).st = .running ∧ (t.thr ⟨c.grp, m⟩).pc = nextPc (s.thr c).pc) ∧
        ∀ a, Tab.get 0 t.mem a = Tab.get 0 s.mem a) ∧
    ∀ (a : Opd) (v : Nat → Dword), Ready s c h [⟨a, 1, e⟩] [] → v c.n = (rd32 s c 0 a).zeroExtend 64 →
      Others s c (fun m => .special .upend (v m)) →
      ∃ t, exec (.swrite h a e .upend) s = .next t ∧
        (t.sk c.grp c.skein).upend = (s.sk c.grp c.skein).upend &&& ~~~ ((v ((s.liveSk c.grp c.skein).headD 0)).setWidth 4) ∧
        (∀ m ∈ s.liveSk c.grp c.skein, (t.thr ⟨c.grp, m⟩).st = .running ∧ (t.thr ⟨c.grp, m⟩).pc = nextPc (s.thr c).pc) ∧
        ∀ a, Tab.get 0 t.mem a = Tab.get 0 s.mem a

namespace Sys2Proof

/-! ### Control and special registers -/

/-- The same as `Leads`, of an instruction after which every wait of other threads is looked at again. -/
def Wakes (u : State) (c : Cx) (pc : Dword) (o : Host.Outcome State Fault Refusal) : Prop :=
  ∃ t, o = .next (wake t) ∧ t.thr c = performedAt pc (u.thr c) ∧ Alone u t c

/-- R63: a transfer of control to `tgt` passes its check, which leaves the state u. -/
structure Checked (s u : State) (c : Cx) (h : Hdr) (srcs : List Src) (tgt : Dword) : Prop where
  calm : s.svc = false ∧ u.svc = false
  passes : checkTarget (starting s c h srcs) c tgt = (u, none)

/-- R124: the enrolment an ENR makes before the transfer. -/
def enrols (f : F3) (c : Cx) (u : State) : State :=
  if f.enr then enrolLane u c.grp c.skein f.j.toNat c.lane else u

/-- R124: the target of a BRX, relative or absolute. -/
def brxTarget (s : State) (c : Cx) (rel : Bool) (f : F3) : Dword :=
  if rel then slotPc (slotNumber (s.thr c).pc + f.disp.toInt + (rd32 s c 0 f.a).toInt) else rd64 s c f.a

end Sys2Proof

/-- R124, R125: a branch, call or return whose target passes its check goes there, enrols its lane where it says so, and
a call writes the PC after it to its link. R63, R420: a transfer to a PC that names no slot, or to a slot whose
ENTRY bit is clear in the line the core holds, is a target event; to a slot whose bit is set it passes, and changes
nothing but what the fetch of the line changes; a line that fails its parity is no evidence of the bit and passes (log 102).
R75, R125: a call with an s pair as its link completes when the
whole skein has arrived: the pair takes the PC after the call, and every participant goes on at its own target. -/
def Obligations.ControlTransfers : Prop :=
  (
    ∀ (s u : State) (c : Cx) (h : Hdr) (f : F3),
      (Ready s c h [] [] → Checked s u c h [] (branchTarget (s.thr c).pc f.disp) →
        Leads (enrols f c u) c (branchTarget (s.thr c).pc f.disp) (exec (.bra h f) s)) ∧
      (∀ rel : Bool, Ready s c h [⟨f.a, if rel then 1 else 2, false⟩] [] →
        Checked s u c h [⟨f.a, if rel then 1 else 2, false⟩] (brxTarget s c rel f) →
        Leads (enrols f c u) c (brxTarget s c rel f) (exec (.brx h rel f) s)) ∧
      (Ready s c h [] [(f.a, 2)] → isS f.a = false → Checked s u c h [] (branchTarget (s.thr c).pc f.disp) →
        Leads (wr64 (enrols f c u) c f.a (nextPc (s.thr c).pc)) c (branchTarget (s.thr c).pc f.disp) (exec (.call h f) s)) ∧
      (∀ link : Opd, Ready s c h [⟨f.a, 2, false⟩] [(link, 2)] → isS link = false →
        Checked s u c h [⟨f.a, 2, false⟩] (rd64 s c f.a) →
        Leads (wr64 (enrols f c u) c link (nextPc (s.thr c).pc)) c (rd64 s c f.a) (exec (.callx h link f) s)) ∧
      ∀ a : Opd, Ready s c h [⟨a, 2, false⟩] [] → Checked s u c h [⟨a, 2, false⟩] (rd64 s c a) →
        Leads u c (rd64 s c a) (exec (.ret h a) s)) ∧
  (
    ∀ (s : State) (c : Cx) (pc : Dword),
      (namesSlot pc = false → checkTarget s c pc = (s, some { code := 0x102, arg := 0, addr := pc.toNat, synd := 0 })) ∧
      ∀ (u : State) (l : BitVec 512), namesSlot pc = true → fetchLine s c (lineOf pc) = (u, .ok l) →
        checkTarget s c pc = (u, if !lineGood l || (l.extractLsb' 480 32).getLsbD (pc.toNat % 8) then none
          else some { code := 0x102, arg := 0, addr := pc.toNat, synd := 0 })) ∧
  (
    ∀ (s u : State) (c : Cx) (h : Hdr) (f : F3) (link : BitVec 6) (tgt : Nat → Dword), Last s c →
      Others s c (fun m => .sreg (.s link) true (nextPc (s.thr c).pc) (tgt m) (if f.enr then some f.j.toNat else none) none) →
      ∀ i srcs, ((i = .call h f ∧ f.a = .s link ∧ srcs = [] ∧ tgt c.n = branchTarget (s.thr c).pc f.disp) ∨
          (i = .callx h (.s link) f ∧ srcs = [⟨f.a, 2, false⟩] ∧ tgt c.n = rd64 s c f.a)) →
        Ready s c h srcs [(.s link, 2)] → Checked s u c h srcs (tgt c.n) →
        ∃ t, exec i s = .next t ∧ Dword.mk (t.sreg c.grp c.skein (link.toNat + 1)) (t.sreg c.grp c.skein link.toNat) = nextPc (s.thr c).pc ∧
          ∀ m ∈ s.liveSk c.grp c.skein, (t.thr ⟨c.grp, m⟩).st = .running ∧ (t.thr ⟨c.grp, m⟩).pc = tgt m ∧
            (t.thr ⟨c.grp, m⟩).g = (s.thr ⟨c.grp, m⟩).g ∧ (t.thr ⟨c.grp, m⟩).p = (s.thr ⟨c.grp, m⟩).p)

/-- R38 to R40, R126, R127, R132, R133, R138: NOP does nothing; YIELD sets the yield counter; ENROL enrols its lane; a
JOIN of a register in which no lane is enrolled passes on, and one by the last enrolled lane to arrive releases them
all; a NAP of no cycles and a WAITTL of a count that is reached pass on, and others wait. That a NAP counts steps of
the model is the model's choice (log 12). -/
def Obligations.RejoinYieldAndWaits : Prop :=
  ∀ (s : State) (c : Cx) (h : Hdr),
    (Ready s c h [] [] →
      Moves s c h [] (fun t => t) (exec (.nop h) s) ∧
      (∀ e n, Moves s c h [] (fun t => { t with yc := n.toNat, lasty := t.pc, yielded := true }) (exec (.yield h e n) s)) ∧
      ∀ j, Leads (enrolLane (starting s c h []) c.grp c.skein j.toNat c.lane) c (nextPc (s.thr c).pc) (exec (.enrol h j) s) ∧
        (Tab.get 0 (s.sk c.grp c.skein).enrolled j.toNat = 0 →
          Moves s c h [] (fun t => { t with yc := 4095, lasty := t.pc }) (exec (.join h j) s)) ∧
        (((threadsOf s c.grp).map (·.1)).Pairwise (· < ·) → (Tab.get 0 (s.sk c.grp c.skein).enrolled j.toNat).getLsbD c.lane = true →
          (∀ m ∈ s.liveSk c.grp c.skein, m ≠ c.n →
            (s.thr ⟨c.grp, m⟩).st = .waiting (.join j.toNat) ∧
              (Tab.get 0 (s.sk c.grp c.skein).arrived j.toNat).getLsbD (m % 64) = true) →
          ∃ t, exec (.join h j) s = .next t ∧ Tab.get 0 (t.sk c.grp c.skein).enrolled j.toNat = 0 ∧
            ∀ m ∈ s.liveSk c.grp c.skein, (t.thr ⟨c.grp, m⟩).st = .running ∧
              (t.thr ⟨c.grp, m⟩).pc = nextPc (s.thr ⟨c.grp, m⟩).pc ∧ (t.thr ⟨c.grp, m⟩).yc = 4095)) ∧
    (∀ (a : Opd) (e : Bool) (imm : BitVec 16), Ready s c h [⟨a, 1, e⟩] [] →
      let n := min 65535 ((rd32 s c 0 a).toNat + imm.toNat)
      (n = 0 → Moves s c h [⟨a, 1, e⟩] (fun t => t) (exec (.nap h a e imm) s)) ∧
      (n ≠ 0 → Holds (starting s c h [⟨a, 1, e⟩]) c (.nap (s.cycle + n)) (exec (.nap h a e imm) s))) ∧
    ∀ (tc : BitVec 3) (a : Opd) (e : Bool) (sc : Scope) (imm : BitVec 32), Ready s c h [⟨a, 2, e⟩] [] →
      (c.grp.cslot s).eng tc.toNat = true →
      let thr := (rd64 s c a + imm.zeroExtend 64).toNat
      (thr ≤ completedOf s c tc.toNat → Leads ((applyOrder (starting s c h [⟨a, 2, e⟩]) c .acquire sc).modThr c
          fun t => { t with yc := 4095, lasty := t.pc }) c (nextPc (s.thr c).pc) (exec (.waittl h tc a e sc imm) s)) ∧
      (completedOf s c tc.toNat < thr →
        Holds (starting s c h [⟨a, 2, e⟩]) c (.tl tc.toNat thr sc) (exec (.waittl h tc a e sc imm) s))

/-- R128: EXIT ends its thread, which leaves its trap handler's count, and with the last thread of its skein the access
slice ends. R134, R49: RETU goes to the PC in SR.EPC with the thread outside its handler, and the last to leave it
unmasks the skein; RETU to no slot is a target event. -/
def Obligations.EndsAndReturns : Prop :=
  (
    ∀ (s : State) (c : Cx) (h : Hdr) (e : BitVec 3), Ready s c h [] [] → c.grp.isAct = false →
      ∃ t, exec (.exit h e) s = .next t ∧ (t.thr c).st = .gone ∧ (t.thr c).exitPc = (s.thr c).pc ∧
        (t.thr c).icount = (s.thr c).icount + 1 ∧
        (t.sk c.grp c.skein).inside = (s.sk c.grp c.skein).inside - (if (s.thr c).due || (s.thr c).vectored then 1 else 0) ∧
        (s.liveSk c.grp c.skein = [c.n] → (t.sk c.grp c.skein).slice.active = false) ∧
        (∀ m, m ≠ c.n → (s.thr ⟨c.grp, m⟩).st = .running → t.thr ⟨c.grp, m⟩ = s.thr ⟨c.grp, m⟩) ∧
        ∀ a, Tab.get 0 t.mem a = Tab.get 0 s.mem a) ∧
  (
    ∀ (s : State) (c : Cx) (h : Hdr) (e : BitVec 3), Ready s c h [] [] →
      (namesSlot (s.thr c).epc = true →
        ∃ t, exec (.retu h e) s = .next t ∧ (t.thr c).pc = (s.thr c).epc ∧ (t.thr c).st = .running ∧
          (t.thr c).vectored = false ∧ (t.thr c).intrap = false ∧ (t.thr c).g = (s.thr c).g ∧ (t.thr c).p = (s.thr c).p ∧
          (t.thr c).epc = (s.thr c).epc ∧
          (t.sk c.grp c.skein).inside = (s.sk c.grp c.skein).inside - (if (s.thr c).vectored then 1 else 0) ∧
          (t.sk c.grp c.skein).masked =
            (if (s.thr c).vectored && decide ((s.sk c.grp c.skein).inside ≤ 1) then false else (s.sk c.grp c.skein).masked) ∧
          ∀ a, Tab.get 0 t.mem a = Tab.get 0 s.mem a) ∧
      (namesSlot (s.thr c).epc = false → exec (.retu h e) s = .next (takeEvents s c.grp
        [(c.n, { code := 0x102, arg := 0, addr := (s.thr c).epc.toNat, synd := 0 })])))

namespace Sys2Proof

/-- An arrival of c at a barrier lets nothing else of its skein complete: its block stands, no thread of the skein
waits in a rendezvous, and every rejoin register with a lane enrolled still lacks one. -/
structure Calm (s : State) (c : Cx) : Prop where
  stands : (s.blk (c.grp.block s)).st ≠ .absent
  alone : ∀ m ∈ s.liveSk c.grp c.skein, rdvOf (s.thr ⟨c.grp, m⟩) = none
  lacks : ∀ j, j < 8 → Tab.get 0 (s.sk c.grp c.skein).enrolled j ≠ 0 → ∃ m ∈ s.liveSk c.grp c.skein,
    (Tab.get 0 (s.sk c.grp c.skein).enrolled j).getLsbD (m % 64) = true ∧
      (Tab.get 0 (s.sk c.grp c.skein).arrived j).getLsbD (m % 64) = false

end Sys2Proof

/-- R129, R130: the last thread of a block to arrive at BAR, or of a gang to arrive at BARG, releases every one that
waits; a thread arriving at BARW waits for the launch. -/
def Obligations.Barriers : Prop :=
  ∀ (s : State) (c : Cx) (h : Hdr) (e : BitVec 3), Ready s c h [] [] → heldBy s c = false →
    (((threadsOf s c.grp).map (·.1)).Pairwise (· < ·) →
      (∀ m ∈ s.live c.grp, m ≠ c.n → (s.thr ⟨c.grp, m⟩).st = .waiting .bar) →
      ∃ t, exec (.bar h e) s = .next t ∧
        (∀ m ∈ s.live c.grp, (t.thr ⟨c.grp, m⟩).st = .running ∧ (t.thr ⟨c.grp, m⟩).pc = nextPc (s.thr ⟨c.grp, m⟩).pc ∧
          (t.thr ⟨c.grp, m⟩).yc = 4095 ∧ (t.thr ⟨c.grp, m⟩).g = (s.thr ⟨c.grp, m⟩).g) ∧
        ∀ a, Tab.get 0 t.mem a = Tab.get 0 s.mem a) ∧
    (∀ b, c.grp = .blk b → (s.blk b).st ≠ .absent → (c.grp.launch s).k ≠ 0 → c.grp.rollback s = false →
      (s.blocks.map (·.1)).Pairwise (· < ·) →
      (∀ g ∈ gangOf s b, ((threadsOf s (.blk g)).map (·.1)).Pairwise (· < ·) ∧
        ∀ m ∈ s.live (.blk g), (⟨.blk g, m⟩ : Cx) ≠ c → (s.thr ⟨.blk g, m⟩).st = .waiting .barg) →
      ∃ t, exec (.barg h e) s = .next t ∧
        (∀ g ∈ gangOf s b, ∀ m ∈ s.live (.blk g), (t.thr ⟨.blk g, m⟩).st = .running ∧
          (t.thr ⟨.blk g, m⟩).pc = nextPc (s.thr ⟨.blk g, m⟩).pc ∧ (t.thr ⟨.blk g, m⟩).yc = 4095 ∧
          (t.thr ⟨.blk g, m⟩).g = (s.thr ⟨.blk g, m⟩).g) ∧
        ∀ a, Tab.get 0 t.mem a = Tab.get 0 s.mem a) ∧
    (c.grp.isAct = false → (c.grp.launch s).resident = true → c.grp.rollback s = false → Calm s c →
      Holds (clampScope (starting s c h []) c .wafer) c .barw (exec (.barw h e) s))

namespace Sys2Proof

/-- R86: the values of the special registers of a thread. -/
def specialValue (s : State) (c : Cx) : SReg → Dword
  | .wid => wid s c
  | .lane => .ofNat 64 c.lane
  | .skein => .ofNat 64 c.skein
  | .block => (s.blk (c.grp.block s)).ident
  | .field => .ofNat 64 (c.grp.core s / 192)
  | .core => .ofNat 64 (c.grp.core s)
  | .cmpt => .ofNat 64 (c.grp.cslot s).ctxid
  | .launch => .ofNat 64 (c.grp.launch s).lnum
  | .clock => s.clock
  | .time => .ofNat 64 s.time
  | .status => .ofNat 64 ((s.thr c).clamp.toNat + 2 * (c.grp.launch s).det.toNat + 4 * (c.grp.launch s).replays.toNat +
      8 * (c.grp.cslot s).drain.toNat + 16 * (c.grp.launch s).prio + 64 * (c.grp.cslot s).priv)
  | .hvec => (s.sk c.grp c.skein).hvec
  | .epc => (s.thr c).epc
  | .upend => (s.sk c.grp c.skein).upend.zeroExtend 64
  | .seed => (c.grp.launch s).seed
  | .icount => (s.thr c).icount
  | .ycount => .ofNat 64 ((s.thr c).yc - 1)
  | .lasty => (s.thr c).lasty
  | .umask => if (s.sk c.grp c.skein).masked then 1 else 0
  | .gregs => .ofNat 64 (c.grp.launch s).g
  | .levels => .ofNat 64 (c.grp.launch s).levels
  | .gtsel => (s.thr c).gtsel.zeroExtend 64
  | .gtdata => Tab.get 0 (s.part (c.grp.cslot s).part).gates
      (4 * ((s.thr c).gtsel.toNat % 256) + (s.thr c).gtsel.toNat / 256)

/-- A special register's value as SREAD delivers it: a pair or 32 bits. -/
def takesSpecial (d : Opd) (r : SReg) (v : Dword) : Thread → Thread :=
  if r.wide then takes64 d v else takes32 d v.lo

end Sys2Proof

/-- R86, R87, R136: SREAD delivers each special register's value; SR.TIME is the device's time, and a thread's count of
instructions leaves out the SREAD itself. SR.CLOCK is the count of the core's cycles, from 0 at start-up. The passing of
SR.TIME is free (log 11). -/
def Obligations.SpecialReads : Prop :=
  ∀ (s : State) (c : Cx) (h : Hdr) (d : Opd) (e : Bool) (r : SReg), Ready s c h [] [(d, if r.wide then 2 else 1)] → isS d = false →
    (r ≠ .clock → r ≠ .time → Moves s c h [] (takesSpecial d r (specialValue s c r)) (exec (.sread h d e r) s)) ∧
    ((c.grp.launch s).logOn = 0 → Moves s c h [] (takesSpecial d r (specialValue s c r)) (exec (.sread h d e r) s))

/-- R136, R296: SWRITE clears SCOPECLAMP, sets SR.EPC, and from privilege 1 selects and writes gate entries of its own
virtual function; a write of a read-only register changes nothing. From privilege 0 a write of SR.GTSEL or SR.GTDATA
is the privilege event. -/
def Obligations.SpecialWrites : Prop :=
  ∀ (s : State) (c : Cx) (h : Hdr) (a : Opd) (e : Bool) (r : SReg), Ready s c h [⟨a, if r.wide then 2 else 1, e⟩] [] →
    let srcs : List Src := [⟨a, if r.wide then 2 else 1, e⟩]
    let v : Dword := if r.wide then rd64 s c a else (rd32 s c 0 a).zeroExtend 64
    (r = .status → Moves s c h srcs (fun t => if v.getLsbD 0 then { t with clamp := false } else t) (exec (.swrite h a e r) s)) ∧
    (r = .epc → Moves s c h srcs (fun t => { t with epc := v }) (exec (.swrite h a e r) s)) ∧
    (r = .gtsel → 1 ≤ (c.grp.cslot s).priv →
      Moves s c h srcs (fun t => { t with gtsel := v.setWidth 10 }) (exec (.swrite h a e r) s)) ∧
    (r = .gtdata → 1 ≤ (c.grp.cslot s).priv → gateForeign s c = false →
      Leads (writeGate (starting s c h srcs) (c.grp.cslot s).part ((s.thr c).gtsel.toNat % 256) ((s.thr c).gtsel.toNat / 256)
        (c.grp.cslot s).vf v) c (nextPc (s.thr c).pc) (exec (.swrite h a e r) s)) ∧
    (r = .gtsel ∨ r = .gtdata → (c.grp.cslot s).priv = 0 →
      exec (.swrite h a e r) s = .next (takeEvents s c.grp [(c.n, { code := 0x111, arg := 4, addr := 0, synd := 1 })])) ∧
    (r ∉ [SReg.status, .epc, .gtsel, .gtdata, .hvec, .upend] → Moves s c h srcs (fun t => t) (exec (.swrite h a e r) s))

namespace Sys2Proof

/-- The state in which the trap of a TRAP is taken: the instruction has issued and its thread stands at the next slot. -/
def afterTrap (s : State) (c : Cx) (h : Hdr) : State :=
  countPick s ((starting s c h []).setThr c (performedAt (nextPc (s.thr c).pc) ((starting s c h []).thr c))) c.grp [c.n]

end Sys2Proof

/-- R134, R137, R406, R407: TRAP completes by stopping its thread at the next instruction: where the skein has a handler,
the record is in the thread-local window, SR.EPC is the PC after the TRAP, and the thread goes on at the slot after
SR.HVEC; where it has none, the thread stops with the event and its block is asked to halt. BKPT completes: where
breakpoints are enabled its thread stops at the BKPT; else it does nothing and the thread goes on. Where the record of a
TRAP stands against checkpoints is a reading (log 44). -/
def Obligations.TrapsAndBreakpoints : Prop :=
  ∀ (s : State) (c : Cx) (h : Hdr) (e : Bool) (code : BitVec 32), Ready s c h [] [] →
    (s.svc = false → c.grp.rollback s = false → handlerRefuses s c = none → ∀ v : State,
      takeTrap (afterTrap s c h) c { code := 0x106, arg := code.toNat, addr := 0, synd := 0 } 1 = (v, .handler) → v.svc = false →
      exec (.trap h e code) s = .next v ∧ (v.thr c).epc = nextPc (s.thr c).pc ∧
        (v.thr c).pc = nextPc (s.sk c.grp c.skein).hvec ∧ (v.thr c).intrap = true ∧ (v.thr c).st = .running ∧
        (v.thr c).g = (s.thr c).g ∧ (v.thr c).p = (s.thr c).p) ∧
    (s.svc = false → c.grp.rollback s = false → (s.sk c.grp c.skein).hvec = 0 →
      ∃ t, exec (.trap h e code) s = .next t ∧ (t.thr c).pc = nextPc (s.thr c).pc ∧ (t.thr c).g = (s.thr c).g ∧
        (t.thr c).stop = some { code := 0x106, arg := code.toNat, addr := 0, synd := 0 } ∧
        (∀ b, c.grp = .blk b → (s.blk b).halted = false → (t.blk b).park = haltFirst (s.blk b).park)) ∧
    ((s.ctx (c.grp.ctx s)).bken = false ∨ (s.thr c).skipBp = true →
      Moves s c h [] (fun t => t) (exec (.bkpt h e code) s)) ∧
    ((s.ctx (c.grp.ctx s)).bken = true → (s.thr c).skipBp = false →
      ∃ t, exec (.bkpt h e code) s = .next t ∧ (t.thr c).pc = (s.thr c).pc ∧ (t.thr c).icount = (s.thr c).icount ∧
        ((t.thr c).stop.map fun x => (x.code, x.addr)) = some (debugCode 0 0, code.toNat) ∧
        (∀ b, c.grp = .blk b → (s.blk b).halted = false → (t.blk b).park = haltFirst (s.blk b).park))

namespace Sys2Proof

/-! ### Results for a skein -/

/-- An instruction of a thread and the value it computes for D: its header, D, its sources and destinations,
whether D is a pair, the value, and the predicate it also writes. -/
inductive Computes (s : State) (c : Cx) :
    Instr → Hdr → Opd → List Src → List (Opd × Nat) → Bool → Dword → Option (BitVec 4 × Bool) → Prop where
  | int (i h f g) : intValue i = some (h, f, g) →
      Computes s c i h f.d (f0Srcs f 1 1 1) [(f.d, 1)] false ((g (valA s c f) (valB s c f) (valC s c f)).zeroExtend 64) none
  | float (i h f g) : floatValue i = some (h, f, g) →
      Computes s c i h f.d (f0Srcs f 1 1 1) [(f.d, 1)] false ((g (Machine.rndOf s c) (valA s c f) (valB s c f) (valC s c f)).zeroExtend 64) none
  | late (i h f g) : lateValue i = some (h, f, g) →
      Computes s c i h f.d (f0Srcs f 1 1 1) [(f.d, 1)] false ((g (Machine.rndOf s c) (valA s c f) (valB s c f)).zeroExtend 64) none
  | div (i h f g) : divValue i = some (h, f, g) →
      Computes s c i h f.d (f0Srcs f 1 1 1) [(f.d, 1)] false ((g (valA s c f) (valB s c f)).zeroExtend 64) none
  | shift (i h w f g) : shiftValue i = some (h, w, f, g) →
      Computes s c i h f.d (f0Srcs f 1 1 1) [(f.d, 1)] false
        ((g (valA s c f) (shiftCountOf 32 w (zImm f (valB s c f)))).zeroExtend 64) none
  | iaddc (h f co t) : t = (valA s c f).toNat + (sImm f (valB s c f)).toNat + (rdP s c f.c).toNat →
      Computes s c (.iaddc h co f) h f.d (f0Srcs f 1 1 1) [(f.d, 1), (.p co, 1)] false ((BitVec.ofNat 32 t).zeroExtend 64)
        (some (co, decide (2 ^ 32 ≤ t)))
  | isubb (h f co) (t : Int) : t = (valA s c f).toNat - (sImm f (valB s c f)).toNat - (rdP s c f.c).toNat →
      Computes s c (.isubb h co f) h f.d (f0Srcs f 1 1 1) [(f.d, 1), (.p co, 1)] false ((BitVec.ofInt 32 t).zeroExtend 64)
        (some (co, decide (t < 0)))
  | iset (h f k r) : (r = true ↔ icmpTest k (valA s c f) (icmpImm k f (valB s c f))) →
      Computes s c (.iset h k f) h f.d (f0Srcs f 1 1 1) [(f.d, 1)] false (if r then 1 else 0) none
  | iset64 (h f k r) : (r = true ↔ icmpTest k (rd64 s c f.a) (icmpImm64 k f (rd64 s c f.b))) →
      Computes s c (.iset64 h k f) h f.d (f0Srcs f 2 2 1) [(f.d, 1)] false (if r then 1 else 0) none
  | isel (h f) :
      Computes s c (.isel h f) h f.d (f0Srcs f 1 1 1) [(f.d, 1)] false
        ((if rdP s c f.c then valA s c f else sImm f (valB s c f)).zeroExtend 64) none
  | fset (h f k z) :
      Computes s c (.fset h k z f) h f.d (f0Srcs f 1 1 1) [(f.d, 1)] false
        (if fcmp k (f32In z (valA s c f)) (f32In z (immW f (valB s c f))) then 1 else 0) none
  | dset (h f k) :
      Computes s c (.dset h k f) h f.d (f0Srcs f 2 2 1) [(f.d, 1)] false
        (if fcmp k (fp64.decode (rd64 s c f.a).toNat) (fp64.decode (rd64 s c f.b).toNat) then 1 else 0) none
  | fclass (h f k) : k ≠ .f64 →
      Computes s c (.fclass h k f) h f.d (f0Srcs f 1 1 1) [(f.d, 1)] false
        (.ofNat 64 (2 ^ fclassOf (classFl k) ((valA s c f).toNat % 2 ^ (classFl k).bits))) none
  | dclass (h f) :
      Computes s c (.fclass h .f64 f) h f.d (f0Srcs f 2 1 1) [(f.d, 1)] false (.ofNat 64 (2 ^ fclassOf fp64 (rd64 s c f.a).toNat)) none
  | pmov (h f) : (∀ n, 0 < n → n < 16 → predOwed (s.thr c) n = false) →
      Computes s c (.pmov h false f) h f.d (f0Srcs f 1 1 1) [(f.d, 1)] false (((s.thr c).p ||| 1).zeroExtend 64) none
  | wide (i h f g) : wideValue i = some (h, f, g) →
      Computes s c i h f.d (f0Srcs f 2 2 1) [(f.d, 2)] true (g (rd64 s c f.a) (rd64 s c f.b)) none
  | shift64 (i h w f g) : shiftValue64 i = some (h, w, f, g) →
      Computes s c i h f.d (f0Srcs f 2 1 1) [(f.d, 2)] true (g (rd64 s c f.a) (shiftCountOf 64 w (zImm f (valB s c f)))) none
  | mov64 (h f) : (∀ n, f.a = .tc n → (c.grp.cslot s).eng n.toNat = true) →
      Computes s c (.mov h true f) h f.d (f0Srcs f 2 1 1) [(f.d, 2)] true (rd64 s c f.a) none
  | movs64 (h f) : Computes s c (.movs h true f) h f.d (f0Srcs f 2 1 1) [(f.d, 2)] true (rd64 s c f.a) none
  | movi (h d imm) : Computes s c (.movi h false d imm) h d [] [(d, 1)] false (imm.zeroExtend 64) none
  | movi64 (h d imm) : Computes s c (.movi h true d imm) h d [] [(d, 2)] true (imm.signExtend 64) none
  | lea (h f scale iu) :
      Computes s c (.lea h scale iu f) h f.d (f0Srcs f 2 1 1) [(f.d, 2)] true (rd64 s c f.a +
        ((if iu then (valB s c f).zeroExtend 64 else (valB s c f).signExtend 64) <<< scale.toNat) + f.imm.signExtend 64) none
  | double (i h f g) : doubleValue i = some (h, f, g) →
      Computes s c i h f.d (f0Srcs f 2 2 2) [(f.d, 2)] true (g (Machine.rndOf s c) (rd64 s c f.a) (rd64 s c f.b) (rd64 s c f.c)) none
  | cvt (h f r df sf v) : v = Machine.cvt r (Machine.rndOf s c) df sf (if sf.wide then rd64 s c f.a else (valA s c f).zeroExtend 64) →
      Computes s c (.cvt h r df sf f) h f.d (f0Srcs f (if sf.wide then 2 else 1) 1 1) [(f.d, if df.wide then 2 else 1)] df.wide
        (if df.wide then v else v.lo.zeroExtend 64) none
  | sread (h d e r) : r ≠ .clock → r ≠ .time →
      Computes s c (.sread h d e r) h d [] [(d, if r.wide then 2 else 1)] r.wide
        (if r.wide then specialValue s c r else (specialValue s c r).lo.zeroExtend 64) none
  | time (h d e) : (c.grp.launch s).logOn = 0 →
      Computes s c (.sread h d e .time) h d [] [(d, 2)] true (specialValue s c .time) none
  | clock (h d e) : (c.grp.launch s).logOn = 0 →
      Computes s c (.sread h d e .clock) h d [] [(d, 2)] true (specialValue s c .clock) none

end Sys2Proof

/-- R75: an instruction with an s destination completes when the whole skein has arrived: the register, or the pair,
takes the value of the lowest lane, each participant's predicate its own carry, and every participant goes on at the
next slot. -/
def Obligations.UniformResults : Prop :=
  ∀ (s : State) (c : Cx) (i : Instr) (h : Hdr) (n : BitVec 6) (srcs : List Src) (dsts : List (Opd × Nat)) (w64 : Bool) (v : Nat → Dword)
    (pw : Nat → Option (BitVec 4 × Bool)), Last s c → Computes s c i h (.s n) srcs dsts w64 (v c.n) (pw c.n) → Ready s c h srcs dsts →
    Others s c (fun m => .sreg (.s n) w64 (v m) (nextPc (s.thr c).pc) none (pw m)) →
    ∃ t, exec i s = .next t ∧
      t.sreg c.grp c.skein n.toNat = (v ((s.liveSk c.grp c.skein).headD 0)).lo ∧
      (w64 = true → t.sreg c.grp c.skein (n.toNat + 1) = (v ((s.liveSk c.grp c.skein).headD 0)).hi) ∧
      (∀ k, k ≠ n.toNat → (w64 = true → k ≠ n.toNat + 1) → t.sreg c.grp c.skein k = s.sreg c.grp c.skein k) ∧
      (∀ m ∈ s.liveSk c.grp c.skein, (t.thr ⟨c.grp, m⟩).st = .running ∧ (t.thr ⟨c.grp, m⟩).pc = nextPc (s.thr c).pc ∧
        (t.thr ⟨c.grp, m⟩).g = (s.thr ⟨c.grp, m⟩).g ∧
        (t.thr ⟨c.grp, m⟩).p = (match pw m with
          | some (p, b) => setPred (s.thr ⟨c.grp, m⟩).p p.toNat b
          | none => (s.thr ⟨c.grp, m⟩).p)) ∧
      ∀ a, Tab.get 0 t.mem a = Tab.get 0 s.mem a

/-- R149: REDUX combines the values of all participants, SCAN those of the lanes up to or below each one's. R149, R75:
REDUX with an s destination leaves the combination there, once for the skein. -/
def Obligations.ReductionsAndScans : Prop :=
  (
    ∀ (s : State) (c : Cx) (h : Hdr) (f : F0) (op : Rop) (a : Nat → Word), Last s c → isS f.d = false →
      Ready s c h (f0Srcs f 1 1 1) [(f.d, 1)] → a c.n = valA s c f →
      (Others s c (fun m => .redux f.d op (a m)) →
        Meets s c h (f0Srcs f 1 1 1) [(f.d, 1)] (.redux f.d op (a c.n))
          (fun _ => takes32 f.d ((s.liveSk c.grp c.skein).foldl (fun x m => ropApply op x (a m)) (ropIdentity op)))
          (exec (.redux h op f) s)) ∧
      ∀ excl : Bool, Others s c (fun m => .scan f.d op excl (a m)) →
        Meets s c h (f0Srcs f 1 1 1) [(f.d, 1)] (.scan f.d op excl (a c.n))
          (fun m => takes32 f.d (((s.liveSk c.grp c.skein).filter fun n => if excl then n % 64 < m % 64 else n % 64 ≤ m % 64).foldl
            (fun x n => ropApply op x (a n)) (ropIdentity op)))
          (exec (.scan h op excl f) s)) ∧
  (
    ∀ (s : State) (c : Cx) (h : Hdr) (f : F0) (op : Rop) (a : Nat → Word) (n : BitVec 6), Last s c → f.d = .s n →
      Ready s c h (f0Srcs f 1 1 1) [(f.d, 1)] → a c.n = valA s c f → Others s c (fun m => .redux f.d op (a m)) →
      ∃ t, exec (.redux h op f) s = .next t ∧
        t.sreg c.grp c.skein n.toNat = (s.liveSk c.grp c.skein).foldl (fun x m => ropApply op x (a m)) (ropIdentity op) ∧
        (∀ k, k ≠ n.toNat → t.sreg c.grp c.skein k = s.sreg c.grp c.skein k) ∧
        (∀ m ∈ s.liveSk c.grp c.skein, (t.thr ⟨c.grp, m⟩).st = .running ∧ (t.thr ⟨c.grp, m⟩).pc = nextPc (s.thr c).pc ∧
          (t.thr ⟨c.grp, m⟩).g = (s.thr ⟨c.grp, m⟩).g ∧ (t.thr ⟨c.grp, m⟩).p = (s.thr ⟨c.grp, m⟩).p) ∧
        ∀ a, Tab.get 0 t.mem a = Tab.get 0 s.mem a)

namespace Sys2Proof

/-! ### Memory -/

/-- The sources of the loads, and of the stores. -/
def ldSrcs (f : F2) (n : Nat) : List Src := [⟨f.a, n, f.ea⟩, ⟨f.b, 1, f.ea⟩]
def stSrcs (d : Opd) (f : F2) (n : Nat) : List Src := [⟨f.a, n, f.ea⟩, ⟨f.b, 1, f.ea⟩, ⟨d, groupRegs (width f.size), f.ed⟩]

/-- R215: the address of a load or store, of its source values. -/
def ea (s : State) (c : Cx) (f : F2) (srcs : List Src) : Nat :=
  (ea2 f ((rdSrcs s c srcs).getD 0 0) ((rdSrcs s c srcs).getD 1 0).lo).toNat

/-- R216: the same in the scratchpad. -/
def eaScratch (s : State) (c : Cx) (f : F2) (srcs : List Src) : Nat :=
  (eaS f ((rdSrcs s c srcs).getD 0 0).lo ((rdSrcs s c srcs).getD 1 0).lo).toNat

/-- What a load leaves when it has been performed: its marks on the copies it has read (R187, R191), and its order
carried (R213). -/
def loaded (s : State) (c : Cx) (f : F2) (va : Nat) (u : State) : State :=
  applyOrder (noteLoad u c (threadAgent s c) f va) c f.order f.scope

/-- What a store leaves when it has been performed: its hint noted (R191) and its order carried (R213). -/
def accessed (s : State) (c : Cx) (f : F2) (va : Nat) (u : State) : State :=
  applyOrder (noteHint u (threadAgent s c) va (width f.size) f.hint) c f.order f.scope

/-- An instruction stops its thread with an event and has no effect (R405). -/
def Raises (s : State) (c : Cx) (e : Ev) (o : Host.Outcome State Fault Refusal) : Prop :=
  o = guarded (fun s => takeEvents s c.grp [(c.n, e)]) s

/-- R178 to R184: an access of n bytes in one line whose page the wafer's translation holds, resident in this
device's memory at physical address `pa`, and permitted. -/
structure Mapped (s : State) (ag : Agent) (a : Acc) (va n : Nat) (ent : TlbEnt) (pa : Nat) : Prop where
  ordinary : inTlWindow va = false ∧ roPageOf va = none
  canonical : va < 2 ^ 57
  bound : va / 2 ^ 55 % 4 = 0 ∨ ag.av / 2 ^ (va / 2 ^ 55 % 4) % 2 = 1
  live : (s.asid (ag.asids.getD (va / 2 ^ 55 % 4) 0)).live = true
  translated : Tab.find s.tlb (tlbKey (ag.asids.getD (va / 2 ^ 55 % 4) 0) va) = some ent
  at_ : pa = leafPa s ag.core (ag.asids.getD (va / 2 ^ 55 % 4) 0) va ent
  permits : lacking s ag a (va / 2 ^ 55 % 4) pa n ent.leaf = 0
  resident : leafKind ent.leaf = 2 ∧ leafMk ent.leaf ≠ 2 ∧ pa / 2 ^ 46 ≠ 63
  line : 0 < n ∧ va % 128 + n ≤ 128

/-- The location of an address of an agent. -/
def locOf (ag : Agent) (va : Nat) : Nat := ag.asids.getD (va / 2 ^ 55 % 4) 0 * 2 ^ 55 + va % 2 ^ 55

/-- A home write of a line goes straight to its home: no write of it is held, and no open level needs a
shadow of it (R206, R447). -/
structure Direct (s : State) (loc pa mk : Nat) : Prop where
  free : ∀ h ∈ s.held, h.pa ≠ pa / 128 * 128
  bare : s.shadowNeed loc pa mk = none

/-- An uncached access of a class 0 line finds no dirty byte of it in its own cluster, which would be written back
first. -/
def Clean (s : State) (ag : Agent) (va ty : Nat) (ent : TlbEnt) : Prop :=
  leafCc ent.leaf = 0 → ty = 3 → ∀ cl, ag.cluster = some cl → (s.copyAt cl (locOf ag va)).dirty = 0

/-- A byte of memory at a. -/
def byteAt (s : State) (a : Nat) : Byte := Tab.get 0 s.mem a

/-- Bytes `bs` at pa, and elsewhere what `t` holds. -/
def Holding (t : State) (pa : Nat) (bs : List Byte) (s : State) : Prop :=
  ∀ a, byteAt s a = if pa ≤ a ∧ a < pa + bs.length then bs.getD (a - pa) 0 else byteAt t a

end Sys2Proof

/-- R215, R189, R405: LD writes the bytes at its address to its register group; where a page of it is not resident it
writes zeros and sets its RESP predicate; where the address check fails it has no effect but the event. -/
def Obligations.Loads : Prop :=
  ∀ (s u : State) (c : Cx) (h : Hdr) (d : Opd) (f : F2), Ready s c h (ldSrcs f 2) [(d, groupRegs (width f.size))] →
    s.svc = false → u.svc = false → watchAt s c (ea s c f (ldSrcs f 2)) (width f.size) true false = none →
    let va := ea s c f (ldSrcs f 2)
    let got := loadAt (starting s c h (ldSrcs f 2)) (threadAgent s c) va (width f.size) f.ty.toNat (f.hint != .noAllocate)
    (∀ bs, got = (u, .bytes bs) → Leads (loaded s c f va (landGroup u c d (wordsOf (width f.size) bs))) c (nextPc (s.thr c).pc)
      (exec (.ld h d f) s)) ∧
    (got = (u, .absent) → Leads (loaded s c f va (wrLateP (landGroup u c d (List.replicate (groupRegs (width f.size)) 0)) c
      f.resp.toNat true)) c (nextPc (s.thr c).pc) (exec (.ld h d f) s)) ∧
    (∀ bs fs, got = (u, .far bs fs) → Leads (loaded s c f va (awaitPeers u c d (wordsOf (width f.size) bs) fs)) c
      (nextPc (s.thr c).pc) (exec (.ld h d f) s)) ∧
    ∀ e, got = (u, .ev e) → Raises s c e (exec (.ld h d f) s)

/-- R215, R189, R405: ST stores its register group at its address; where a page of it is not resident nothing is stored
and its RESP predicate is set; where the address check fails it has no effect but the event. -/
def Obligations.Stores : Prop :=
  ∀ (s u : State) (c : Cx) (h : Hdr) (d : Opd) (f : F2), Ready s c h (stSrcs d f 2) [] →
    s.svc = false → u.svc = false → watchAt s c (ea s c f (stSrcs d f 2)) (width f.size) false true = none →
    (ordReleases f.order = true → heldBy s c = false) → (endsInterval f.order f.scope = true → c.grp.rollback s = false) →
    let va := ea s c f (stSrcs d f 2)
    let bs := bytesOf (width f.size) (rdGroup s c d (groupRegs (width f.size)))
    let did := storeTo (starting s c h (stSrcs d f 2)) (actAgent s c) va f.ty.toNat (f.hint != .noAllocate) true bs
    (did = (u, .done) → Wakes (accessed s c f va (progress u (c.grp.block s))) c (nextPc (s.thr c).pc) (exec (.st h d f) s)) ∧
    (did = (u, .absent) → Wakes (accessed s c f va (wrLateP u c f.resp.toNat true)) c (nextPc (s.thr c).pc) (exec (.st h d f) s)) ∧
    (∀ fs, did = (u, .far fs) → Wakes (accessed s c f va (progress (sendWrites u (actAgent s c).vf (c.grp.block s) c.n bs fs)
      (c.grp.block s))) c (nextPc (s.thr c).pc) (exec (.st h d f) s)) ∧
    ∀ e, did = (u, .ev e) → exec (.st h d f) s = guarded (fun s => wake (takeEvents s c.grp [(c.n, e)])) s

/-- R187, R191, R202, R215: what an access to a translated page of this device's memory reads, a block's provisional
bytes apart: memory, for a line of class 1 or 2; for one of class 0 the cluster's copy if it has one, else memory or
a copy that an L2 slice on the way still holds; and it changes no byte of memory. An uncached read of class 0 reads
memory, after the dirty bytes of its own cluster's copy have been written back there.
R187, R202, R215: a store to a translated page of this device's memory. Written through by a thread of a drain-mode
block or an activation, its bytes are in memory at the address translated, and every other byte of memory is as
before but the page's D bit; an uncached one to class 0 leaves its cluster no copy, and what dirty bytes that had are
written back with it; written to a class 0 line, they are in the cluster's copy, the line dirty and the page's D bit
set when the copy came to be owned; by a thread of a rollback-mode block, they are provisional. In the last two cases
no other byte of memory changes. An unlisted byte reads zero and writes of classes 1 and 2 are seen at once by the
model's choice (log 1, 25, 26). -/
def Obligations.PageAccesses : Prop :=
  (
    ∀ (s : State) (ag : Agent) (va n ty : Nat) (keep : Bool) (ent : TlbEnt) (pa : Nat), Mapped s ag Acc.read va n ent pa →
      (∀ b, ag.blk = some b → (s.blk b).prov = []) →
      ∃ u bs, loadAt s ag va n ty keep = (u, .bytes bs) ∧ u.svc = s.svc ∧ u.blocks = s.blocks ∧ u.acts = s.acts ∧
        (leafCc ent.leaf ≠ 0 ∨ ag.cluster = none → bs = Tab.getRun 0 s.mem pa n ∧ u.mem = s.mem) ∧
        ∀ cl, leafCc ent.leaf = 0 → ag.cluster = some cl →
          (ty ≠ 3 → u.mem = s.mem ∧ ∃ d, bs = (d.drop (va % 128)).take n ∧
            match (s.copyAt cl (locOf ag va)).data with
            | some x => d = x
            | none => d = Tab.getRun 0 s.mem (pa / 128 * 128) 128 ∨
                ∃ l x, Tab.find s.fab.l2 (l2Key (cl / 48) l (locOf ag va)) = some x ∧ x.data = some d) ∧
          (ty = 3 → bs = Tab.getRun 0 u.mem pa n ∧
            ((s.copyAt cl (locOf ag va)).dirty = 0 → u.mem = s.mem) ∧
            ((s.copyAt cl (locOf ag va)).dirty ≠ 0 → Direct s (locOf ag va / 128 * 128) (pa / 128 * 128) (leafMk ent.leaf) →
              ∀ a, byteAt u a =
                match (if pa / 128 = a / 128 ∧ (s.copyAt cl (locOf ag va)).dirty.getLsbD (a % 128) = true then
                  (s.copyAt cl (locOf ag va)).data.bind (·[a % 128]?) else none) with
                | some x => x
                | none => byteAt (s.markDirty (locOf ag va / 128 * 128)) a))) ∧
  (
    ∀ (s : State) (ag : Agent) (va ty : Nat) (keep : Bool) (bs : List Byte) (ent : TlbEnt) (pa : Nat),
      Mapped s ag Acc.write va bs.length ent pa →
      (ag.blk = none → Direct s (locOf ag va) pa (leafMk ent.leaf) →
        (¬ (leafCc ent.leaf = 0 ∧ ty = 0 ∧ keep = true) → Clean s ag va ty ent →
          ∃ u, storeTo s ag va ty keep true bs = (u, .done) ∧ Holding (s.markDirty (locOf ag va)) pa bs u) ∧
        (leafCc ent.leaf = 0 → ty = 3 → Direct s (locOf ag va / 128 * 128) (pa / 128 * 128) (leafMk ent.leaf) →
          ∃ u, storeTo s ag va ty keep true bs = (u, .done) ∧
            (∀ i, i < bs.length → byteAt u (pa + i) = bs.getD i 0) ∧
            ∀ cl, ag.cluster = some cl → (u.copyAt cl (locOf ag va)).data = none) ∧
        ∀ cl, ag.cluster = some cl → leafCc ent.leaf = 0 → ty = 0 → keep = true →
          ∃ u d, storeTo s ag va ty keep true bs = (u, .done) ∧
            u.mem = (if (s.copyAt cl (locOf ag va)).st = 2 then s else s.markDirty (locOf ag va)).mem ∧
            (u.copyAt cl (locOf ag va)).st = 2 ∧
            (u.copyAt cl (locOf ag va)).data = some (patch d (va % 128) bs) ∧
            match (s.copyAt cl (locOf ag va)).data with
            | some x => d = x
            | none => d = Tab.getRun 0 s.mem (pa / 128 * 128) 128 ∨
                ∃ l x, Tab.find s.fab.l2 (l2Key (cl / 48) l (locOf ag va)) = some x ∧ x.data = some d) ∧
      ∀ b, ag.blk = some b → provFits s b [⟨va, bs.length, ag.asids.getD (va / 2 ^ 55 % 4) 0, pa, ent.leaf, none⟩] = true →
        ∃ u, storeTo s ag va ty keep true bs = (u, .done) ∧ u.mem = s.mem ∧
          ∀ a, Tab.find (u.blk b).prov a = if locOf ag va ≤ a ∧ a < locOf ag va + bs.length
            then some (bs.getD (a - locOf ag va) 0) else Tab.find (s.blk b).prov a)

/-- The frame of ST: to a translated page of this device's memory, written through by a thread of a drain-mode block or
an activation, it changes no register and no byte of memory but those it stores, at the address translated from its
own, and the page's D bit; an uncached one, while its cluster holds no dirty byte of the line. Writes of classes 1 and
2 reach memory at once by the model's choice (log 25, 26). -/
def Obligations.StoreFrame : Prop :=
  ∀ (s : State) (c : Cx) (h : Hdr) (d : Opd) (f : F2) (ent : TlbEnt) (pa : Nat), Ready s c h (stSrcs d f 2) [] →
    s.svc = false → watchAt s c (ea s c f (stSrcs d f 2)) (width f.size) false true = none →
    (ordReleases f.order = true → heldBy s c = false) → c.grp.isAct || !c.grp.rollback s →
    (endsInterval f.order f.scope = true → c.grp.rollback s = false) →
    Mapped s (threadAgent s c) Acc.write (ea s c f (stSrcs d f 2)) (width f.size) ent pa →
    Direct s (locOf (threadAgent s c) (ea s c f (stSrcs d f 2))) pa (leafMk ent.leaf) →
    ¬ (leafCc ent.leaf = 0 ∧ f.ty = 0 ∧ f.hint ≠ .noAllocate) →
    Clean s (threadAgent s c) (ea s c f (stSrcs d f 2)) f.ty.toNat ent →
    ∃ t, exec (.st h d f) s = .next t ∧
      Holding (s.markDirty (locOf (threadAgent s c) (ea s c f (stSrcs d f 2)))) pa
        (bytesOf (width f.size) (rdGroup s c d (groupRegs (width f.size)))) t ∧
      (t.thr c).g = (s.thr c).g ∧ (t.thr c).p = (s.thr c).p ∧ (t.thr c).pc = nextPc (s.thr c).pc ∧
      (∀ m, m ≠ c.n → (s.thr ⟨c.grp, m⟩).st = .running → t.thr ⟨c.grp, m⟩ = s.thr ⟨c.grp, m⟩)

namespace Sys2Proof

/-- The atomics on global memory: what each does, and whether it returns the old value (R220, R222). -/
def atomicOf : Instr → Option (Hdr × FA × AtomKind × Bool)
  | .atom h o f => some (h, f, .aop o, false)
  | .cas h f => some (h, f, .cas, false)
  | .cas128 h f => some (h, f, .cas, false)
  | .red h o f => some (h, f, .aop o, true)
  | _ => none

/-- Their sources and destination. -/
def atomSrcs (f : FA) (k : AtomKind) : List Src :=
  let n := groupRegs (width f.size)
  [⟨f.a, 2, f.e.getLsbD 0⟩, ⟨f.b, n, f.e.getLsbD 1⟩] ++ (match k with | .cas => [⟨f.c, n, f.e.getLsbD 2⟩] | .aop _ => [])

/-- The registers of a thread, the bits that mark them empty and the values owed to them, once a group has been
written late (R81). -/
def landedIn (s : State) (c : Cx) (d : Opd) (ws : List Word) : Tab Word × Tab Bool × List Owed :=
  let t := (landGroup s c d ws).thr c
  (t.g, t.empty, t.owed)

def atomDsts (f : FA) (red : Bool) : List (Opd × Nat) := if red then [] else [(f.d, groupRegs (width f.size))]

/-- R220: the address of an atomic. -/
def eaAtom (s : State) (c : Cx) (f : FA) (k : AtomKind) : Nat := (eaA f ((rdSrcs s c (atomSrcs f k)).getD 0 0)).toNat

/-- The bytes of an operand of an atomic. -/
def atomBytes (s : State) (c : Cx) (o : Opd) (f : FA) : List Byte := bytesOf (width f.size) (rdGroup s c o (groupRegs (width f.size)))

end Sys2Proof

/-- R220 to R223: ATOM, CAS, CAS128 and RED at an aligned address of a translated page of this device's memory, by a
thread of a drain-mode block or an activation: the new value is in memory, every other byte of memory is as before
but the page's D bit, and the old value is written, late, to D. A CAS that finds another value stores nothing (the
page's D bit apart, where it has taken ownership). Of a class 0 line no dirty byte stands in the cluster. R220,
R432: an atomic at an address that is not a multiple of its size is the alignment event, with no effect. Writes
reach memory at once by the model's choice (log 25, 26); when the old value lands is free (log 6). -/
def Obligations.Atomics : Prop :=
  (
    ∀ (s : State) (c : Cx) (i : Instr) (h : Hdr) (f : FA) (k : AtomKind) (red : Bool) (ent : TlbEnt) (pa : Nat),
      atomicOf i = some (h, f, k, red) → Ready s c h (atomSrcs f k) (atomDsts f red) → s.svc = false →
      (red = true → f.d = .z) → i.wf = true →
      eaAtom s c f k % width f.size = 0 → watchAt s c (eaAtom s c f k) (width f.size) true true = none →
      (ordReleases f.order = true → heldBy s c = false) → c.grp.rollback s = false → (c.grp.launch s).logOn = 0 →
      Mapped s (threadAgent s c) { r := true, w := true, x := false, remoteOk := k.remoteOk (width f.size) red }
        (eaAtom s c f k) (width f.size) ent pa →
      Direct s (locOf (threadAgent s c) (eaAtom s c f k)) pa (leafMk ent.leaf) →
      Clean s (threadAgent s c) (eaAtom s c f k) 3 ent →
      let old := Tab.getRun 0 s.mem pa (width f.size)
      ∃ t, exec i s = .next t ∧ (t.thr c).pc = nextPc (s.thr c).pc ∧ (t.thr c).p = (s.thr c).p ∧
        ((t.thr c).g, (t.thr c).empty, (t.thr c).owed) = landedIn s c f.d (wordsOf (width f.size) old) ∧
        (match k.new old (atomBytes s c f.b f) (atomBytes s c f.c f) with
          | some new => Holding (s.markDirty (locOf (threadAgent s c) (eaAtom s c f k))) pa new t
          | none => t.mem = s.mem ∨ t.mem = (s.markDirty (locOf (threadAgent s c) (eaAtom s c f k))).mem)) ∧
  (
    ∀ (s : State) (c : Cx) (i : Instr) (h : Hdr) (f : FA) (k : AtomKind) (red : Bool),
      atomicOf i = some (h, f, k, red) → Ready s c h (atomSrcs f k) (atomDsts f red) → s.svc = false →
      eaAtom s c f k % width f.size ≠ 0 →
      exec i s = guarded (fun s => wake (takeEvents s c.grp
        [(c.n, { code := 0x108, arg := 0, addr := eaAtom s c f k, synd := width f.size })])) s)

namespace Sys2Proof

/-- R193: the range an activation may address lies in the banks its compartment's slot holds, and is not empty of
banks. -/
def SpaceHeld (s : State) (g : Grp) : Prop :=
  match g with
  | .act n => 0 < popcount (s.cslot (s.actv n).core (s.actv n).slot).spMask 32 ∧
      (s.actv n).spBase + (s.actv n).spLen ≤ 2 ^ 14 * popcount (s.cslot (s.actv n).core (s.actv n).slot).spMask 32
  | .blk _ | .slice _ _ => True

/-- R193, R216: bytes of the scratchpad that the group may address, at an aligned address. -/
def InScratch (s : State) (g : Grp) (a n : Nat) : Prop := a % n = 0 ∧ a + n ≤ scratchLen s g ∧ SpaceHeld s g

end Sys2Proof

/-- R216, R220: LDS, STS and ATOMS: aligned accesses within the declared scratchpad read and write its bytes, those of
no other address, and no byte of memory. R193, R216, R432: the checks of a scratchpad address, alignment first: LDS
has no effect but the event. -/
def Obligations.ScratchpadAccesses : Prop :=
  (
    (∀ (s : State) (c : Cx) (h : Hdr) (d : Opd) (f : F2), Ready s c h (ldSrcs f 1) [(d, groupRegs (width f.size))] →
      InScratch s c.grp (eaScratch s c f (ldSrcs f 1)) (width f.size) →
      Leads (applyOrder (landGroup (starting s c h (ldSrcs f 1)) c d
        (wordsOf (width f.size) ((List.range (width f.size)).map fun i => scratchByte s c.grp (eaScratch s c f (ldSrcs f 1) + i))))
        c f.order .block) c (nextPc (s.thr c).pc) (exec (.lds h d f) s)) ∧
    (∀ (s : State) (c : Cx) (h : Hdr) (d : Opd) (f : F2), Ready s c h (stSrcs d f 1) [] →
      InScratch s c.grp (eaScratch s c f (stSrcs d f 1)) (width f.size) → (ordReleases f.order = true → heldBy s c = false) →
      ∃ t, exec (.sts h d f) s = .next t ∧ (t.thr c).pc = nextPc (s.thr c).pc ∧ (t.thr c).g = (s.thr c).g ∧
        (t.thr c).p = (s.thr c).p ∧ t.mem = s.mem ∧
        let at_ := eaScratch s c f (stSrcs d f 1)
        let bs := bytesOf (width f.size) (rdGroup s c d (groupRegs (width f.size)))
        ∀ a, scratchByte t c.grp a = if at_ ≤ a ∧ a < at_ + bs.length then bs.getD (a - at_) 0 else scratchByte s c.grp a) ∧
    ∀ (s : State) (c : Cx) (h : Hdr) (o : Aop) (f : FA),
      let srcs : List Src := [⟨f.a, 1, f.e.getLsbD 0⟩, ⟨f.b, groupRegs (width f.size), f.e.getLsbD 1⟩]
      let at_ := (((rdSrcs s c srcs).getD 0 0).lo + f.imm.signExtend 32).toNat
      let old := (List.range (width f.size)).map fun i => scratchByte s c.grp (at_ + i)
      let new := aopBytes o (width f.size) old (atomBytes s c f.b f)
      Ready s c h srcs [(f.d, groupRegs (width f.size))] → InScratch s c.grp at_ (width f.size) →
      (ordReleases f.order = true → heldBy s c = false) → (c.grp.launch s).logOn = 0 →
      ∃ t, exec (.atoms h o f) s = .next t ∧ (t.thr c).pc = nextPc (s.thr c).pc ∧ (t.thr c).p = (s.thr c).p ∧ t.mem = s.mem ∧
        ((t.thr c).g, (t.thr c).empty, (t.thr c).owed) = landedIn s c f.d (wordsOf (width f.size) old) ∧
        ∀ a, scratchByte t c.grp a = if at_ ≤ a ∧ a < at_ + new.length then new.getD (a - at_) 0 else scratchByte s c.grp a) ∧
  (
    ∀ (s : State) (c : Cx) (h : Hdr) (d : Opd) (f : F2), Ready s c h (ldSrcs f 1) [(d, groupRegs (width f.size))] →
      let a := eaScratch s c f (ldSrcs f 1)
      (a % width f.size ≠ 0 → exec (.lds h d f) s = .next (takeEvents s c.grp
        [(c.n, { code := 0x108, arg := 0, addr := a, synd := width f.size })])) ∧
      (a % width f.size = 0 → scratchLen s c.grp < a + width f.size → exec (.lds h d f) s = .next (takeEvents s c.grp
        [(c.n, { code := 0x112, arg := 0, addr := a, synd := c.grp.slot s })])))

/-- R217, R224 to R226, R334: a fence waits while a write of its thread is held or unacknowledged, and then carries its
order and no more; a hint acts on copies of lines and its thread goes on; cache maintenance writes back and drops
copies and its thread goes on, always where no level of speculation is open, else but for an event of the home;
QFENCE in the execute slice is counted. -/
def Obligations.FencesAndMaintenance : Prop :=
  ∀ (s : State) (c : Cx) (h : Hdr) (d : Opd) (f : F2), s.svc = false →
    (Ready s c h [] [] → heldBy s c = false → (f.scope ≠ .block → c.grp.rollback s = false) →
      Leads (applyOrder (starting s c h []) c f.order f.scope) c (nextPc (s.thr c).pc) (exec (.fence h d f) s)) ∧
    (Ready s c h [] [] → heldBy s c = true → (f.scope ≠ .block → c.grp.rollback s = false) →
      ∃ t, exec (.fence h d f) s = .next t ∧ (t.thr c).st = .waiting (.retry .heldLine) ∧ (t.thr c).pc = (s.thr c).pc ∧
        (t.thr c).icount = (s.thr c).icount ∧ Alone s t c) ∧
    (Ready s c h [] [] → Wakes ((starting s c h []).modThr c fun t => { t with qfences := t.qfences + 1 }) c
      (nextPc (s.thr c).pc) (exec (.qfence h d f) s)) ∧
    (Ready s c h [⟨f.a, 2, f.ea⟩] [] →
      let s1 := starting s c h [⟨f.a, 2, f.ea⟩]
      let lines := spanLines f (rd64 s c f.a)
      Leads (prefLines s1 c f true lines) c (nextPc (s.thr c).pc) (exec (.pref h d f) s) ∧
      Leads (prefLines s1 c f false lines) c (nextPc (s.thr c).pc) (exec (.reside h d f) s) ∧
      ((∀ e ∈ s.ctxs, e.2.levels = []) →
        Leads (maintain s1 c true lines).1 c (nextPc (s.thr c).pc) (exec (.cinv h d f) s) ∧
        Leads (maintain s1 c false lines).1 c (nextPc (s.thr c).pc) (exec (.cwb h d f) s)) ∧
      ∀ (drop : Bool) (u : State),
        let i : Instr := if drop then .cinv h d f else .cwb h d f
        (maintain s1 c drop lines = (u, none) → Leads u c (nextPc (s.thr c).pc) (exec i s)) ∧
        ∀ e, maintain s1 c drop lines = (u, some e) → exec i s = guarded (fun s => takeEvents s c.grp [(c.n, e)]) s)

namespace Sys2Proof

/-- The pick is one thread of a block or activation that runs and has no stop kept for it. -/
structure Comes (s : State) (c : Cx) : Prop where
  pick : s.pick = { grp := c.grp, thrs := [c.n] }
  execute : c.grp.isSlice = false
  running : (s.thr c).st = .running
  free : (s.thr c).stop = none

/-- An instruction that answers an event of its thread, and has no other effect. -/
def Stops (s : State) (c : Cx) (e : Ev) (o : Host.Outcome State Fault Refusal) : Prop :=
  o = .next (takeEvents s c.grp [(c.n, e)])

/-- The registers an integer instruction names. -/
def namedRegs (f : F0) : List (Opd × Nat) := (f0Srcs f 1 1 1).map (fun x => (x.o, x.n)) ++ [(f.d, 1)]

end Sys2Proof

/-- R40, R71, R82, R83, R413, R417, R423 to R426: what comes before the effect of an instruction, in order, of the
instructions of IntegerResults: the yield overrun, the guard, the registers the launch has, a queue read inside an
activation (R298), empty registers. R94,
R417: below its lowest level an instruction is the privilege event with that level, and has no other effect. R54: a
fence of wider than block scope ends the interval of a rollback-mode block: its thread waits for the checkpoint it
asks for, and has issued nothing yet. Which scope decides R54 is a reading (log 34). -/
def Obligations.IssueChecks : Prop :=
  (
    ∀ (s : State) (c : Cx) (i : Instr) (h : Hdr) (f : F0) (v : Word → Word → Word → Word), intValue i = some (h, f, v) → Comes s c →
      (∀ k, (s.thr c).skipBp = false → breakpointAt s (c.grp.ctx s) (s.thr c).pc = some k →
        Stops s c { code := debugCode 1 k, arg := 0, addr := 0, synd := 0 } (exec i s)) ∧
      ((s.thr c).skipBp = true ∨ breakpointAt s (c.grp.ctx s) (s.thr c).pc = none → (s.thr c).yc = 0 →
        Stops s c { code := 0x301, arg := 0, addr := (s.thr c).lasty.toNat, synd := 0 } (exec i s)) ∧
      (boundaryEv s c = none →
        (predOwed (s.thr c) h.gp.toNat = true →
          exec i s = .next (s.modThr c fun t => { t with st := .waiting (.retry (.empty [128 + h.gp.toNat])) })) ∧
        (predOwed (s.thr c) h.gp.toNat = false →
          ((namedRegs f).any (aboveG (c.grp.regs s)) = true →
            Stops s c { code := 0x101, arg := 5, addr := 0, synd := slotLow i } (exec i s)) ∧
          ((namedRegs f).any (aboveG (c.grp.regs s)) = false →
            (guardOf h (s.thr c).p = false → Moves s c h [] (fun t => t) (exec i s)) ∧
            (guardOf h (s.thr c).p = true → ∀ a, c.grp = .act a → (∃ x ∈ f0Srcs f 1 1 1, ∃ q, x.o = .q q) →
              Stops s c (gateEv (s.actv a).gate 8) (exec i s)) ∧
            (guardOf h (s.thr c).p = true → (c.grp.isAct = true → ∀ x ∈ f0Srcs f 1 1 1, ∀ q, x.o ≠ .q q) →
              ((∃ x ∈ emptySrcs s c (f0Srcs f 1 1 1), x.e = false) ∨ dstEmpty (s.thr c) (f.d, 1) = true →
                exec i s = .next (s.modThr c fun t =>
                  { t with st := .waiting (.retry (.empty (needs s c (f0Srcs f 1 1 1) [(f.d, 1)] []))) })) ∧
              ∀ x l, emptySrcs s c (f0Srcs f 1 1 1) = x :: l → (∀ y ∈ x :: l, y.e = true) → dstEmpty (s.thr c) (f.d, 1) = false →
                (f0Srcs f 1 1 1).any (fun x => opdOwed (s.thr c) x.o) = false →
                Stops s c { code := 0x103, arg := 6, addr := 0, synd := x.o.code } (exec i s)))))) ∧
  (
    ∀ (s : State) (c : Cx) (h : Hdr), Stands s c h →
      let denied (n : Nat) : State := takeEvents s c.grp [(c.n, { code := 0x111, arg := 4, addr := 0, synd := n })]
      ((c.grp.cslot s).priv < 2 → (∀ d a b slot word, exec (.cpset h d a b slot word) s = .next (wake (denied 2))) ∧
        ∀ d b slot word, exec (.cpget h d b slot word) s = .next (denied 2)) ∧
      ((c.grp.cslot s).priv = 0 → (∀ all d a b x, exec (.tlbinv h all d a b x) s = .next (wake (denied 1))) ∧
        (∀ ro unb d a b slot, exec (.asidbind h ro unb d a b slot) s = .next (wake (denied 1))) ∧
        ∀ stay d a b, exec (.croll h stay d a b) s = .next (wake (denied 1)))) ∧
  (
    ∀ (s : State) (c : Cx) (h : Hdr) (d : Opd) (f : F2), Ready s c h [] [] → f.scope ≠ .block → c.grp.rollback s = true →
      ∃ t, exec (.fence h d f) s = .next t ∧ t.thr c = { s.thr c with st := .waiting (.interval (.fence h d f)) } ∧
        (t.blk (c.grp.block s)).park = (if (s.blk (c.grp.block s)).park = .none ∨ (s.blk (c.grp.block s)).park = .period then .interval
          else (s.blk (c.grp.block s)).park) ∧
        ∀ a, Tab.get 0 t.mem a = Tab.get 0 s.mem a)

namespace Sys2Proof

/-! ### Engine commands -/

/-- R204: the next number of an engine context of the thread's slot. -/
def nextNum (s : State) (c : Cx) (tc : Nat) : Nat := (s.tc (c.grp.core s) (c.grp.slot s) tc).issued + 1

/-- R246: an instruction issues a command: it answers a next state in which the command of that number has joined
the block's, the number is in D, the thread has gone on, and memory is `m`. `P` says what else holds of the state
and the command. -/
def IssuesCmd (s : State) (c : Cx) (h : Hdr) (srcs : List Src) (d : Opd) (tc : Nat) (k : CmdKind) (m : Memory)
    (o : Host.Outcome State Fault Refusal) (P : State → Cmd → Prop) : Prop :=
  ∃ t x, o = .next t ∧
    t.thr c = performedAt (nextPc (s.thr c).pc) (takes64 d (.ofNat 64 (nextNum s c tc)) ((starting s c h srcs).thr c)) ∧
    (t.blk (c.grp.block s)).body.cmds = (s.blk (c.grp.block s)).body.cmds ++ [x] ∧
    x.kind = k ∧ x.num = nextNum s c tc ∧ x.tc = tc ∧ x.thr = c.n ∧ x.pc = (s.thr c).pc ∧ x.started = false ∧
    x.fresh = (c.grp.rollback s && !c.grp.isAct) ∧
    (t.tc (c.grp.core s) (c.grp.slot s) tc).issued = nextNum s c tc ∧ t.mem = m ∧ P t x

/-- R247: an instruction issues a command that moves nothing, which completes at once: the number is in D, the thread
has gone on, the context's status is 0, no such command is open, and memory is as before. `P` says what else holds. -/
def EndsAtOnce (s : State) (c : Cx) (h : Hdr) (srcs : List Src) (d : Opd) (tc : Nat) (o : Host.Outcome State Fault Refusal)
    (P : State → Prop) : Prop :=
  ∃ t, o = .next t ∧
    t.thr c = performedAt (nextPc (s.thr c).pc) (takes64 d (.ofNat 64 (nextNum s c tc)) ((starting s c h srcs).thr c)) ∧
    (∀ y ∈ (t.blk (c.grp.block s)).body.cmds, y.tc = tc → y.key ≠ nextNum s c tc) ∧
    (Tab.get CtxStat.none (t.blk (c.grp.block s)).body.ctxStat tc).status = 0 ∧
    (t.tc (c.grp.core s) (c.grp.slot s) tc).issued = nextNum s c tc ∧ t.mem = s.mem ∧ P t

/-- R85, R204, R292: what an instruction that issues a command on a context needs beside its operands: the context is
enabled and has room, and no write of the thread's is held. -/
structure HasRoom (s : State) (c : Cx) (tc : Nat) : Prop where
  enabled : (c.grp.cslot s).eng tc = true
  room : s.tcOpen (c.grp.core s) (c.grp.slot s) tc < 16
  quiet : heldBy s c = false

/-- R292: a tile and a tensor identifier of the block's own. -/
def OwnTile (s : State) (c : Cx) (t : Nat) : Prop := t < tileCount s c.grp
def OwnTensor (s : State) (c : Cx) (x : Nat) : Prop := x < tensorCount s c.grp

/-- The tile, the tensor identifier's entry and the box that a shuttle instruction names. -/
def tileOf (s : State) (c : Cx) (t : Nat) : Tile := (s.blk (c.grp.block s)).body.tile t
def tensorOf (s : State) (c : Cx) (x : Nat) : Tid := (s.blk (c.grp.block s)).body.tid x
def boxOf (s : State) (c : Cx) (a : Opd) : Region := regionOf (rdGroup s c a 8)

/-- R255: the barrier operand of a fill: z, or an address of a barrier. -/
def BarrierOk (s : State) (c : Cx) (o : Opd) (v : Dword) : Prop := o = .z ∨ InScratch s c.grp v.lo.toNat 16

end Sys2Proof

/-- R47, R242 to R249: TLOAD by the producer skein, to an empty tile of the block's own that its box fits, fills the
tile from the tensor identifier's box; a box of no elements completes at once, the tile READY with no valid row. -/
def Obligations.TileLoads : Prop :=
  ∀ (s : State) (c : Cx) (h : Hdr) (nt : Bool) (mode : LoadMode) (d a b : Opd) (t : BitVec 6) (x : BitVec 8) (idx : BitVec 6)
    (ctx : BitVec 2), Ready s c h [⟨a, 8, false⟩, ⟨b, 1, false⟩] [(d, 2)] → c.grp.isAct = false → HasRoom s c ctx.toNat →
    c.skein = (c.grp.launch s).prod → OwnTile s c t.toNat → OwnTensor s c x.toNat → (tileOf s c t.toNat).st = .empty →
    (mode = .gather → OwnTile s c idx.toNat ∧ (tileOf s c idx.toNat).st = .ready) →
    (tensorOf s c x.toNat).valid = true → (mode = .conv → tdConv (tensorOf s c x.toNat).img = true) →
    BarrierOk s c b ((rdSrcs s c [⟨a, 8, false⟩, ⟨b, 1, false⟩]).getD 1 0) →
    let img := (tensorOf s c x.toNat).img
    let r := boxOf s c a
    tileBoxEv (tileOf s c t.toNat) img r (tdSwz img) (mode != .plain) = none →
    (r.box 0 = 0 → EndsAtOnce s c h [⟨a, 8, false⟩, ⟨b, 1, false⟩] d ctx.toNat (exec (.tload h nt mode d a b t x idx ctx) s) fun u =>
      (tileOf u c t.toNat).st = .ready ∧ (tileOf u c t.toNat).vrows = 0 ∧ ∀ k, k ≠ t.toNat → tileOf u c k = tileOf s c k) ∧
    (r.box 0 ≠ 0 → IssuesCmd s c h [⟨a, 8, false⟩, ⟨b, 1, false⟩] d ctx.toNat
      (.tload mode t.toNat img r (barOf b ((rdSrcs s c [⟨a, 8, false⟩, ⟨b, 1, false⟩]).getD 1 0))
        (if mode = .gather then indexWords (s.blk (c.grp.block s)).body (tileOf s c idx.toNat) else []))
      s.mem (exec (.tload h nt mode d a b t x idx ctx) s)
      fun u y => y.nt = nt ∧ y.left = List.range (boxRows r * sectorsOf (rowBytes (tdElem img).bits (r.box 0))) ∧
        (tileOf u c t.toNat).st = .filling ∧ (tileOf u c t.toNat).rx = false ∧ (tileOf u c t.toNat).swz = tdSwz img ∧
        (tileOf u c t.toNat).base = (tileOf s c t.toNat).base ∧ (tileOf u c t.toNat).gen = (tileOf s c t.toNat).gen ∧
        ∀ k, k ≠ t.toNat → tileOf u c k = tileOf s c k)

/-- R250, R251, R252: TSTORE drains a ready tile, TLOADB fills a buffer, TMCAST sends a box to the gang's blocks. R247:
each completes at once on a box of no elements: the tile of a TSTORE is READY again, or with no KEEP empty, and the
tiles armed for a TMCAST are READY with no valid row. -/
def Obligations.TileStoresAndMulticasts : Prop :=
  (∀ (s : State) (c : Cx) (h : Hdr) (nt keep : Bool) (d a : Opd) (t : BitVec 6) (x : BitVec 8) (ctx : BitVec 2),
    Ready s c h [⟨a, 8, false⟩] [(d, 2)] → c.grp.isAct = false → HasRoom s c ctx.toNat →
    c.skein = (c.grp.launch s).prod → OwnTile s c t.toNat → OwnTensor s c x.toNat → (tileOf s c t.toNat).st = .ready →
    (keep = false → (tileOf s c t.toNat).readers = 0) → (tensorOf s c x.toNat).valid = true →
    let img := (tensorOf s c x.toNat).img
    let r := boxOf s c a
    tileBoxEv (tileOf s c t.toNat) img r (tileOf s c t.toNat).swz false = none →
    (r.box 0 = 0 → s.svc = false → traceOn s (s.ctx (c.grp.launch s).ctx).vf 0 = false →
      EndsAtOnce s c h [⟨a, 8, false⟩] d ctx.toNat (exec (.tstore h nt keep d a t x ctx) s) fun u =>
        (tileOf u c t.toNat).st = (if keep then .ready else .empty) ∧ ∀ k, k ≠ t.toNat → tileOf u c k = tileOf s c k) ∧
    (r.box 0 ≠ 0 → IssuesCmd s c h [⟨a, 8, false⟩] d ctx.toNat (.tstore keep t.toNat img r) s.mem (exec (.tstore h nt keep d a t x ctx) s)
      fun u y => y.nt = nt ∧ y.left = List.range (boxRows r * sectorsOf (rowBytes (tdElem img).bits (r.box 0))) ∧
        (tileOf u c t.toNat).st = .draining ∧ (tileOf u c t.toNat).base = (tileOf s c t.toNat).base ∧
        ∀ k, k ≠ t.toNat → tileOf u c k = tileOf s c k)) ∧
  (∀ (s : State) (c : Cx) (h : Hdr) (nt : Bool) (d a b : Opd) (buf : BitVec 3) (x : BitVec 8) (ctx : BitVec 2),
    Ready s c h [⟨a, 8, false⟩, ⟨b, 1, false⟩] [(d, 2)] → c.grp.isAct = false → HasRoom s c ctx.toNat →
    c.skein = (c.grp.launch s).prod → (c.grp.launch s).matx = true → OwnTensor s c x.toNat → (tensorOf s c x.toNat).valid = true →
    let v := (rdSrcs s c [⟨a, 8, false⟩, ⟨b, 1, false⟩]).getD 1 0
    let img := (tensorOf s c x.toNat).img
    let r := boxOf s c a
    BarrierOk s c b v → bufBoxEv buf.toNat img r = none →
    (r.box 0 = 0 → EndsAtOnce s c h [⟨a, 8, false⟩, ⟨b, 1, false⟩] d ctx.toNat (exec (.tloadb h nt d a b buf x ctx) s) fun u =>
      ∀ k, tileOf u c k = tileOf s c k) ∧
    (r.box 0 ≠ 0 → IssuesCmd s c h [⟨a, 8, false⟩, ⟨b, 1, false⟩] d ctx.toNat (.tloadb buf.toNat img r (barOf b v)) s.mem
      (exec (.tloadb h nt d a b buf x ctx) s) fun u y => y.nt = nt ∧
        y.left = List.range (boxRows r * (sectorsOf (rowBytes (tdElem img).bits (r.box 0)) + sectorsOf (scaleBytes img (r.box 0)))) ∧
        ∀ k, tileOf u c k = tileOf s c k)) ∧
  ∀ (s : State) (c : Cx) (h : Hdr) (nt : Bool) (d a m b : Opd) (t : BitVec 6) (x : BitVec 8) (ctx : BitVec 2),
    let srcs : List Src := [⟨a, 8, false⟩, ⟨m, 2, false⟩, ⟨b, 1, false⟩]
    Ready s c h srcs [(d, 2)] → c.grp.isAct = false → HasRoom s c ctx.toNat →
    c.skein = (c.grp.launch s).prod → OwnTile s c t.toNat → OwnTensor s c x.toNat → (tensorOf s c x.toNat).valid = true →
    let v := (rdSrcs s c srcs).getD 2 0
    let img := (tensorOf s c x.toNat).img
    let r := boxOf s c a
    BarrierOk s c b v → wholeBytes (tdElem img).bits (r.box 0) = true → maskLegal s (c.grp.block s) (rd64 s c m).toNat = true →
    (r.box 0 = 0 → c.grp.rollback s = false → EndsAtOnce s c h srcs d ctx.toNat (exec (.tmcast h nt d a m b t x ctx) s) fun u =>
      ∀ e ∈ mcastBlocks s (c.grp.block s) (rd64 s c m).toNat, (s.blk e).st = .resident →
        ((s.blk e).body.tile t.toNat).armed = true → mcFits ((s.blk e).body.tile t.toNat) img r = true →
          ((u.blk e).body.tile t.toNat).st = .ready ∧ ((u.blk e).body.tile t.toNat).vrows = 0) ∧
    (r.box 0 ≠ 0 ∨ c.grp.rollback s = true → IssuesCmd s c h srcs d ctx.toNat (.tmcast t.toNat img r (rd64 s c m) (barOf b v)) s.mem (exec (.tmcast h nt d a m b t x ctx) s)
      fun u y => y.nt = nt ∧ y.heldCommit = c.grp.rollback s ∧
        y.mc.map (·.blk) = mcastBlocks s (c.grp.block s) (rd64 s c m).toNat ∧
        (∀ e ∈ y.mc, e.gen = none ∧ e.refused = false ∧ e.landed = 0) ∧ ∀ k, tileOf u c k = tileOf s c k)

/-- R239 to R245: XDEF writes a tensor identifier from the scratchpad with its code, XREAD reads it back, TALLOC defines
a tile, TFREE retires one, and TSTAT reads their words. R244, R417: an instruction that fills, uses or frees a tile:
which states of the tile let it go on, which it waits for, and which raise the tile state trap. -/
def Obligations.TensorsAndTiles : Prop :=
  (
    (∀ (s : State) (c : Cx) (h : Hdr) (d a : Opd) (x : BitVec 8), Ready s c h [⟨a, 1, false⟩] [(d, 1)] → isS d = false →
      c.grp.isAct = false → OwnTensor s c x.toNat →
      let at_ := ((rdSrcs s c [⟨a, 1, false⟩]).getD 0 0).toNat
      InScratch s c.grp at_ 64 →
      let img : BitVec 512 := .ofNat 512 (ofBytes ((List.range 64).map fun i => scratchByte s c.grp (at_ + i)))
      ∃ t, exec (.xdef h d a x) s = .next t ∧ (t.thr c).pc = nextPc (s.thr c).pc ∧
        (t.thr c).g = (takes32 d (.ofNat 32 (xdefCode img)) (s.thr c)).g ∧
        tensorOf t c x.toNat = { img := img, valid := xdefCode img == 0, code := xdefCode img } ∧
        (∀ k, k ≠ x.toNat → tensorOf t c k = tensorOf s c k) ∧ t.mem = s.mem) ∧
    (∀ (s : State) (c : Cx) (h : Hdr) (a : Opd) (x : BitVec 8), Ready s c h [⟨a, 1, false⟩] [] → c.grp.isAct = false →
      OwnTensor s c x.toNat →
      let at_ := ((rdSrcs s c [⟨a, 1, false⟩]).getD 0 0).toNat
      InScratch s c.grp at_ 64 →
      ∃ t, exec (.xread h a x) s = .next t ∧ (t.thr c).pc = nextPc (s.thr c).pc ∧ (t.thr c).g = (s.thr c).g ∧ t.mem = s.mem ∧
        ∀ k, scratchByte t c.grp k = if at_ ≤ k ∧ k < at_ + 64
          then .ofNat 8 ((tensorOf s c x.toNat).img.toNat / 256 ^ (k - at_)) else scratchByte s c.grp k) ∧
    (∀ (s : State) (c : Cx) (h : Hdr) (mode : AllocMode) (a b : Opd) (t : BitVec 6),
      let srcs : List Src := [⟨a, 1, false⟩, ⟨b, 1, false⟩]
      Ready s c h srcs [] → c.grp.isAct = false → OwnTile s c t.toNat → (tileOf s c t.toNat).st = .empty →
      let base := ((rdSrcs s c srcs).getD 0 0).toNat
      let geo := ((rdSrcs s c srcs).getD 1 0).toNat
      1 ≤ geo % 2 ^ 16 → geo % 2 ^ 16 ≤ 8192 → geo / 2 ^ 16 % 32 = 0 → 32 ≤ geo / 2 ^ 16 → geo / 2 ^ 16 ≤ 65504 → base % 64 = 0 →
      base + geo % 2 ^ 16 * (geo / 2 ^ 16) ≤ scratchLen s c.grp →
      ∃ u, exec (.talloc h mode a b t) s = .next u ∧ (u.thr c).pc = nextPc (s.thr c).pc ∧ (u.thr c).g = (s.thr c).g ∧
        u.mem = s.mem ∧ (tileOf u c t.toNat).base = base / 64 ∧ (tileOf u c t.toNat).rows = geo % 2 ^ 16 ∧
        (tileOf u c t.toNat).pitch = geo / 2 ^ 16 ∧
        (tileOf u c t.toNat).st = (match mode with | .plain => .empty | .rdy => .ready | .rx => .filling) ∧
        (mode = .rx → (tileOf u c t.toNat).rx = true) ∧ (∀ k, k ≠ t.toNat → tileOf u c k = tileOf s c k)) ∧
    (∀ (s : State) (c : Cx) (h : Hdr) (t : BitVec 6), Ready s c h [] [] → c.grp.isAct = false → OwnTile s c t.toNat →
      ((tileOf s c t.toNat).st = .ready ∧ (tileOf s c t.toNat).readers = 0 ∨
        (tileOf s c t.toNat).st = .filling ∧ (tileOf s c t.toNat).rx = true) →
      s.svc = false → traceOn s (s.ctx (c.grp.launch s).ctx).vf 0 = false →
      ∃ u, exec (.tfree h t) s = .next u ∧ (u.thr c).pc = nextPc (s.thr c).pc ∧ (u.thr c).g = (s.thr c).g ∧ u.mem = s.mem ∧
        (tileOf u c t.toNat).st = .empty ∧ (tileOf u c t.toNat).gen = ((tileOf s c t.toNat).gen + 1) % 256 ∧
        (tileOf u c t.toNat).base = (tileOf s c t.toNat).base ∧ (tileOf u c t.toNat).rows = (tileOf s c t.toNat).rows ∧
        (tileOf u c t.toNat).pitch = (tileOf s c t.toNat).pitch ∧ (∀ k, k ≠ t.toNat → tileOf u c k = tileOf s c k)) ∧
    ∀ (s : State) (c : Cx) (h : Hdr) (d : Opd) (sel : BitVec 2) (obj : BitVec 8), Ready s c h [] [(d, 2)] → isS d = false →
      c.grp.isAct = false → (sel.toNat < 2 → OwnTile s c obj.toNat) → (sel = 2 → (c.grp.cslot s).eng obj.toNat = true) →
      (sel = 3 → OwnTensor s c obj.toNat) →
      Leads (wr64 (starting s c h []) c d (.ofNat 64 (tstatValue s c sel.toNat obj.toNat))) c (nextPc (s.thr c).pc)
        (exec (.tstat h d sel obj) s)) ∧
  (
    ∀ x : Tile,
      (tileAsk x .fill = match x.st with | .empty => .go | .draining => .wait | .filling | .ready => .trap) ∧
      (tileAsk x .use = match x.st with | .empty => .trap | .filling => if x.rx then .trap else .wait | .ready => .go | .draining => .wait) ∧
      (tileAsk x .free = match x.st with
        | .empty => .trap
        | .filling => if x.rx then .go else .wait
        | .ready => if x.readers = 0 then .go else .wait
        | .draining => .wait))

/-- R255 to R257: TBINIT sets up a barrier; ARRIVE and EXPECT change its counts and deliver the phase before the change;
WAITPH of a phase that has ended passes on with a block-scope acquire, and of the current one waits. R255: the step of a barrier, of its
fields: the phase ends when both counts reach zero, and the arrivals of the next are the expected ones. -/
def Obligations.TransactionBarriers : Prop :=
  (
    ∀ (s : State) (c : Cx) (h : Hdr) (d a b : Opd), c.grp.isAct = false →
      let one : List Src := [⟨a, 1, false⟩]
      let two : List Src := [⟨a, 1, false⟩, ⟨b, 1, false⟩]
      let at_ := ((rdSrcs s c one).getD 0 0).toNat
      let bv := ((rdSrcs s c two).getD 1 0).toNat
      let w := ofBytes ((List.range 16).map fun i => scratchByte s c.grp (at_ + i))
      let Becomes (t : State) (v : Nat) : Prop := (t.thr c).pc = nextPc (s.thr c).pc ∧ t.mem = s.mem ∧
        ∀ k, scratchByte t c.grp k = if at_ ≤ k ∧ k < at_ + 16 then .ofNat 8 (v / 256 ^ (k - at_)) else scratchByte s c.grp k
      InScratch s c.grp at_ 16 →
      (∀ n : BitVec 16, Ready s c h two [] → let k := (bv + n.toNat) % 2 ^ 16
        ∃ t, exec (.tbinit h a b n) s = .next t ∧ Becomes t (2 ^ 16 * k + 2 ^ 32 * k) ∧ (t.thr c).g = (s.thr c).g) ∧
      (isS d = false → heldBy s c = false → ∀ n : BitVec 16, Ready s c h one [(d, 1)] →
        ∃ t, exec (.arrive h d a n) s = .next t ∧ Becomes t (barrierStep w (-n.toNat) 0) ∧
          (t.thr c).g = (takes32 d (.ofNat 32 (w % 16)) (s.thr c)).g) ∧
      (isS d = false → heldBy s c = false → ∀ (arv : Bool) (n : BitVec 32), Ready s c h two [(d, 1)] →
        ∃ t, exec (.expect h arv d a b n) s = .next t ∧
          Becomes t (barrierStep w (if arv then -1 else 0) ((bv + n.toNat) % 2 ^ 48 : Nat)) ∧
          (t.thr c).g = (takes32 d (.ofNat 32 (w % 16)) (s.thr c)).g) ∧
      ∀ ph : BitVec 4, Ready s c h two [] →
        (w % 16 ≠ (bv + ph.toNat) % 16 →
          Leads (applyOrder ((starting s c h two).modThr c fun t => { t with yc := 4095, lasty := t.pc }) c .acquire .block) c
            (nextPc (s.thr c).pc) (exec (.waitph h a b ph) s)) ∧
        (w % 16 = (bv + ph.toNat) % 16 →
          Holds (starting s c h two) c (.phase at_ ((bv + ph.toNat) % 16)) (exec (.waitph h a b ph) s))) ∧
  (
    ∀ (phase rest expd arr sec : Nat) (da ds : Int), phase < 16 → rest < 2 ^ 12 → expd < 2 ^ 16 → arr < 2 ^ 32 → sec < 2 ^ 48 →
      barrierStep (phase + 2 ^ 4 * rest + 2 ^ 16 * expd + 2 ^ 32 * arr + 2 ^ 64 * sec) da ds =
        if ((arr : Int) + da) % 2 ^ 32 = 0 ∧ ((sec : Int) + ds) % 2 ^ 48 = 0
        then (phase + 1) % 16 + 2 ^ 4 * rest + 2 ^ 16 * expd + 2 ^ 32 * expd
        else phase + 2 ^ 4 * rest + 2 ^ 16 * expd + 2 ^ 32 * (((arr : Int) + da) % 2 ^ 32).toNat +
          2 ^ 64 * (((sec : Int) + ds) % 2 ^ 48).toNat)

/-- R259 to R276: the matrix instructions of a block that holds the engine issue their commands; MREAD and MWRITE of an
accumulator on which nothing is outstanding act at once. -/
def Obligations.MatrixInstructions : Prop :=
  ∀ (s : State) (c : Cx) (h : Hdr) (d : Opd), c.grp.isAct = false → (c.grp.launch s).matx = true →
    (∀ (acc : BitVec 3) (ctx : Bool), Ready s c h [] [(d, 2)] → HasRoom s c (4 + ctx.toNat) →
      IssuesCmd s c h [] d (4 + ctx.toNat) (.mzero acc.toNat) s.mem (exec (.mzero h d acc ctx) s) (fun _ x => x.left = [0]) ∧
      IssuesCmd s c h [] d (4 + ctx.toNat) (.mprom acc.toNat) s.mem (exec (.mprom h d acc ctx) s) (fun _ x => x.left = [0])) ∧
    (∀ (sc : Bool) (t st : BitVec 6) (buf : BitVec 2) (ctx : Bool), Ready s c h [] [(d, 2)] → HasRoom s c (4 + ctx.toNat) →
      OwnTile s c t.toNat → (tileOf s c t.toNat).st = .ready →
      (sc = true → OwnTile s c st.toNat ∧ (tileOf s c st.toNat).st = .ready) →
      let z : Option Tile := if sc then some (tileOf s c st.toNat) else none
      let left := List.range ((tileOf s c t.toNat).rows * ((tileOf s c t.toNat).pitch / 32 +
        if sc then (tileOf s c st.toNat).pitch / 32 else 0))
      (mldOk buf.toNat (tileOf s c t.toNat) z = true →
        IssuesCmd s c h [] d (4 + ctx.toNat) (.mlda t.toNat (if sc then some st.toNat else none) buf.toNat) s.mem
          (exec (.mlda h d sc t st buf ctx) s) (fun u x => x.left = left ∧
            (t ≠ st → (tileOf u c t.toNat).readers = (tileOf s c t.toNat).readers + 1))) ∧
      (mldOk (4 + buf.toNat) (tileOf s c t.toNat) z = true →
        IssuesCmd s c h [] d (4 + ctx.toNat) (.mldb t.toNat (if sc then some st.toNat else none) (4 + buf.toNat)) s.mem
          (exec (.mldb h d sc t st buf ctx) s) (fun u x => x.left = left ∧
            (t ≠ st → (tileOf u c t.toNat).readers = (tileOf s c t.toNat).readers + 1)))) ∧
    (∀ (acc : BitVec 3) (b : Opd) (rm : Rm) (sat sc : Bool) (swz : BitVec 2) (t st : BitVec 6) (ofmt : Elem) (ctx : Bool),
      Ready s c h [⟨b, 1, false⟩] [(d, 2)] → HasRoom s c (4 + ctx.toNat) → OwnTile s c t.toNat →
      (tileOf s c t.toNat).st = .empty → (sc = true → OwnTile s c st.toNat ∧ (tileOf s c st.toNat).st = .empty) →
      let v := ((rdSrcs s c [⟨b, 1, false⟩]).getD 0 0).toNat
      let nr := mstaCount (v % 2 ^ 7)
      let nc := mstaCount (v / 2 ^ 8 % 2 ^ 7)
      mstaOk (tileOf s c t.toNat) (if sc then some (tileOf s c st.toNat) else none) nr nc ofmt swz.toNat = true →
      IssuesCmd s c h [⟨b, 1, false⟩] d (4 + ctx.toNat)
        (.msta acc.toNat nr nc rm sat swz.toNat t.toNat (if sc then some st.toNat else none) ofmt) s.mem
        (exec (.msta h d acc b rm sat sc swz t st ofmt ctx) s) fun u x =>
          x.left = List.range (nr * (sectorsOf (nc * ofmt.bits / 8) + if sc then 1 else 0)) ∧
          (tileOf u c t.toNat).st = .filling) ∧
    (∀ (acc : BitVec 3) (b e : Opd) (i : BitVec 12),
      let v := ((rdSrcs s c [⟨b, 1, false⟩]).getD 0 0).toNat
      let k := 4096 * acc.toNat + (v + i.toNat) % 4096
      accBusy (s.blk (c.grp.block s)).body acc.toNat = false →
      (Ready s c h [⟨b, 1, false⟩] [(d, 1)] → isS d = false →
        Moves s c h [⟨b, 1, false⟩] (takesLate s.lag d (Tab.get 0 (s.blk (c.grp.block s)).body.acc k)) (exec (.mread h d acc b i) s)) ∧
      (Ready s c h [⟨b, 1, false⟩, ⟨e, 1, false⟩] [] →
        ∃ t, exec (.mwrite h acc b e i) s = .next t ∧ (t.thr c).pc = nextPc (s.thr c).pc ∧ (t.thr c).g = (s.thr c).g ∧
          t.mem = s.mem ∧ ∀ j, Tab.get 0 (t.blk (c.grp.block s)).body.acc j =
            if j = k then ((rdSrcs s c [⟨b, 1, false⟩, ⟨e, 1, false⟩]).getD 1 0).lo else Tab.get 0 (s.blk (c.grp.block s)).body.acc j)) ∧
    ∀ (a : Opd) (imm : BitVec 32), Ready s c h [⟨a, 1, false⟩] [] →
      let at_ := (((rdSrcs s c [⟨a, 1, false⟩]).getD 0 0).lo + imm).toNat
      let p := pbAt s c at_
      InScratch s c.grp at_ 64 → HasRoom s c (4 + pbCtx p) →
      pbCondition (s.blk (c.grp.block s)).body (tensorCount s c.grp) p = 0 →
      ∃ t x, exec (.mma h a imm) s = .next t ∧ (t.thr c).pc = nextPc (s.thr c).pc ∧ (t.thr c).g = (s.thr c).g ∧ t.mem = s.mem ∧
        (t.blk (c.grp.block s)).body.cmds = (s.blk (c.grp.block s)).body.cmds ++ [x] ∧ x.tc = 4 + pbCtx p ∧
        x.num = nextNum s c (4 + pbCtx p) ∧
        x.kind = .mma at_ p (tensorOf s c (pbXa p)).img (tensorOf s c (pbXb p)).img ∧ x.left = [0] ∧
        ∀ k, scratchByte t c.grp k = if at_ + 16 ≤ k ∧ k < at_ + 24
          then .ofNat 8 (nextNum s c (4 + pbCtx p) / 256 ^ (k - at_ - 16)) else scratchByte s c.grp k

/-- R219, R246: FETCHPG of an address whose page check passes issues a command on tc7 that names the page's leaf. R341
to R343: RSUM of a legal descriptor in which the thread's cluster is one stop, with a ready source tile and, where
it receives, an empty result tile that hold its packets, joins its pass. Where a descriptor stands on a page that is
not resident is a reading (log 46). -/
def Obligations.PageFetchesAndRingSums : Prop :=
  (
    ∀ (s u : State) (c : Cx) (h : Hdr) (d : Opd) (f : F2) (ps : List Piece), Ready s c h [⟨f.a, 2, f.ea⟩] [(d, 2)] →
      (c.grp.cslot s).eng 7 = true → heldBy s c = false → s.svc = false → u.svc = false →
      resolve (starting s c h [⟨f.a, 2, f.ea⟩]) (threadAgent s c) Acc.read (rd64 s c f.a + f.off.signExtend 64).toNat 1 = (u, .ok ps) →
      ∃ k, IssuesCmd s c h [⟨f.a, 2, f.ea⟩] d 7 k u.mem (exec (.fetchpg h d f) s) (fun _ x => x.left = []) ∧
        ∀ p l epa e, ps = [p] → p.ro = none → u.walk p.asid p.va = .leaf l epa e → k = .fetchpg p.loc epa e) ∧
  (
    ∀ (s u : State) (c : Cx) (h : Hdr) (d a b : Opd) (src res : BitVec 6) (r : List Byte) (i : Nat),
      let srcs : List Src := [⟨a, 2, false⟩, ⟨b, 1, false⟩]
      let va := (rd64 s c a).toNat
      let num := ((rdSrcs s c srcs).getD 1 0).lo
      let rt := if ringRet r || i + 1 == ringStops r then res.toNat else 64
      Ready s c h srcs [(d, 2)] → c.grp.isAct = false → (c.grp.cslot s).eng 6 = true → heldBy s c = false → OwnTile s c src.toNat → OwnTile s c res.toNat →
      s.svc = false → u.svc = false → va % 64 = 0 → issueRead (starting s c h srcs) c va 192 = (u, .ok r) → ringLegal r = true →
      ringHere r (c.grp.core s) = [i] → passAsk u (u.passNamed (c.grp.ctx s) va num) i (c.grp.core s) = .join →
      (tileOf s c src.toNat).st = .ready → (rt < 64 → (tileOf s c rt).st = .empty) →
      (tileOf s c src.toNat).swz = 0 → ringBytes r true ≤ (tileOf s c src.toNat).rows * (tileOf s c src.toNat).pitch →
      (rt < 64 → (tileOf s c rt).swz = 0 ∧ ringBytes r false ≤ (tileOf s c rt).rows * (tileOf s c rt).pitch) →
      ∃ p, IssuesCmd s c h srcs d 6 (.rsum p i src.toNat rt) u.mem (exec (.rsum h d a b src res) s) fun t x =>
        x.left = [] ∧ x.heldCommit = c.grp.rollback s ∧ (rt < 64 → (tileOf t c rt).st = .filling) ∧
        (rt ≠ src.toNat → (tileOf t c src.toNat).readers = (tileOf s c src.toNat).readers + 1) ∧
        ∃ y, Tab.find t.passes p = some y ∧ y.ctx = c.grp.ctx s ∧ y.addr = va ∧ y.num = num ∧
          (y.stops.getD i RStop.none).issued = true ∧ (y.stops.getD i RStop.none).blk = c.grp.block s)

namespace Sys2Proof

/-! ### Windows, snapshots, launches -/

/-- The wait for the operation of an instruction to be done: its destination, whether that is a pair, the value it will
take, what has to come first, and whether the thread stands at a park point meanwhile (R41). -/
def opFor (d : Opd) (w64 : Bool) (v : Dword) (await : List Await) (parks : Bool) : OpWait :=
  { d := d, w64 := w64, v := v, await := await, get := none, parks := parks, halts := false }

/-- An instruction has had its effect u and waits with its result for its operation to be done (R227, R302, R316); every
wait of other threads is looked at again. -/
def Awaits (u : State) (c : Cx) (w : OpWait) (o : Host.Outcome State Fault Refusal) : Prop :=
  ∃ t, o = .next (wake t) ∧ (t.thr c).st = .waiting (.op w) ∧ (t.thr c).pc = (u.thr c).pc ∧
    (t.thr c).g = (u.thr c).g ∧ (t.thr c).p = (u.thr c).p ∧ (t.thr c).icount = (u.thr c).icount + 1 ∧ Alone u t c

/-- The status −n. -/
def minus (n : Nat) : Dword := .ofNat 64 (2 ^ 32 - n)

/-- The window of the thread's virtual function. -/
def winOf (s : State) (c : Cx) (w : BitVec 10) : Win := s.win (c.grp.cslot s).vf w.toNat

end Sys2Proof

/-- R206 to R208, R227 to R231: SNAP opens a level or adds a range, ACCEPT and REJECT close levels of the thread's
context, each with the status its instruction gives; SNAPQ reads their counts. -/
def Obligations.SnapshotInstructions : Prop :=
  ∀ (s : State) (c : Cx) (h : Hdr) (d a b : Opd), heldBy s c = false → c.grp.rollback s = false →
    (∀ (sc : Scope) (add : Bool),
      let srcs : List Src := [⟨a, 2, false⟩, ⟨b, 2, false⟩]
      let va := rd64 s c a
      let len := rd64 s c b
      let r : Range := ⟨(threadAgent s c).asids.getD (va.toNat / 2 ^ 55 % 4) 0, va.toNat % 2 ^ 55, len.toNat⟩
      let u := openSnap (applyOrder (starting s c h srcs) c .acqRel sc) (c.grp.ctx s) sc add r
      Ready s c h srcs [(d, 1)] →
      va.toNat % 128 = 0 → len.toNat % 128 = 0 → va.toNat < 2 ^ 57 → va.toNat % 2 ^ 55 + len.toNat ≤ 2 ^ 55 →
      Awaits u.1 c (opFor d false u.2 [] false) (exec (.snap h sc add d a b) s)) ∧
    (∀ imm : BitVec 32,
      let srcs : List Src := [⟨a, 1, false⟩]
      let l := (((rdSrcs s c srcs).getD 0 0).lo + imm).toNat
      let u := starting s c h srcs
      Ready s c h srcs [(d, 1)] →
      (1 ≤ l → l ≤ (s.ctx (c.grp.ctx s)).levels.length →
        Awaits (acceptLevels u (c.grp.ctx s) l).releaseHeld c (opFor d false 0 [] false) (exec (.accept h d a imm) s) ∧
        Awaits (rejectLevels (applyOrder u c .release ((s.ctx (c.grp.ctx s)).levels.getD (l - 1) emptyLevel).scope)
          (c.grp.ctx s) l).releaseHeld c (opFor d false 0 [] false) (exec (.reject h d a imm) s)) ∧
      (l = 0 ∨ (s.ctx (c.grp.ctx s)).levels.length < l →
        Awaits u c (opFor d false (minus 1) [] false) (exec (.accept h d a imm) s) ∧
        Awaits u c (opFor d false (minus 1) [] false) (exec (.reject h d a imm) s))) ∧
    ∀ sel : BitVec 3, Ready s c h [] [(d, 2)] → isS d = false →
      Moves s c h [] (takes64 d (.ofNat 64 (snapqValue s (c.grp.ctx s) (c.grp.cslot s).part sel.toNat))) (exec (.snapq h d sel) s)

/-- R228: what SNAP does and answers: a new level of one range, or a range more at the top level; else a negative
status, the first of the list that holds, and nothing is opened. R207, R229: accepting a level changes no byte of
memory, and leaves only the levels below it; rejecting it also leaves only those, and puts back, at the line each of
its shadows names, the bytes of the shadow of the lowest level closed. -/
def Obligations.SnapshotOperations : Prop :=
  (
    ∀ (s : State) (x : Nat) (sc : Scope) (add : Bool) (r : Range), r.len ≠ 0 →
      let old := (s.ctx x).levels
      let lvl := if add then old.length else old.length + 1
      let used := (old.map fun l => l.ranges.length).sum
      let foreign := s.ctxs.any fun e => e.1 != x && e.2.levels.any fun l => l.ranges.any (Range.meets r)
      let outside := decide (1 < lvl) && !(coveredBy (old.getD (lvl - 2) emptyLevel).ranges r.asid 17 r.base (r.base + r.len))
      (add = false → old.length = 4 → openSnap s x sc add r = (s, minus 1)) ∧
      (add = true → old.length = 0 → openSnap s x sc add r = (s, minus 4)) ∧
      (¬ (add = false ∧ old.length = 4) → ¬ (add = true ∧ old.length = 0) →
        (used = 16 → openSnap s x sc add r = (s, minus 2)) ∧
        (used ≠ 16 → foreign = true → openSnap s x sc add r = (s, minus 3)) ∧
        (used ≠ 16 → foreign = false → outside = true → openSnap s x sc add r = (s, minus 5)) ∧
        (used ≠ 16 → foreign = false → outside = false →
          (openSnap s x sc add r).2 = .ofNat 64 lvl ∧ (openSnap s x sc add r).1.mem = s.mem ∧
          ((openSnap s x sc add r).1.ctx x).levels = old.take (lvl - 1) ++
            [if add then { old.getD (lvl - 1) emptyLevel with ranges := (old.getD (lvl - 1) emptyLevel).ranges ++ [r] }
             else { scope := sc, ranges := [r] }]))) ∧
  (
    ∀ (s : State) (x l : Nat), 1 ≤ l →
      ((acceptLevels s x l).mem = s.mem ∧ ((acceptLevels s x l).ctx x).levels = (s.ctx x).levels.take (l - 1)) ∧
      ((rejectLevels s x l).ctx x).levels = (s.ctx x).levels.take (l - 1) ∧
      (∀ a, (∀ e ∈ s.shadows, shadowCtx e.1 = x → l ≤ shadowLvl e.1 → a < e.2.pa ∨ e.2.pa + e.2.bytes.length ≤ a) →
        byteAt (rejectLevels s x l) a = byteAt s a) ∧
      ∀ e, s.shadows.filter (fun y => shadowCtx y.1 == x && decide (l ≤ shadowLvl y.1)) = [e] →
        Holding s e.2.pa e.2.bytes (rejectLevels s x l))

/-- R205, R233 to R236: PUT, GET and POSTC issue commands on tc7; WAITW passes on with the status of a window that has
failed, that has reached the count, or whose time is up, and else waits; WREAD reads a counter. -/
def Obligations.WindowInstructions : Prop :=
  ∀ (s : State) (c : Cx) (h : Hdr) (d a b e : Opd) (w : BitVec 10),
    (∀ (sig ord : Bool),
      let srcs : List Src := [⟨a, 2, false⟩, ⟨b, 2, false⟩, ⟨e, 1, false⟩]
      let len := ((rdSrcs s c srcs).getD 2 0).lo.toNat
      let after := if ord then orderAfter s (c.grp.ctx s) (c.grp.cslot s).vf w.toNat else []
      Ready s c h srcs [(d, 2)] → (c.grp.cslot s).eng 7 = true → heldBy s c = false →
      ((winOf s c w).kind = 1 ∨ (winOf s c w).kind = 2) → (rd64 s c b).toNat + len ≤ (winOf s c w).rlen →
      (c.grp.rollback s = false →
        IssuesCmd s c h srcs d 7 (.put sig ord (rd64 s c a).toNat (rd64 s c b).toNat len w.toNat) s.mem
          (exec (.put h sig ord d a b e w) s) (fun _ x => x.left = List.range (chunksOf len) ∧ x.msum = after)) ∧
      IssuesCmd s c h srcs d 7 (.get ord (rd64 s c a).toNat (rd64 s c b).toNat len w.toNat) s.mem
        (exec (.get h ord d a b e w) s) (fun _ x => x.left = List.range ((len + 31) / 32) ∧ x.msum = after)) ∧
    (
      let srcs : List Src := [⟨a, 2, false⟩]
      Ready s c h srcs [(d, 2)] → (c.grp.cslot s).eng 7 = true → heldBy s c = false → c.grp.rollback s = false →
      (rd64 s c a).toNat % 64 = 0 → ((winOf s c w).kind = 1 ∨ (winOf s c w).kind = 3) →
      (w.toNat = 1023 → c.grp.ctx s = (s.vf (c.grp.cslot s).vf).steward) →
      ∃ t x, exec (.postc h d a w) s = .next t ∧ (t.thr c).pc = nextPc (s.thr c).pc ∧
        (t.thr c).g = (takes64 d (winOf s c w).post (s.thr c)).g ∧ (winOf t c w).post = (winOf s c w).post + 1 ∧
        (t.blk (c.grp.block s)).body.cmds = (s.blk (c.grp.block s)).body.cmds ++ [x] ∧ x.tc = 7 ∧ x.num = nextNum s c 7 ∧
        x.kind = .postc (rd64 s c a).toNat (winOf s c w).post.toNat w.toNat ∧ x.left = [0] ∧ t.mem = s.mem) ∧
    (∀ sent : Bool,
      let srcs : List Src := [⟨a, 2, false⟩, ⟨b, 1, false⟩]
      let thr := rd64 s c a
      let limit := ((rdSrcs s c srcs).getD 1 0).lo
      let Ends (u : State) (st : Word) : Prop :=
        Wakes ((wr32 u c d st).modThr c fun t => { t with yc := 4095, lasty := t.pc }) c (nextPc (s.thr c).pc)
          (exec (.waitw h sent d a b w) s)
      Ready s c h srcs [(d, 1)] →
      (winBroken s (c.grp.cslot s).vf w.toNat = true → Ends (starting s c h srcs) 2) ∧
      (winBroken s (c.grp.cslot s).vf w.toNat = false →
        (thr.toNat ≤ (winCounter (winOf s c w) sent).toNat →
          Ends (if sent then starting s c h srcs else applyOrder (starting s c h srcs) c .acquire .system) 0) ∧
        ((winCounter (winOf s c w) sent).toNat < thr.toNat →
          (b ≠ .z → limit = 0 → Ends (starting s c h srcs) 1) ∧
          (b = .z → ∃ t, exec (.waitw h sent d a b w) s = .next t ∧ (t.thr c).st = .waiting (.win w.toNat sent thr none d)) ∧
          (b ≠ .z → limit ≠ 0 → ∃ t, exec (.waitw h sent d a b w) s = .next t ∧
            (t.thr c).st = .waiting (.win w.toNat sent thr (some (s.time + limit.toNat)) d))))) ∧
    ∀ (sent acq : Bool), Ready s c h [] [(d, 2)] → isS d = false →
      Leads (wr64 (if acq then applyOrder (starting s c h []) c .acquire .system else starting s c h []) c d
          (if (winOf s c w).kind = 0 then 0 else winCounter (winOf s c w) sent)) c (nextPc (s.thr c).pc)
        (exec (.wread h sent acq d w) s)

/-- R311, R315, R316: LAUNCH, and LAUNCHW of a packet that has landed, accept the packet on their window: the window
counts one more, which is the acceptance number the instruction answers, and the packet is a launch of its own, to
run if it passes its checks and at once complete with the first it fails otherwise. Of no such window, or with no
packet, they answer −5 or −1. What a failing access of LAUNCHW brings is a reading (log 58). -/
def Obligations.LaunchInstructions : Prop :=
  ∀ (s u : State) (c : Cx) (h : Hdr) (d a : Opd) (w : BitVec 10) (pkt : List Byte),
    heldBy s c = false → c.grp.rollback s = false → s.svc = false → u.svc = false →
    let srcs : List Src := [⟨a, 2, false⟩]
    let Took (landed : Bool) (o : Host.Outcome State Fault Refusal) : Prop := ∃ (t : State) (id : Nat), o = .next t ∧
      (t.thr c).st = .waiting (.op (opFor d true ((winOf s c w).sent + 1) [] true)) ∧ (t.thr c).pc = (s.thr c).pc ∧ (t.thr c).g = (s.thr c).g ∧
      (winOf t c w).sent = (winOf s c w).sent + 1 ∧ (∀ k, (Tab.find s.launches k).isSome → t.launch k = s.launch k) ∧
      (Tab.find s.launches id).isNone = true ∧ (t.launch id).live = true ∧ (t.launch id).win = w.toNat ∧
      (t.launch id).vf = (c.grp.cslot s).vf ∧ (t.launch id).seq = ((winOf s c w).sent + 1).toNat ∧ (t.launch id).landed = landed ∧
      (t.launch id).pkt = packetWords pkt ∧
      let code := checkPacket u (c.grp.ctx s) ((c.grp.cslot s).priv != 0) landed { Launch.none with pkt := packetWords pkt }
      (t.launch id).state = (if code = 0 then 0 else 2) ∧ (code ≠ 0 → (t.launch id).status = 3 ∧ (t.launch id).detail = code)
    (Ready s c h srcs [(d, 2)] → (rd64 s c a).toNat % 128 = 0 →
      ((winOf s c w).kind ≠ 2 → Awaits (applyOrder (starting s c h srcs) c .release .wafer) c (opFor d true (-5) [] true) (exec (.launch h d a w) s)) ∧
      ((winOf s c w).kind = 2 → issueRead (starting s c h srcs) c (rd64 s c a).toNat 128 = (u, .ok pkt) →
        u.vfs = s.vfs → u.launches = s.launches → (∀ x, (u.ctx x).logMode = 0) → Took false (exec (.launch h d a w) s))) ∧
    (Ready s c h [] [(d, 2)] →
      ((winOf s c w).kind ≠ 2 → Awaits (applyOrder (starting s c h []) c .release .wafer) c (opFor d true (-5) [] true) (exec (.launchw h d w) s)) ∧
      ((winOf s c w).kind = 2 → (winOf s c w).landed.toNat ≤ (winOf s c w).consumed.toNat →
        Awaits (applyOrder (starting s c h []) c .release .wafer) c (opFor d true (-1) [] true) (exec (.launchw h d w) s)) ∧
      ((winOf s c w).kind = 2 → (winOf s c w).consumed.toNat < (winOf s c w).landed.toNat →
        loadAt (starting s c h []) (windowAgent s (c.grp.cslot s).vf (winOf s c w))
          ((winOf s c w).lbase + 128 * ((winOf s c w).consumed.toNat % ((winOf s c w).len / 128))) 128 3 false = (u, .bytes pkt) →
        u.vfs = s.vfs → u.launches = s.launches → (∀ x, (u.ctx x).logMode = 0) → Took true (exec (.launchw h d w) s)))

namespace Sys2Proof

/-! ### Gates and compartments -/

/-- The gate entry word w of the thread's partition. -/
def entryWord (s : State) (c : Cx) (n w : Nat) : Dword := gateWord s (c.grp.cslot s).part n w

end Sys2Proof

/-- R297, R427: GATE, by the last of the skein's threads to arrive, in a drain-mode block, with the registers that pass
and those the results replace full (log 116): with no condition against it the call enters a new activation of the entry's context, whose threads start at the entry's PC with the callers'
argument registers, and the callers wait inside; else every participant stops at the gate event with the condition.
R299, R427: RETG of a thread of an activation whose result registers are filled ends it there, and gives its caller
the results and the PC after the GATE; outside an activation it is the gate event with condition 9. The caller's
yield counter is a reading (log 53). -/
def Obligations.Gates : Prop :=
  (
    ∀ (s : State) (c : Cx) (h : Hdr) (n : BitVec 8) (args res : BitVec 5), Ready s c h [] [] → Last s c → heldBy s c = false →
      c.grp.rollback s = false → Others s c (fun _ => .gate n args res) →
      (∀ i, i < args.toNat ∨ i < res.toNat → Tab.get false (s.thr c).empty i = false) →
      let cond := gateCondition s c.grp n.toNat args.toNat res.toNat (s.liveSk c.grp c.skein).length
      let a := freshAct s
      (cond = 0 → ∃ t, exec (.gate h n args res) s = .next t ∧
        (t.actv a).live = true ∧ (t.actv a).blk = c.grp.block s ∧ (t.actv a).skein = c.skein ∧ (t.actv a).gate = n.toNat ∧
        (t.actv a).ctx = bitsOf (entryWord s c n.toNat 0) 0 16 ∧ (t.actv a).frame = bitsOf (entryWord s c n.toNat 0) 33 8 ∧
        (t.actv a).res = res.toNat ∧ (t.actv a).core = c.grp.core s ∧
        (∀ m ∈ s.liveSk c.grp c.skein, (t.thr ⟨c.grp, m⟩).st = .inAct a ∧ (t.thr ⟨c.grp, m⟩).g = (s.thr ⟨c.grp, m⟩).g ∧
          (Tab.get { retPc := 0 } (t.actv a).callers m).retPc = nextPc (s.thr c).pc ∧
          (t.thr ⟨.act a, m⟩).st = .running ∧ (t.thr ⟨.act a, m⟩).pc = entryWord s c n.toNat 1 ∧ (t.thr ⟨.act a, m⟩).yc = 4095 ∧
          ∀ i, (t.thr ⟨.act a, m⟩).reg i = if i < args.toNat then (s.thr ⟨c.grp, m⟩).reg i else 0) ∧
        t.mem = s.mem) ∧
      (cond ≠ 0 → ∃ t, exec (.gate h n args res) s = .next t ∧
        ∀ m ∈ s.liveSk c.grp c.skein, (t.thr ⟨c.grp, m⟩).stop = some { code := 0x113, arg := 0, addr := n.toNat, synd := cond } ∧
          (t.thr ⟨c.grp, m⟩).pc = (s.thr c).pc ∧ (t.thr ⟨c.grp, m⟩).g = (s.thr ⟨c.grp, m⟩).g)) ∧
  (
    ∀ (s : State) (c : Cx) (h : Hdr) (e : BitVec 3), Ready s c h [] [] →
      (∀ a, c.grp = .act a → (∀ i, i < (s.actv a).res → Tab.get false (s.thr c).empty i = false) →
        let caller : Cx := ⟨.blk (s.actv a).blk, c.n⟩
        (s.thr caller).st = .inAct a →
        ∃ t, exec (.retg h e) s = .next t ∧ (t.thr c).st = .gone ∧ (t.thr caller).st = .running ∧
          (t.thr caller).pc = (Tab.get { retPc := 0 } (s.actv a).callers c.n).retPc ∧
          (t.thr caller).icount = (s.thr c).icount + 1 ∧ (t.thr caller).p = (s.thr caller).p ∧
          (∀ i, (t.thr caller).reg i = if i < (s.actv a).res then (s.thr c).reg i else (s.thr caller).reg i) ∧ t.mem = s.mem) ∧
      (c.grp.isAct = false → exec (.retg h e) s = .next (wake (takeEvents s c.grp
        [(c.n, { code := 0x113, arg := 0, addr := 0, synd := 9 })]))))

namespace Sys2Proof

/-- R302: the state an operation on compartments starts from: its fence has been carried. -/
def fenced (s : State) (c : Cx) (h : Hdr) (srcs : List Src) : State := applyOrder (starting s c h srcs) c .acqRel .wafer

end Sys2Proof

/-- R290, R291, R301 to R306: CPSET writes a slot word with its status, CPGET reads one, TLBINV drops translations and
lines of an ASID, ASIDBIND binds or unbinds one, CKPT answers how its block runs; each needs its privilege. R291,
R303: the status of a write of a slot word, and what it writes: nothing where the core is not there (1), the slot is
busy and more than its period or scope limit would change (2), or the valid slot would break a condition (3);
clearing VALID of a valid slot leaves it empty. That clearing VALID empties the slot, and the ARG of a foreign
target, are readings (log 48, 57). -/
def Obligations.CompartmentInstructions : Prop :=
  (
    ∀ (s : State) (c : Cx) (h : Hdr) (d a b e : Opd), heldBy s c = false → c.grp.rollback s = false →
      (∀ slot word : BitVec 2,
        let srcs : List Src := [⟨a, 2, false⟩, ⟨b, 1, false⟩]
        let core := ((rdSrcs s c srcs).getD 1 0).toNat
        let out := writeSlot (fenced s c h srcs) core slot.toNat word.toNat (rd64 s c a)
        Ready s c h srcs [(d, 1)] → 2 ≤ (c.grp.cslot s).priv →
        Awaits out.1 c (opFor d false (.ofNat 64 out.2) [] true) (exec (.cpset h d a b slot word) s)) ∧
      (∀ slot word : BitVec 2,
        let core := ((rdSrcs s c [⟨b, 1, false⟩]).getD 0 0).toNat
        Ready s c h [⟨b, 1, false⟩] [(d, 2)] → 2 ≤ (c.grp.cslot s).priv →
        Holds (starting s c h [⟨b, 1, false⟩]) c
          (.op { opFor d true 0 [] true with get := some (core, slot.toNat, word.toNat) }) (exec (.cpget h d b slot word) s)) ∧
      (∀ all : Bool,
        let srcs : List Src := [⟨a, 2, false⟩, ⟨b, 2, false⟩, ⟨e, 1, false⟩]
        let asid := ((rdSrcs s c srcs).getD 2 0).toNat
        let u := fenced s c h srcs
        let w : Writer := { ctx := c.grp.ctx s, blk := some (c.grp.block s), thr := c.n, precise := false, known := [] }
        Ready s c h srcs [(d, 1)] → 1 ≤ (c.grp.cslot s).priv →
        ((s.asid asid).live = false → Awaits u c (opFor d false 1 [] true) (exec (.tlbinv h all d a b e) s)) ∧
        ((s.asid asid).live = true → (s.asid asid).vf = (c.grp.cslot s).vf →
          (all = false → (rd64 s c a).toNat % 65536 = 0 ∧ (rd64 s c b).toNat % 65536 = 0) →
          let va := if all then 0 else (rd64 s c a).toNat
          let len := if all then 2 ^ 55 else if b = .z then 65536 else (rd64 s c b).toNat
          let v := invalidate u w asid va len
          Awaits v c (opFor d false 0 (accessesOut v (c.grp.cslot s).vf asid va len) true)
            (exec (.tlbinv h all d a b e) s))) ∧
      (∀ (ro unb : Bool) (slot : BitVec 2),
        let srcs : List Src := [⟨a, 1, false⟩, ⟨b, 1, false⟩]
        let ctx := ((rdSrcs s c srcs).getD 0 0).toNat
        let asid := ((rdSrcs s c srcs).getD 1 0).toNat
        let u := fenced s c h srcs
        Ready s c h srcs [(d, 1)] → 1 ≤ (c.grp.cslot s).priv →
        ((s.ctx ctx).live = false → Awaits u c (opFor d false 1 [] true) (exec (.asidbind h ro unb d a b slot) s)) ∧
        ((s.ctx ctx).live = true → (s.ctx ctx).vf = (c.grp.cslot s).vf →
          (unb = true → Awaits (bindSlot u ctx slot.toNat none) c (opFor d false 0 [] true) (exec (.asidbind h ro unb d a b slot) s)) ∧
          (unb = false → bindable s (c.grp.cslot s).vf (c.grp.cslot s).part asid = true →
            Awaits (bindSlot u ctx slot.toNat (some (asid, ro))) c (opFor d false 0 [] true) (exec (.asidbind h ro unb d a b slot) s)) ∧
          (unb = false → bindable s (c.grp.cslot s).vf (c.grp.cslot s).part asid = false →
            Awaits u c (opFor d false 1 [] true) (exec (.asidbind h ro unb d a b slot) s)))) ∧
      (Ready s c h [] [(d, 1)] → Awaits (fenced s c h []) c (opFor d false 4 [] true) (exec (.ckpt h d) s))) ∧
  (
    ∀ (s : State) (core i w : Nat) (v : Dword),
      let new := (s.cslot core i).setWord w v
      (coreAlive s core = false → writeSlot s core i w v = (s, 1)) ∧
      (coreAlive s core = true → slotBusy s core i = true → sameButPeriod (s.cslot core i) new = false → writeSlot s core i w v = (s, 2)) ∧
      (coreAlive s core = true → (slotBusy s core i = false ∨ sameButPeriod (s.cslot core i) new = true) →
        (new.valid = true → slotLegal s core i new = false → writeSlot s core i w v = (s, 3)) ∧
        (new.valid = true → slotLegal s core i new = true → (writeSlot s core i w v).2 = 0 ∧
          (writeSlot s core i w v).1.cslot core i = new ∧
          ∀ k j, (k, j) ≠ (core, i) → (writeSlot s core i w v).1.cslot k j = s.cslot k j) ∧
        (new.valid = false → (writeSlot s core i w v).2 = 0 ∧
          (writeSlot s core i w v).1.cslot core i = if (s.cslot core i).valid then CSlot.none else new)))

/-- R307, R308, R408: CROLL, HALT and RESUME of a context that is there and open to the thread complete: each acts on its
blocks and answers 0, CROLL and HALT once the blocks and activations they park have done so; of none they answer 1. A HALT that
means its own block waits for the others alone, and its thread parks after it (log 55). -/
def Obligations.BlockControl : Prop :=
  ∀ (s : State) (c : Cx) (h : Hdr) (d a b : Opd), heldBy s c = false → c.grp.rollback s = false →
    (∀ stay : Bool,
      let srcs : List Src := [⟨a, 1, false⟩, ⟨b, 1, false⟩]
      let ctx := ((rdSrcs s c srcs).getD 0 0).toNat
      let core := if b = .z then none else some ((rdSrcs s c srcs).getD 1 0).toNat
      let u := fenced s c h srcs
      let out := crollBlocks u (some (c.grp.block s)) stay ((residentOf u ctx core).filter (· != c.grp.block s))
      Ready s c h srcs [(d, 1)] → 1 ≤ (c.grp.cslot s).priv →
      ((s.ctx ctx).live = false → Awaits u c (opFor d false 1 [] true) (exec (.croll h stay d a b) s)) ∧
      ((s.ctx ctx).live = true → (s.ctx ctx).vf = (c.grp.cslot s).vf → (∀ n, core = some n → (slotHolding s n ctx).isSome) →
        let v := if stay then out.1 else parkActs out.1 ctx core
        Awaits v c (opFor d false 0 (if stay then out.2 else out.2 ++ actAwaits v c.grp (actsOf v ctx core)) true) (exec (.croll h stay d a b) s))) ∧
    let srcs : List Src := [⟨a, 1, false⟩, ⟨b, 2, false⟩]
    let ctx := (targetOf s c a b (rdSrcs s c srcs)).1
    let ident := (targetOf s c a b (rdSrcs s c srcs)).2
    let u := fenced s c h srcs
    Ready s c h srcs [(d, 1)] → ((s.ctx ctx).live = true → targetLevel s c ctx ≤ (c.grp.cslot s).priv) →
    (targetThere s ctx ident = false → Awaits u c (opFor d false 1 [] true) (exec (.halt h d a b) s) ∧
      (s.svc = false → Awaits u c (opFor d false 1 [] true) (exec (.resume h d a b) s))) ∧
    (targetThere s ctx ident = true →
      (let v := haltTarget u ctx ident
       let others := (((targetBlocks s ctx ident).filter fun n => c.grp != .blk n).map Await.parked) ++
         if ident = none then actAwaits v c.grp (actsOf v ctx none) else []
       Awaits v c { opFor d false 0 others (!(namesSelf s c ctx ident)) with halts := namesSelf s c ctx ident } (exec (.halt h d a b) s)) ∧
      (s.svc = false → (resumeTarget u ctx ident).svc = false →
        Awaits (resumeTarget u ctx ident) c (opFor d false 0 [] true) (exec (.resume h d a b) s)))

namespace Sys2Proof

/-! ### The access slice -/

/-- A state at the begin of a step: no access of this step has reached the service space yet. -/
def quiet (s : State) : State := { s with svc := false }

/-- The affine address engine issues from the access slice of skein k of block b, and nothing comes before the
instruction: the slice runs, no breakpoint is hit, the guard is true, and no source is empty or awaited. -/
structure SliceReady (s : State) (b k : Nat) (h : Hdr) (srcs : List Src) : Prop where
  pick : s.pick = { grp := .slice b k, thrs := [64 * k] }
  running : (s.thr ⟨.slice b k, 64 * k⟩).st = .running
  free : (s.thr ⟨.slice b k, 64 * k⟩).stop = none
  clear : boundaryEv s ⟨.slice b k, 64 * k⟩ = none
  guard : guardOf h (s.thr ⟨.slice b k, 64 * k⟩).p = true
  filled : emptySrcs s ⟨.slice b k, 64 * k⟩ srcs = []

/-- The slice of a skein, and one of the skein's queues. -/
def sliceOf (s : State) (b k : Nat) : Slice := (s.sk (.slice b k) k).slice
def queueOf (s : State) (b k q : Nat) : Queue := Tab.get Queue.none (s.sk (.slice b k) k).queues q

end Sys2Proof

/-- R50 to R53, R218, R225: the access slice has registers of its own, which its instructions write at once; LDQ fills
the next entry of a queue with the values its lanes' addresses load; QFENCE of the slice waits until every thread of
the skein has performed as many. -/
def Obligations.AccessSlice : Prop :=
  ∀ (s : State) (b k : Nat) (h : Hdr),
    let c : Cx := ⟨.slice b k, 64 * k⟩
    let pc := (sliceOf s b k).pc
    (∀ (i : Instr) (f : F0) (n : BitVec 6) (v : Word), f.d = .s n → i.accessMay = true → i.accessOpds = true →
      SliceReady s b k h (f0Srcs f 1 1 1) →
      ((∃ g, intValue i = some (h, f, g) ∧ v = g (valA s c f) (valB s c f) (valC s c f)) ∨
        ∃ g, floatValue i = some (h, f, g) ∧ v = g (rndOf s c) (valA s c f) (valB s c f) (valC s c f)) →
      ∃ t, exec i s = .next t ∧ t.sreg (.slice b k) k n.toNat = v ∧ (sliceOf t b k).pc = nextPc pc ∧
        (∀ m, m ≠ n.toNat → t.sreg (.slice b k) k m = s.sreg (.slice b k) k m) ∧
        (∀ m, t.sreg (.blk b) k m = s.sreg (.blk b) k m) ∧ (∀ m, t.thr ⟨.blk b, m⟩ = s.thr ⟨.blk b, m⟩) ∧ t.mem = s.mem) ∧
    (∀ (q : BitVec 3) (f : F2) (u : State) (l : Tab Word) (r : Bool),
      let srcs : List Src := [⟨f.a, 2, f.ea⟩, ⟨f.b, 1, f.ea⟩]
      let s1 := starting (quiet s) c h srcs
      SliceReady s b k h srcs → queueFull s (.slice b k) k q.toNat = false → u.svc = false →
      ldqLanes s1 c f ((rdSrcs s c srcs).getD 0 0) ((rdSrcs s c srcs).getD 1 0).lo (c.grp.launch s).e0 0 [] false = (u, .ok (l, r, [])) →
      ∃ t, exec (.ldq h q f) s = .next t ∧ (sliceOf t b k).pc = nextPc (sliceOf u b k).pc ∧ t.mem = u.mem ∧
        (queueOf t b k q.toNat).filled = (queueOf u b k q.toNat).filled + 1 ∧
        (∀ i, Tab.get 0 (Tab.get [] (queueOf t b k q.toNat).data (queueOf u b k q.toNat).filled) i = Tab.get 0 (l.filter fun e => e.2 != 0) i) ∧
        (∀ j, j ≠ q.toNat → queueOf t b k j = queueOf u b k j)) ∧
    ∀ (d : Opd) (f : F2), SliceReady s b k h [] →
      ∃ t, exec (.qfence h d f) s = .next t ∧ (sliceOf t b k).pc = nextPc pc ∧ (sliceOf t b k).qfences = (sliceOf s b k).qfences + 1 ∧
        t.mem = s.mem ∧
        ((sliceOf t b k).fenceWait = false ↔ ∀ m ∈ s.liveSk (.blk b) k, (sliceOf s b k).qfences + 1 ≤ (s.thr ⟨.blk b, m⟩).qfences)

namespace Sys2Proof

/-! ### Steps of the units outside the pick former -/

/-- A step answers a next state of which P holds. -/
def Answers (o : Host.Outcome State Fault Refusal) (P : State → Prop) : Prop := ∃ t, o = .next t ∧ P t

/-- The state t is u but that every wait has been looked at again: threads have moved on from waits that ended, and
taken what their waits deliver, skeins with them; hang counts restart, self-invalidated copies go and events are
counted. -/
structure Woken (u t : State) : Prop where
  blocks : ∀ b, t.blk b = { u.blk b with
    hang := (t.blk b).hang
    body := { (u.blk b).body with threads := (t.blk b).body.threads, skeins := (t.blk b).body.skeins } }
  acts : ∀ a, t.actv a = { u.actv a with threads := (t.actv a).threads, sk := (t.actv a).sk }
  counters : ∀ p, t.part p = { u.part p with ctrs := (t.part p).ctrs }
  rest : t = { u with blocks := t.blocks, acts := t.acts, parts := t.parts, fab := t.fab }

/-- R409: every launch of a context that is not a fence and has not ended is complete with status ABORTED. -/
def Aborted (s : State) (ctx : Nat) (t : State) : Prop :=
  ∀ id, (s.launch id).live = true → (s.launch id).ctx = ctx → (s.launch id).fence = false → (s.launch id).state < 2 →
    (t.launch id).state = 2 ∧ (t.launch id).status = 5 ∧ (t.launch id).tend = s.time

end Sys2Proof

/-- R54, R326, R41, R202: CHECKPOINT_PERIOD of a rollback-mode block that has run for its period asks it to park;
BLOCK_PARK of a parked block captures it, or, in drain mode and asked to halt, halts it; CHECKPOINT_COMMIT of a
captured block with nothing provisional makes its state its checkpoint, and of one whose lines fail their checks
rolls it back; QUANTUM_END passes a slot that has emptied to the context it gives way to. The two phases of a commit
are the model's reading (log 43). -/
def Obligations.ParksAndCheckpoints : Prop :=
  ∀ (s : State) (b : Nat),
    ((s.blk b).st = .resident → (s.blk b).park = .none → (s.blk b).captured = false → (s.blk b).halted = false →
      (Grp.blk b).rollback s = true → 1000 * (s.blk b).period ≤ (s.blk b).runTime →
      exec (.checkpointPeriod b) s = .next (s.modBlk b fun k => { k with park := .period })) ∧
    (b < 2 ^ 40 → parkDue s b = true → (s.blk b).captured = false →
      ((Grp.blk b).rollback s = true → Answers (exec (.blockPark b) s) fun t =>
        (t.blk b).captured = true ∧ (t.blk b).park = (s.blk b).park ∧ (t.blk b).prov = (s.blk b).prov ∧ t.mem = s.mem) ∧
      ((Grp.blk b).rollback s = false → (s.blk b).park = .halt → (s.blk b).dbgHalt = false → (s.blk b).pending = [] →
        (s.blk b).crollNext = none → (s.blk b).resumeNext = false → (s.cslot (s.blk b).core (s.blk b).slot).next = 0 →
        Answers (exec (.blockPark b) s) fun t => (t.blk b).halted = true ∧ (t.blk b).park = .none ∧
          (t.blk b).st = .resident ∧ t.mem = s.mem)) ∧
    (actParkDue s b = true → (s.actv b).park = .halt →
      Answers (exec (.blockPark (2 ^ 40 + b)) s) fun t => (t.actv b).halted = true ∧ (t.actv b).park = .none ∧ t.mem = s.mem) ∧
    (commitDue s b = true → (s.blk b).prov = [] → (s.blk b).traces = [] → (s.blk b).pending = [] →
      (s.blk b).park ≠ .halt → (s.blk b).park ≠ .save → (s.blk b).park ≠ .leave → (∀ n, heldInstr (s.thr ⟨.blk b, n⟩) = none) →
      Answers (exec (.checkpointCommit b) s) fun t => (t.blk b).captured = false ∧ (t.blk b).park = .none ∧
        (t.blk b).runTime = 0 ∧ (t.blk b).period = ((Grp.blk b).cslot s).ckper ∧
        (t.blk b).ckpt.scratch = (s.blk b).body.scratch ∧ (t.blk b).ckpt.tiles = (s.blk b).body.tiles ∧
        (∀ x ∈ (t.blk b).body.cmds, x.fresh = false ∧ x.heldCommit = false) ∧ t.mem = s.mem) ∧
    (commitDue s b = true → provAll s b (byNumber (provLines (s.blk b).prov)) = none →
      Answers (exec (.checkpointCommit b) s) fun t => (t.blk b).captured = false ∧ (t.blk b).rolled = true ∧
        (t.blk b).body.scratch = (s.blk b).ckpt.scratch ∧ (t.blk b).prov = (s.blk b).keep ∧ t.mem = s.mem) ∧
    ∀ core i, passesOn s core = some i → slotLegal s core i (fillFrom s (s.cslot core i).next) = true →
      Answers (exec (.quantumEnd core) s) fun t => (t.cslot core i).w0 = (fillFrom s (s.cslot core i).next).w0 ∧
        (t.cslot core i).w3 = (fillFrom s (s.cslot core i).next).w3 ∧ (t.cslot core i).next = 0 ∧
        (t.cslot core i).since = s.time ∧ t.mem = s.mem

/-- R40, R49, R297, R409, R461: an overrun of the yield counter and a hang abort the launches of the context; a user
interrupt masks the skein and is due in every live thread of it; a thread it is due in is vectored to SR.HVEC with
its PC in SR.EPC; an activation enters its slot. The hang count's rate is free (log 13); one event for all overruns
of a pick is the model's choice (log 41). -/
def Obligations.InterruptsAndEntries : Prop :=
  ∀ (s : State) (b n : Nat),
    let c : Cx := ⟨nameGrp b, n⟩
    (overrunDue s c = true → Answers (exec (.yieldOverrun b n) s) fun t => Aborted s (c.grp.ctx s) t ∧ t.mem = s.mem) ∧
    (hangDue s b = true → Answers (exec (.hang b) s) fun t => Aborted s (s.launch (s.blk b).launch).ctx t ∧ t.mem = s.mem) ∧
    (deliveryDue s b n = true → Answers (exec (.userInterruptDelivery b n) s) fun t =>
      (t.sk (.blk b) n).masked = true ∧ (t.sk (.blk b) n).delivered = (s.sk (.blk b) n).upend ∧
      (t.sk (.blk b) n).inside = (s.sk (.blk b) n).inside + (s.liveSk (.blk b) n).length ∧
      (∀ m, t.thr ⟨.blk b, m⟩ = if m ∈ s.liveSk (.blk b) n then { s.thr ⟨.blk b, m⟩ with due := true } else s.thr ⟨.blk b, m⟩) ∧
      t.mem = s.mem) ∧
    (∀ (pc : Dword) (u : State), trapDue s c = none → interruptDue s c = true → vectorPc (s.thr c) = some pc → (c.grp.launch s).logOn = 0 →
      checkTarget (vector ((quiet s).modThr c fun t => { t with pc := pc }) c) c (s.sk c.grp c.skein).hvec = (u, none) → u.svc = false →
      exec (.vectoring b n) s = .next u ∧
        (vector ((quiet s).modThr c fun t => { t with pc := pc }) c).thr c = { s.thr c with
          pc := (s.sk c.grp c.skein).hvec, epc := pc, due := false, vectored := true, st := .running }) ∧
    ∀ a i, entrySlot s a = some i →
      let u := (quiet s).modAct a fun x => { x with
        entered := true, begun := true, slot := i, threads := x.threads.map fun e => (e.1, { e.2 with ready := s.cycle }) }
      ((s.actv a).begun = true → exec (.activationEntry a) s = .next u) ∧
      ((s.actv a).begun = false → ∀ v, enterChecks u (.act a) (u.live (.act a)) = (v, []) → v.svc = false →
        exec (.activationEntry a) s = .next v)

/-- R27, R43 to R46, R313, R318, R320 to R322: an offered launch that no slot of its context could hold completes NOT-
ADMITTABLE, and one that has places takes them, a block starting as R30 says; a fence whose dependences are met is
complete; a block whose threads have exited and whose commands have completed ends, and with the last of its
launch's the launch completes; a complete launch's record goes out on its window, under the window's post count. The
choice among equal places is free (log 67); counters a block brings are merged by the model's choice (log 62). -/
def Obligations.DispatchAndEnds : Prop :=
  ∀ (s : State) (id : Nat),
    let l := s.launch id
    (l.live = true → l.fence = false → l.state = 0 → depsMet s l = true → Machine.fenced s l = false → barrierFree s id = true →
      admittable s l = false →
      exec (.dispatch id) s = .next ((quiet s).modLaunch id fun x => { x with state := 2, status := 4, tend := s.time })) ∧
    (∀ t, dispatchTry (quiet s) id = some t → t.svc = false → exec (.dispatch id) s = .next t) ∧
    (∀ i core hint t b, placeOn s id i core hint = some (t, b) → blockAt s id i = none →
      (t.blk b).st = .resident ∧ (t.blk b).body = startBody s l ∧ (t.blk b).core = core ∧ (t.blk b).index = i ∧
      (t.blk b).launch = id ∧ (t.blk b).regs = l.g ∧ (t.blk b).ident = l.blockIdent i ∧ (t.launch id).placed = l.placed + 1 ∧
      (t.launch id).state = 1 ∧ t.mem = s.mem) ∧
    (l.live = true → l.fence = true → l.state = 0 → depsMet s l = true →
      exec (.fenceMet id) s = .next (s.modLaunch id fun x => { x with met := true, state := 2, status := 6, tend := s.time })) ∧
    (∀ b, (s.blk b).launch = id → blockEndDue s b = true →
      (uncommitted s b = true → exec (.blockEnd b) s = .next ((quiet s).modBlk b fun k => { k with park := .interval })) ∧
      (uncommitted s b = false → l.logOn ≠ 1 → Answers (exec (.blockEnd b) s) fun t =>
        (t.blk b).st = .ended ∧ (t.launch id).ended = l.ended + 1 ∧
        (t.launch id).state = (if l.ended + 1 = l.blocks ∧ l.state < 2 then 2 else l.state) ∧ t.mem = s.mem)) ∧
    (recordDue s id = true → l.logOn ≠ 1 →
      (l.cen = false → exec (.completionRecord id) s = .next ((quiet s).modLaunch id fun x => { x with recorded := true, state := 3 })) ∧
      (l.cen = true → loopPeer s (s.win l.vf l.cwin).qpn = none →
        (s.port (s.qp (s.win l.vf l.cwin).qpn).port).paused.getLsbD (s.qp (s.win l.vf l.cwin).qpn).prio = false →
        Answers (exec (.completionRecord id) s) fun t =>
        (t.launch id).recorded = true ∧ (t.launch id).postK = (s.win l.vf l.cwin).post.toNat ∧
        (t.win l.vf l.cwin).post = (s.win l.vf l.cwin).post + 1 ∧ t.mem = s.mem ∧
        ∃ p key at_ bs, t.out = s.out ++ [.write (s.win l.vf l.cwin).qpn p key at_ bs (some 1)] ∧ bs.length = 64))

namespace Sys2Proof

/-- A command of a block has completed with a status: it is gone from the block's commands, its number counts as
completed on its engine context, and the context's status is the status. -/
def CmdDone (s : State) (b : Nat) (x : Cmd) (status : Nat) (t : State) : Prop :=
  (t.blk b).body.cmds = (s.blk b).body.cmds.filter (fun c => !c.same x) ∧
  t.tc x.core x.slot x.tc = (s.tc x.core x.slot x.tc).complete x.num ∧
  (x.inner = false → (Tab.get CtxStat.none (t.blk b).body.ctxStat x.tc).status = status)

end Sys2Proof

/-- R204, R219, R243 to R252, R265 to R275, R343, R344: the steps of engine commands. A command whose work is done
completes; a TSTORE leaves its tile READY or retires it; MMA_START begins an MMA whose buffers pass their check; a
landing of MZERO clears its accumulator, and one of TLOAD writes its sector; a landing of a multicast at a destination
that is armed for it completes with the sector in the destination's tile, which the last sector makes READY, and a
destination that is not armed refuses; a page's fetch ends with its command; a broken ring-sum pass is cancelled, and ends once
every stop has issued. The order of
landings is free (log 68). -/
def Obligations.EngineSteps : Prop :=
  ∀ (s : State) (b tc num : Nat) (x : Cmd), s.cmd b tc num = some x →
    (matrixDone x = true → Answers (exec (.matrixCommandComplete b tc num) s) fun t => CmdDone s b x 0 t ∧ t.mem = s.mem) ∧
    (tc = 7 → windowDone s b x = true → Answers (exec (.windowCommandComplete b num) s) fun t => CmdDone s b x 0 t ∧ t.mem = s.mem) ∧
    (shuttleDone s b x = true →
      ((∀ k t d r, x.kind ≠ .tstore k t d r) → Answers (exec (.shuttleCommandComplete b tc num) s) fun t =>
        CmdDone s b x (if x.mc.any (·.refused) then 1 else 0) t ∧ t.mem = s.mem) ∧
      (∀ keep y d r, x.kind = .tstore keep y d r → x.mc = [] → traceOn s (s.ctx (s.launch (s.blk b).launch).ctx).vf 0 = false →
        Answers (exec (.shuttleCommandComplete b tc num) s) fun t => CmdDone s b x 0 t ∧ t.mem = s.mem ∧
          ((t.blk b).body.tile y).st = (if keep then .ready else .empty) ∧
          ((t.blk b).body.tile y).gen = (if keep then ((s.blk b).body.tile y).gen else (((s.blk b).body.tile y).gen + 1) % 256))) ∧
    (∀ addr p ta tb, x.kind = .mma addr p ta tb → mmaMayStart (s.blk b).body (s.launch (s.blk b).launch).det x = true →
      (startCondition (s.blk b).body p ta tb = 0 →
        exec (.mmaStart b tc num) s = .next ((quiet s).setCmd b { x with started := true })) ∧
      (startCondition (s.blk b).body p ta tb ≠ 0 → x.inner = false → Answers (exec (.mmaStart b tc num) s) fun t =>
        CmdDone s b x 2 t ∧ t.mem = s.mem ∧ ((s.blk b).halted = false → (t.blk b).park = haltFirst (s.blk b).park))) ∧
    (∀ a, x.kind = .mzero a → x.left = [0] → x.tc ≠ 8 → landingDue s b x = true → Answers (exec (.landing b tc num) s) fun t =>
      (∀ i, Tab.get 0 (t.blk b).body.acc i = if i / 4096 = a then 0 else Tab.get 0 (s.blk b).body.acc i) ∧
      (t.cmd b tc num).map (·.left) = some [] ∧ t.mem = s.mem) ∧
    (∀ mode y d r idx u bs, x.kind = .tload mode y d r none idx → landingDue s b x = true →
      let n := (chooseOne s x.left).getD 0
      let per := sectorsOf (rowBytes (tdElem d).bits (r.box 0))
      readSector (quiet s) b x d mode r idx (n / per) (n % per) = (u, .ok bs) → u.svc = false →
      Answers (exec (.landing b tc num) s) fun t => t.mem = u.mem ∧
        let at_ := tileSector ((u.blk b).body.tile y) (n / per) (n % per)
        ∀ a, Tab.get 0 (t.blk b).body.scratch a = if at_ ≤ a ∧ a < at_ + bs.length then bs.getD (a - at_) 0
          else Tab.get 0 (u.blk b).body.scratch a) ∧
    (∀ y d r m bar dst e, x.kind = .tmcast y d r m bar → x.mc.find? (fun e => e.blk == dst) = some e → shuttleTurn s x = true →
      destDue x e = true → e.gen = none →
      let per := sectorsOf (rowBytes (tdElem d).bits (r.box 0))
      let z := (s.blk dst).body.tile y
      (∀ u bs, bar = none → (s.blk dst).st = .resident → z.st = .filling → z.rx = true → mcFits z d r = true → x.msum = [] →
        readSector (quiet s) b x d .plain r [] (e.landed / per) (e.landed % per) = (u, .ok bs) → u.svc = false →
        ∃ t, exec (.mcastLanding b tc num dst) s = .next t ∧ t.mem = u.mem ∧
          (let at_ := tileSector { (u.blk dst).body.tile y with swz := tdSwz d } (e.landed / per) (e.landed % per)
           ∀ a, Tab.get 0 (t.blk dst).body.scratch a = if at_ ≤ a ∧ a < at_ + bs.length then bs.getD (a - at_) 0
             else Tab.get 0 (u.blk dst).body.scratch a) ∧
          ((t.blk dst).body.tile y).st = (if e.landed + 1 = boxRows r * per then .ready else ((u.blk dst).body.tile y).st) ∧
          (e.landed + 1 = boxRows r * per → ((t.blk dst).body.tile y).vrows = validRows d .plain r []) ∧
          (Tab.get CtxStat.none (t.blk b).body.ctxStat x.tc).refused = (Tab.get CtxStat.none (u.blk b).body.ctxStat x.tc).refused) ∧
      (dst ≠ b → ¬ (z.st = .filling ∧ z.rx = true) → Answers (exec (.mcastLanding b tc num dst) s) fun t => t.mem = s.mem ∧
        (t.blk dst).body.scratch = (s.blk dst).body.scratch ∧
        (Tab.get CtxStat.none (t.blk b).body.ctxStat x.tc).refused = (Tab.get CtxStat.none (s.blk b).body.ctxStat x.tc).refused + 1)) ∧
    (∀ loc epa e u, tc = 7 → x.kind = .fetchpg loc epa e → u.svc = false →
      (stepFetch (quiet s) b x loc epa e = (u, .ok true) → Answers (exec (.fetchpgComplete b num) s) fun t =>
        CmdDone u b x 0 t ∧ t.mem = u.mem) ∧
      (stepFetch (quiet s) b x loc epa e = (u, .ok false) → Answers (exec (.fetchNoframe b num) s) fun t =>
        CmdDone u b x 0 t ∧ t.mem = u.mem)) ∧
    ∀ p y i, Tab.find s.passes p = some y →
      (y.live = false → Answers (exec (.rsumPacket p i) s) fun t => Woken (cancelPass s p) t ∧ t.mem = s.mem ∧
        ((∀ k, k < ringStops y.desc → (y.stops.getD k RStop.none).issued = true ∧
            ∀ c, stopCmd s (y.stops.getD k RStop.none) = some c → c.heldCommit = false) → Tab.find t.passes p = none)) ∧
      (∀ q come, y.live = true → packetsDue s y i = [.combine q come] →
        (y.stops.getD i RStop.none).digest = (y.stops.getD 0 RStop.none).digest →
        Answers (exec (.rsumPacket p i) s) fun t => Woken (settleStop (combineAt s p i q come) p i) t) ∧
      (∀ e, y.live = true → packetsDue s y i = [.land e] → Answers (exec (.rsumPacket p i) s) fun t =>
        Woken (let u := landPacket s p i e.q e.words
          settleStop (u.setPass p { u.pass p with packets := (u.pass p).packets.erase e }) p i) t)

/-- R81, R133, R234, R302, R303, R316, R340: an owed value lands in its register; a WAITW whose time is up delivers 1, a
NAP ends, and an instruction that waited for what it named delivers its result, a CPGET its word as it then stands,
each thread going on at the next slot; a field whose blocks and children have all arrived at BARW reports, and the root's release frees every thread
waiting there. When an owed value lands is free (log 6); that a NAP counts steps of the model is the model's choice
(log 12). -/
def Obligations.WaitsThatEnd : Prop :=
  ∀ (s : State) (b n : Nat),
    let c : Cx := ⟨nameGrp b, n⟩
    (∀ r, (s.thr c).owed.any (fun o => o.reg == r) = true →
      Answers (exec (.dataResponse b n r) s) fun t => Woken (s.modThr c fun x => x.landReg r) t) ∧
    (∀ (t : Thread) (r : Nat) (v : Word), t.owed = [⟨r, v⟩] → r < 128 →
      (t.landReg r).reg r = v ∧ Tab.get false (t.landReg r).empty r = false ∧ (t.landReg r).owed = [] ∧ (t.landReg r).p = t.p) ∧
    (∀ w sent thr dl d, (s.thr c).st = .waiting (.win w sent thr (some dl) d) → groupRuns s c.grp = true → dl ≤ s.time → isS d = false →
      Answers (exec (.waitwTimeout b n) s) fun t =>
        t.thr c = { takes32 d 1 (s.thr c) with st := .running, pc := nextPc (s.thr c).pc, ready := s.cycle, yc := 4095, lasty := (s.thr c).pc } ∧
        t.mem = s.mem) ∧
    (∀ u, (s.thr c).st = .waiting (.nap u) → groupRuns s c.grp = true → u ≤ s.cycle →
      Answers (exec (.napExpiry b n) s) fun t => t.thr c = passOn s.cycle (s.thr c) ∧ t.mem = s.mem) ∧
    (∀ o : OpWait, (s.thr c).st = .waiting (.op o) → groupRuns s c.grp = true → isS o.d = false →
      (∀ w ∈ o.await, awaitMet s w = true) →
      let v := match o.get with
        | some (core, slot, word) => if coreAlive s core && (s.cslot core slot).valid then (s.cslot core slot).word word else 0
        | none => o.v
      Answers (exec (.waitingInstructionComplete b n) s) fun t =>
        t.thr c = { passOn s.cycle (if o.w64 then takes64 o.d v (s.thr c) else takes32 o.d v.lo (s.thr c)) with
          yielded := o.halts && parkAsked s c.grp } ∧ t.mem = s.mem) ∧
    (∀ l f, arrivalDue s l f = true → Answers (exec (.barrierArrival l f) s) fun t =>
      (t.launch l).barw.getLsbD f = true ∧ (∀ g, g ≠ f → (t.launch l).barw.getLsbD g = (s.launch l).barw.getLsbD g) ∧
      t = { s with launches := t.launches }) ∧
    (∀ l, releaseDue s l s.lead = true → Answers (exec (.barrierRelease l s.lead) s) fun t =>
      (t.launch l).barw = 0 ∧ t.mem = s.mem ∧ ∀ k ∈ blocksOf s l, ∀ m ∈ s.live (.blk k),
        (s.thr ⟨.blk k, m⟩).st = .waiting .barw → (t.thr ⟨.blk k, m⟩).st = .running ∧
          (t.thr ⟨.blk k, m⟩).pc = nextPc (s.thr ⟨.blk k, m⟩).pc ∧ (t.thr ⟨.blk k, m⟩).g = (s.thr ⟨.blk k, m⟩).g) ∧
    ∀ v u, pollDue s v = true → u.svc = false →
      fillRing (ringHeader (quiet s) (ctxAgent s (s.vf v).steward) (s.vf v).fault 0x10 8 (s.vf v).fault.drop) v (s.vf v).hold = u →
      pendingBlocks u v = [] → Answers (exec (.faultHoldPoll v) s) fun t => Woken u t

namespace Sys2Proof

/-! ### Coherence, service requests, failures, the network, start-up -/

/-- A cluster in use asks for a line of a live address space, which has a leaf in force, a home and a class. -/
structure Asks (s : State) (cl asid line home pa : Nat) (e : Dword) : Prop where
  may : mayAsk s cl asid = true
  leaf : lineHome s cl (lineAt asid line) = some (home, pa, e)
  narrow : asid < 2 ^ 16

/-- Every copy of a line but those of the clusters `keep` is gone. -/
def OnlyCopies (t : State) (loc : Nat) (keep : Nat → Prop) : Prop := ∀ x, ¬ keep x → (t.copyAt x loc).st = 3

/-- The bytes of a sector that a mask names are `data`'s, and every other byte is as in `u`. -/
def SectorIs (t u : State) (pa sector : Nat) (mask : BitVec 32) (data : List Byte) : Prop :=
  ∀ a, byteAt t a =
    if pa ≤ a ∧ a < pa + 128 ∧ (a - pa) / 32 = sector % 4 ∧ mask.getLsbD ((a - pa) % 32) = true
    then data.getD ((a - pa) % 32) 0 else byteAt u a

end Sys2Proof

namespace Sys2Proof

/-- The directories record one owner of a line at most: the home's own entry, or one in another field (R332). -/
def OneOwner (s : State) (home loc : Nat) : Prop :=
  Tab.get 0 (s.fdirAt home loc).own (inRegion loc) = 0 ∨ Tab.get 0 (s.sdirAt loc).fown (inRegion loc) = 0

/-- A copy that has been written back and dropped to S. -/
def shared (c : CLine) : CLine := { c with st := 0, dirty := 0, forAtom := none }

end Sys2Proof

/-- R187, R222, R331 to R336, R456: what each step of the coherence protocol does to the copies of a line, to its
recorded owner and to memory. That bytes of classes 1 and 2 stand at their homes is the model's choice (log 25);
predictors' indices are free (log 85). -/
def Obligations.ProtocolSteps : Prop :=
  ∀ (s : State) (cl asid line home pa : Nat) (e : Dword),
    let loc := lineAt asid line
    let unpredicted := ∀ p, p = Tab.get PeerPred.none s.fab.peer (peerKey cl loc) → p.valid = false ∨ p.conf < 2
    (Asks s cl asid line home pa e →
      (2 < (s.copyAt cl loc).st →
        (leafCc e = 0 → ∀ u d, lineFrom s cl loc pa = (u, d) → Answers (exec (.readRequest cl asid line) s) fun t =>
          t.copyAt cl loc = { CLine.none with st := 0, used := s.cycle, data := some d } ∧ t.mem = s.mem ∧
            ((s.copyAt cl loc).data = none → s.fab.l2 = [] → d = s.bytes pa 128)) ∧
        (leafCc e ≠ 0 → Answers (exec (.readRequest cl asid line) s) fun t => (t.copyAt cl loc).st ≤ 1 ∧ t.mem = s.mem ∧
          ∀ x, unpredicted → ownerOf s home loc = some x → x ≠ cl → (s.copyAt x loc).st ≤ 2 →
            (t.copyAt cl loc).st = 0 ∧ (t.copyAt x loc).st = 0)) ∧
      (leafCc e ≠ 0 →
        ((s.copyAt cl loc).st = 1 ∨ (s.copyAt cl loc).st = 2 → Answers (exec (.ownershipRequest cl asid line) s) fun t =>
          (t.copyAt cl loc).st = 2 ∧ (∀ x, x ≠ cl → t.copyAt x loc = s.copyAt x loc) ∧ t.mem = s.mem) ∧
        ((s.copyAt cl loc).st ≠ 1 → (s.copyAt cl loc).st ≠ 2 → Answers (exec (.ownershipRequest cl asid line) s) fun t =>
          (t.copyAt cl loc).st = 2 ∧ (t.copyAt cl loc).dirty = 0 ∧ OnlyCopies t loc (· = cl) ∧ t.mem = (s.markDirty loc).mem) ∧
        (∀ x, OneOwner s home loc → ownerOf s home loc = some x → (s.copyAt x loc).st ≤ 2 →
          Answers (exec (.uncachedRead cl asid line) s) fun t =>
            t.copyAt x loc = shared (s.copyAt x loc) ∧ ownerOf t home loc = none ∧ t.mem = s.mem)) ∧
      (Direct s loc pa (leafMk e) →
        (∀ mask sector data,
          (Answers (exec (.writeRequest cl asid line mask sector data) s) fun t =>
            SectorIs t (s.markDirty loc) pa sector mask data ∧ (leafCc e ≠ 0 → OnlyCopies t loc (· = cl))) ∧
          ((leafCc e = 0 → (s.copyAt cl loc).dirty = 0) → Answers (exec (.uncachedWrite cl asid line mask sector data) s) fun t =>
            SectorIs t (s.markDirty loc) pa sector mask data ∧ (leafCc e ≠ 0 → OnlyCopies t loc fun _ => False))) ∧
        ∀ (addr : Nat) (size : BitVec 3) (v cmp : BitVec 128), addr / 128 = line → addr % 2 ^ size.toNat = 0 →
          (leafCc e = 0 → (s.copyAt cl loc).dirty = 0) →
          let n := 2 ^ size.toNat
          (∀ aop : Aop, size = 2 ∨ size = 3 → Answers (exec (.farAtomic cl asid addr (some aop) size (v, cmp)) s) fun t =>
            Holding (s.markDirty loc) (pa + addr % 128) (aopBytes aop n (s.bytes (pa + addr % 128) n) (toBytes n v.toNat)) t) ∧
          (size = 2 ∨ size = 3 ∨ size = 4 → Answers (exec (.farAtomic cl asid addr none size (v, cmp)) s) fun t =>
            if s.bytes (pa + addr % 128) n = toBytes n cmp.toNat then
              Holding (s.markDirty loc) (pa + addr % 128) (toBytes n v.toNat) t
            else t.mem = s.mem)) ∧
      (leafCc e ≠ 0 →
        ((s.copyAt cl loc).st = 2 → OneOwner s home loc → ownerOf s home loc = some cl → Answers (exec (.eviction cl asid line) s) fun t =>
          t.copyAt cl loc = CLine.none ∧ ownerOf t home loc = none ∧ t.mem = s.mem) ∧
        ((s.copyAt cl loc).st = 1 → Answers (exec (.eviction cl asid line) s) fun t =>
          t.copyAt cl loc = CLine.none ∧ t.mem = s.mem ∧
            (Tab.get 0 (s.fdirAt (cl / 48) loc).own (inRegion loc) = 64 + cl % 48 → noticeDue t cl loc = true)) ∧
        ((s.copyAt cl loc).st = 2 → ownerOf s home loc ≠ some cl → Answers (exec (.eviction cl asid line) s) fun t =>
          ∃ ev, t.events = s.events ++ [ev] ∧ ev.code = 0x406 ∧ ev.nret = 1) ∧
        (s.running = true → OneOwner s home loc → ownerOf s home loc = some cl → (s.copyAt cl loc).st ≤ 2 →
          (Answers (exec (.recall cl asid line true) s) fun t =>
            t.copyAt cl loc = shared (s.copyAt cl loc) ∧ ownerOf t home loc = none ∧ t.mem = s.mem) ∧
          Answers (exec (.recall cl asid line false) s) fun t =>
            t.copyAt cl loc = CLine.none ∧ ownerOf t home loc = none ∧ t.mem = s.mem) ∧
        (2 < (s.copyAt cl loc).st →
          (∀ p, p = Tab.get PeerPred.none s.fab.peer (peerKey cl loc) → p.valid = true → 2 ≤ p.conf →
            let peer := cl / 48 * 48 + p.cluster
            ((s.copyAt peer loc).st ≤ 1 → Answers (exec (.peerProbe cl asid line) s) fun t =>
              (t.copyAt cl loc).st = 0 ∧ (t.copyAt peer loc).st = 0 ∧
              (Tab.get PeerPred.none t.fab.peer (peerKey cl loc)).conf = min 3 (p.conf + 1) ∧ t.mem = s.mem) ∧
            (1 < (s.copyAt peer loc).st → Answers (exec (.peerProbe cl asid line) s) fun t =>
              (t.copyAt cl loc).st ≤ 1 ∧ t.mem = s.mem ∧
              ((∀ x, ownerOf s home loc = some x → x / 16 ≠ cl / 16) →
                (Tab.get PeerPred.none t.fab.peer (peerKey cl loc)).conf = p.conf - 1))) ∧
          ∀ sup, sup / 48 = cl / 48 →
            ((s.copyAt sup loc).st = 0 → Answers (exec (.sharerNotice cl sup asid line) s) fun t =>
              (t.copyAt cl loc).st = 0 ∧ t.inputs = s.inputs ∧ t.mem = s.mem) ∧
            ((s.copyAt sup loc).st ≠ 0 → Answers (exec (.sharerNotice cl sup asid line) s) fun t =>
              (t.copyAt cl loc).st ≤ 1 ∧ t.inputs = s.inputs ∧ t.mem = s.mem)))) ∧
    (s.running = true →
      (∀ d i, d = s.fdirAt (cl / 48) loc → i = inRegion loc →
        (Tab.get 0 d.own i = 64 + cl % 48 → 2 < (s.copyAt cl loc).st →
          exec (.cleanEvictionNotice cl asid line) s = .next (s.setFdir (cl / 48) loc { d with own := Tab.erase d.own i }))) ∧
      (∀ f d h i, d = s.fdirAt f loc → h = s.sdirAt loc → i = inRegion loc → Tab.get 0 h.fown i = 64 + f → Tab.get 0 d.own i = 0 →
        exec (.cleanReleaseNotice f asid line) s = .next ((s.setFdir f loc { d with gr := d.gr &&& ~~~(bitRun 4 i 1) }).setSdir loc
          { h with fown := Tab.erase h.fown i })) ∧
      ((s.copyAt cl loc).st = 0 → (s.copyAt cl loc).data = none → Answers (exec (.invalidation cl asid line) s) fun t =>
        t.copyAt cl loc = CLine.none ∧ (∀ x, x ≠ cl → t.copyAt x loc = s.copyAt x loc) ∧ t.mem = s.mem) ∧
      (∀ f, Answers (exec (.placementEpoch f) s) fun t => t.mem = s.mem ∧ t.granules = s.granules ∧
        (∃ l, t.inputs = s.inputs ++ l ∧ l.length ≤ 8) ∧
        ∀ g ∈ s.granules, g.2.home = f → ∀ k, k / 64 = g.1 → Tab.get 0 t.fab.access k = 0) ∧
      ∀ gran f, mayMove s asid gran f = true → (migrate (quiet s) asid gran f).isSome = true →
        Answers (exec (.migration asid gran f) s) fun t => ∃ g, Tab.find t.granules (granuleKey asid (gran * 2 ^ 21)) = some g ∧
          g.home = f ∧ g.lastMove = s.time) ∧
    ∀ (bank : Bool) (num owner field : Nat),
      let q := (s.part owner).lendTo
      (s.running = true → s.minimal = false → (s.part owner).live = true → (s.part q).live = true → (s.part q).borrow = owner →
        q ≠ owner → unitWell s field bank num = true → marginUnit (partField s owner field) bank num = true →
        holdsUnit (partField s owner field) bank num = true →
        (bank = true → 2 ≤ countBits (partField s owner field).bankh) → (s.part owner).goal = none →
        idleLong s field bank num = true → waitsForRoom (quiet s) owner = false → waitsForRoom (quiet s) q = true →
        Answers (exec (.marginLend field bank num owner) s) fun t =>
          holdsUnit (partField t owner field) bank num = false ∧ holdsUnit (partField t q field) bank num = true ∧
          (t.part owner).gen = (s.part owner).gen + 2 ∧ (t.part q).gen = (s.part q).gen + 2) ∧
      (lentOut s field bank num owner = true → Tab.find s.revokes (revokeKey field bank num) = none →
        waitsForRoom (quiet s) owner = true →
        (unitIdle s field bank num = true → Answers (exec (.revocation field bank num owner) s) fun t =>
          holdsUnit (partField t owner field) bank num = true ∧ holdsUnit (partField t q field) bank num = false) ∧
        Answers (exec (.revocation field bank num owner) s) fun t =>
          holdsUnit (partField t owner field) bank num = true ∨ Tab.find t.revokes (revokeKey field bank num) = some s.time) ∧
      (revoking s field bank num owner = true → unitIdle s field bank num = true →
        Answers (exec (.revocation field bank num owner) s) fun t =>
          holdsUnit (partField t owner field) bank num = true ∧ (t.part owner).gen = (s.part owner).gen + 2) ∧
      (overrun s field bank num owner = true → Answers (exec (.revocationOverrun field bank num owner) s) fun t =>
        t.topoGen = s.topoGen + 2 ∧ ∃ ev, t.events = s.events ++ [ev] ∧ ev.code = 0x404 ∧ ev.unit.field = field)

namespace Sys2Proof

/-- Tolquel performs a request of a virtual function: it answers the status and results, from the state `u` that the request
leaves, in the function's service window (R288). -/
def Replies (s : State) (vf : Nat) (i : Instr) (u : State) (status : Nat) (results : List Nat) : Prop :=
  serving s vf = true → (reply u vf status results).svc = false → exec i s = .next (reply u vf status results)

/-- Tolquel refuses a request with a status, having done nothing. -/
def Turns (s : State) (vf : Nat) (i : Instr) (status : Nat) : Prop := Replies s vf i (quiet s) status []

/-- R288: the arguments of CTX-NEW. -/
structure CtxArgs (s : State) (vf maxsc mode period root : Nat) : Prop where
  maxsc : 1 ≤ maxsc ∧ maxsc ≤ 3
  mode : mode ≤ 1
  period : 10 ≤ period ∧ period ≤ 1000
  root : rootOk s (s.vf vf).part root = true

/-- R353: the arguments of QP-NEW. -/
structure QpArgs (s : State) (vf port prio peerQpn sendPsn recvPsn : Nat) : Prop where
  port : port < 48 ∧ 0 < portShare s (s.vf vf).part port
  prio : prio < 8
  numbers : peerQpn < 2 ^ 24 ∧ sendPsn < 2 ^ 24 ∧ recvPsn < 2 ^ 24

end Sys2Proof

/-- R288: a reply counts, takes its request from the queue, and lands in the service window; and what the requests on
contexts and address spaces do, or with which status they are refused: CTX-NEW, CTX-FREE, ASID-NEW, ASID-FREE and
VF-SET (R285, R289, R460). The layout of arguments, some statuses and a root frame of 0 are the model's readings
(log 73, 74, 76); a context's slot template is free (log 61). -/
def Obligations.ContextRequests : Prop :=
  ∀ (s : State) (vf : Nat),
    (∀ (u : State) (st : Nat) (r : List Nat), let t := reply u vf st r
      (t.vf vf).replies = (u.vf vf).replies + 1 ∧ (t.vf vf).requests = (u.vf vf).requests.drop 1 ∧
        (t.win vf 1023).landed = (u.win vf 1023).landed + 1) ∧
    (∀ maxsc mode period root, let i := Instr.ctxNew vf maxsc mode period root
      (¬ CtxArgs s vf maxsc mode period root → Turns s vf i 1) ∧
      (CtxArgs s vf maxsc mode period root → 4096 ≤ (s.ctxs.filter fun e => e.2.live).length → Turns s vf i 2) ∧
      ∀ c a, CtxArgs s vf maxsc mode period root → (s.ctxs.filter fun e => e.2.live).length < 4096 →
        freshId s 0x10 0xFFF0 s.ctxs.length (fun c => (s.ctx c).live) = some c → freshAsid s = some a →
        0x10 ≤ c ∧ c < 2 ^ 16 ∧ (s.ctx c).live = false ∧ a < 2 ^ 16 ∧ (s.asid a).live = false ∧
        ∃ u, Replies s vf i u 0 [c, a] ∧ u.mem = s.mem ∧
          (u.ctx c).live = true ∧ (u.ctx c).vf = vf ∧ (u.ctx c).part = (s.vf vf).part ∧ (u.ctx c).maxsc = maxsc ∧
          (u.ctx c).drain = (mode == 1) ∧ (u.ctx c).ckper = period ∧ (u.ctx c).priv = 0 ∧ (u.ctx c).asids = [(0, a)] ∧
          (u.ctx c).av = 0 ∧ (u.ctx c).levels = [] ∧ (u.ctx c).hangExp = 32 ∧ (∀ k, k ≠ c → u.ctx k = s.ctx k) ∧
          u.asid a = { root := root, live := true, shared := false, part := (s.vf vf).part, vf := vf, owner := c } ∧
          ∀ k, k ≠ a → u.asid k = s.asid k) ∧
    (∀ ctx,
      (ownCtx s vf ctx = false → Turns s vf (.ctxFree vf ctx) 1) ∧
      (ownCtx s vf ctx = true →
        (liveLaunches s ctx ≠ [] ∨ (∃ e ∈ s.acts, e.2.live = true ∧ e.2.ctx = ctx) ∨ ctx = (s.vf vf).steward →
          Turns s vf (.ctxFree vf ctx) 2) ∧
        (liveLaunches s ctx = [] → (∀ e ∈ s.acts, e.2.live = true → e.2.ctx ≠ ctx) → ctx ≠ (s.vf vf).steward →
          ∃ u, Replies s vf (.ctxFree vf ctx) u 0 [] ∧ u.ctx ctx = Ctx.none ∧
            ∀ k, k ≠ Tab.get 0 (s.ctx ctx).asids 0 → (s.asid k).live = true → (s.asid k).owner = ctx →
              (u.asid k).owner = (s.vf vf).steward))) ∧
    (∀ owner root shared, let i := Instr.asidNew vf owner root shared
      let ok := ownCtx s vf owner = true ∧ shared ≤ 1 ∧ rootOk s (s.vf vf).part root = true
      let n := (s.asids.filter fun e => e.2.live && e.2.owner == owner).length
      (¬ ok → Turns s vf i 1) ∧ (ok → 16 ≤ n → Turns s vf i 2) ∧
      ∀ a, ok → n < 16 → freshAsid s = some a → a < 2 ^ 16 ∧ (s.asid a).live = false ∧
        ∃ u, Replies s vf i u 0 [a] ∧ u.mem = s.mem ∧
          u.asid a = { root := root, live := true, shared := shared == 1, part := (s.vf vf).part, vf := vf, owner := owner } ∧
          ∀ k, k ≠ a → u.asid k = s.asid k) ∧
    (∀ a, let own := (s.asid a).live = true ∧ (s.asid a).vf = vf
      (¬ own → Turns s vf (.asidFree vf a) 1) ∧ (own → asidBound s a = true → Turns s vf (.asidFree vf a) 2) ∧
      (own → asidBound s a = false → ∃ u, Replies s vf (.asidFree vf a) u 0 [] ∧ u.asid a = AsidEnt.none ∧
        (∀ k, k ≠ a → u.asid k = s.asid k) ∧ (∀ e ∈ u.granules, e.1 / 2 ^ 34 ≠ a) ∧
        (∀ e ∈ u.leaves, e.1 / 2 ^ 26 ≠ a) ∧ ∀ e ∈ u.lost, e.1 / 2 ^ 39 ≠ a)) ∧
    ∀ weight quantum period, let i := Instr.vfSet vf weight quantum period
      (255 < weight → Turns s vf i 1) ∧ (weight ≤ 255 → quantum = 0 → Turns s vf i 16) ∧
      (weight ≤ 255 → 10000 < quantum → Turns s vf i 17) ∧
      (weight ≤ 255 → quantum ≠ 0 → quantum ≤ 10000 → period < 10 ∨ 1000 < period → Turns s vf i 18) ∧
      (weight ≤ 255 → quantum ≠ 0 → quantum ≤ 10000 → 10 ≤ period → period ≤ 1000 →
        ∃ u, Replies s vf i u 0 [weight, max quantum 50, period, (if quantum < 50 then 1 else 0) + if weight = 0 then 2 else 0] ∧
          u.vf vf = { s.vf vf with weight := weight, quantum := max quantum 50, period := period } ∧ u.mem = s.mem ∧
          (∀ e ∈ u.ctxs, e.2.live = true → e.2.vf = vf → e.2.ckper = period) ∧ ∀ b, u.blk b = s.blk b)

/-- R288, R296, R196, R339, R447, R449: GATE-RSV, SHADOW-SET, FSTORE-SET and PLACE; R353, R472: QP-NEW, QP-FREE, WIN-
SET, WIN-FREE and WIN-QP, what they do and with which status they are refused. Some statuses and the sum of pools
are the model's readings (log 74, 75). -/
def Obligations.PoolAndWindowRequests : Prop :=
  ∀ (s : State) (vf : Nat),
    let part := (s.vf vf).part
    (∀ entry fields, let i := Instr.gateRsv vf entry fields
      let w0 := gateWord s part entry 0
      let ok := entry < 256 ∧ bitOf w0 16 = true ∧ bitsOf w0 17 6 = vf ∧ (s.ctx (bitsOf w0 0 16)).live = true
      (¬ ok → Turns s vf i 1) ∧
      ∀ u n, ok → reserveAll (quiet s) (bitsOf w0 0 16) 0
          (((List.range 48).filter fun f => fields.getLsbD f).flatMap fun f => partCores s part f true) = (u, n) →
        Replies s vf i u 0 [n]) ∧
    (∀ field frames, let i := Instr.shadowSet vf field frames
      let ok := field < 48 ∧ (Tab.find (s.part part).fields field).isSome = true
      (¬ ok → Turns s vf i 1) ∧
      (ok → let n := min frames (spareFrames s field)
        let x := changeHeld (quiet s) part field fun p => { p with shadow := p.shadow + n }
        Replies s vf i (wake x.releaseHeld) 0 [n] ∧ (x.part part).gen = (s.part part).gen + 2 ∧
          partField x part field = { partField s part field with shadow := (partField s part field).shadow + n })) ∧
    (∀ field mib, let i := Instr.fstoreSet vf field mib
      let ok := field < 48 ∧ (Tab.find (s.part part).fields field).isSome = true ∧ 2 * mib ≤ (partField s part field).fcsh
      (¬ ok → Turns s vf i 1) ∧
      (ok → let x := changeHeld (quiet s) part field fun p => { p with fstore := mib }
        let lo := field * 2 ^ 46 + 0x300000000000 + part * 2 ^ 32
        let u := trimStore x part field mib
        Replies s vf i u 0 [mib] ∧ (x.part part).gen = (s.part part).gen + 2 ∧
          partField x part field = { partField s part field with fstore := mib } ∧
          (∀ a, lo + mib * 2 ^ 20 ≤ a → a < lo + 2 ^ 32 → byteAt u a = 0) ∧
          ((∀ e ∈ s.tlb, leafMk e.2.leaf ≠ 1) → ∀ a, a < lo + mib * 2 ^ 20 ∨ lo + 2 ^ 32 ≤ a → byteAt u a = byteAt s a))) ∧
    (∀ asid addr field, let i := Instr.place vf asid addr field
      let key := granuleKey asid addr
      let gran := addr % 2 ^ 55 / 2 ^ 21
      let granule (f : Nat) : Granule := Tab.get (Granule.first f) s.granules key
      let may := (s.asid asid).live = true ∧ ((s.asid asid).vf = vf ∨ (s.asid asid).shared = true ∧ (s.asid asid).part = part)
      (¬ may → Turns s vf i 1) ∧
      (may →
        (48 ≤ field → field ≠ 0xFF → Turns s vf i 1) ∧
        (field = 0xFF → granuleHome s asid gran = none → Turns s vf i 1) ∧
        (∀ f, field = 0xFF → granuleHome s asid gran = some f →
          Replies s vf i { quiet s with granules := Tab.put s.granules key { granule f with pinned := false } } 0 [f]) ∧
        (field < 48 →
          (granuleHome s asid gran = some field →
            Replies s vf i { quiet s with granules := Tab.put s.granules key { granule field with pinned := true } } 0 [field]) ∧
          (granuleHome s asid gran ≠ some field →
            (granStore s asid gran = true ∨ canTake s asid gran field = false → Turns s vf i 1) ∧
            (granStore s asid gran = false → canTake s asid gran field = true →
              (migrate (quiet s) asid gran field).isSome = true →
              ∃ u x, Replies s vf i u 0 [field] ∧ Tab.find u.granules key = some x ∧ x.home = field ∧ x.pinned = true))))) ∧
    (∀ port prio ip peerQpn sendPsn recvPsn, let i := Instr.qpNew vf port prio ip peerQpn sendPsn recvPsn
      let ok := QpArgs s vf port prio peerQpn sendPsn recvPsn
      let n := (s.qps.filter fun e => e.2.live && e.2.port == port).length
      (¬ ok → Turns s vf i 1) ∧ (ok → 8192 ≤ n → Turns s vf i 2) ∧
      ∀ q, ok → n < 8192 → freshId s 0 (2 ^ 24) s.qps.length (fun q => (s.qp q).live) = some q → q < 2 ^ 24 ∧ (s.qp q).live = false ∧
        ∃ u, Replies s vf i u 0 [q] ∧ (∀ k, k ≠ q → u.qp k = s.qp k) ∧ u.mem = s.mem ∧
          u.qp q = { Qp.none with live := true, vf := vf, port := port, prio := prio, ip := ip, peer := peerQpn, sendPsn := sendPsn, recvPsn := recvPsn }) ∧
    (∀ q, (ownQp s vf q = false → Turns s vf (.qpFree vf q) 1) ∧
      (ownQp s vf q = true →
        ((∃ e ∈ (s.vf vf).wins, e.2.kind ≠ 0 ∧ e.2.qpn = q) → Turns s vf (.qpFree vf q) 2) ∧
        ((∀ e ∈ (s.vf vf).wins, e.2.kind ≠ 0 → e.2.qpn ≠ q) → Replies s vf (.qpFree vf q) ((quiet s).setQp q Qp.none) 0 []))) ∧
    (∀ win w0 w1 w2 w3 w4 w5, let i := Instr.winSet vf win w0 w1 w2 w3 w4 w5
      let x := winEntry w0 w1 w2 w3 w4 w5
      (1023 ≤ win → Turns s vf i 1) ∧ (win < 1023 → (s.win vf win).kind ≠ 0 → Turns s vf i 2) ∧
      (win < 1023 → (s.win vf win).kind = 0 → winOk s vf x = false → Turns s vf i 1) ∧
      (win < 1023 → (s.win vf win).kind = 0 → winOk s vf x = true → Replies s vf i ((quiet s).setWin vf win x) 0 []) ∧
      x.landed = 0 ∧ x.sent = 0 ∧ x.consumed = 0 ∧ x.post = 0) ∧
    (∀ win, (1023 ≤ win ∨ (s.win vf win).kind = 0 → Turns s vf (.winFree vf win) 1) ∧
      (win < 1023 → (s.win vf win).kind ≠ 0 →
        (winCmds s vf win ≠ [] → serving s vf = true →
          exec (.winFree vf win) s = .next (s.modWin vf win fun x => { x with closing := true })) ∧
        (winCmds s vf win = [] → Replies s vf (.winFree vf win) ((quiet s).setWin vf win Win.none) 0 []))) ∧
    ∀ win q, let ok := win < 1023 ∧ (s.win vf win).kind ≠ 0 ∧ ownQp s vf q = true
      (¬ ok → Turns s vf (.winQp vf win q) 1) ∧
      (ok → q < 2 ^ 24 → Replies s vf (.winQp vf win q)
        (repost ((quiet s).modWin vf win fun x => { x with w0 := setBits x.w0 16 24 q }) vf win) 0 [])

/-- R360, R362 to R364, R371, R373, R376, R408, R409, R411, R449, R450, R461: ATTEST, TRACE-SET, FAULT-SET, CTR-SET,
DBG-SET, LOG-SET, ABORT, SNAP-CLOSE and HANG-SET, what they do and with which status they are refused. Some statuses
and the answer to an unknown launch are the model's readings (log 59, 74); digests and signatures are opaque (log
89). -/
def Obligations.ControlRequests : Prop :=
  ∀ (s : State) (vf : Nat),
    (∀ addr nonce, let i := Instr.attest vf addr nonce
      (addr % 64 ≠ 0 ∨ 2 ^ 57 ≤ addr → Turns s vf i 1) ∧
      (addr % 64 = 0 → addr < 2 ^ 57 → ∀ u r,
        storeTo (quiet s) (ctxAgent s (s.vf vf).steward) addr 1 false false (attestReport s (some ((s.vf vf).part, vf)) nonce) = (u, r) →
        Replies s vf i u (if r = .done then 0 else 1) [])) ∧
    (∀ base n enables k, let i := Instr.traceSet vf base n enables k
      let ok := ringOk base n (2 ^ 20) = true ∧ enables < 8 ∧ (k = 0 ∨ 10 ≤ k ∧ k ≤ 24)
      (¬ ok → Turns s vf i 1) ∧
      ∀ u r, ok → setRing (quiet s) (ctxAgent s (s.vf vf).steward) (s.vf vf).trace base n = (u, r) →
        Replies s vf i (u.modVf vf fun f =>
          { f with trace := r, enables := if n = 0 then 0 else enables, sampleK := if n = 0 then 0 else k }) 0 []) ∧
    (∀ base n, let i := Instr.faultSet vf base n
      (ringOk base n (2 ^ 16) = false → Turns s vf i 1) ∧
      ∀ u r, ringOk base n (2 ^ 16) = true → setRing (quiet s) (ctxAgent s (s.vf vf).steward) (s.vf vf).fault base n = (u, r) →
        Replies s vf i (u.modVf vf fun f => { f with fault := r }) 0 []) ∧
    (∀ ag old base n u r, n ≠ 0 → setRing s ag old base n = (u, r) →
      r.base = base ∧ r.n = n ∧ r.wr = 0 ∧ r.drop = 0 ∧ (r.state = 1 ∨ r.state = 2)) ∧
    (∀ ctr cfg,
      (serving s vf = true → ctrStatus vf ctr cfg true = 0 → exec (.ctrSet vf ctr cfg true) s = .next (setCtr s (s.vf vf).part ctr cfg)) ∧
      (ctrStatus vf ctr cfg false = 0 → Replies s vf (.ctrSet vf ctr cfg false) (setCtr (quiet s) (s.vf vf).part ctr cfg) 0 []) ∧
      (ctrStatus vf ctr cfg false ≠ 0 → Turns s vf (.ctrSet vf ctr cfg false) (ctrStatus vf ctr cfg false)) ∧
      Tab.get Ctr.none ((setCtr s (s.vf vf).part ctr cfg).part (s.vf vf).part).ctrs ctr = { cfg := cfg, val := 0 }) ∧
    (∀ ctx entry w0 w1, let i := Instr.dbgSet vf ctx entry w0 w1
      (ownCtx s vf ctx = false → Turns s vf i 1) ∧
      (ownCtx s vf ctx = true →
        (entry = 255 → Replies s vf i ((quiet s).modCtx ctx fun x => { x with bken := bitOf w0 0 }) 0 []) ∧
        (entry < 8 → dbgOk entry w0 w1 = true → Replies s vf i ((quiet s).modCtx ctx fun x =>
          { x with dbg := Tab.put x.dbg entry { addr := w0, w1 := w1 &&& 0xFF } }) 0 []) ∧
        (entry ≠ 255 → 8 ≤ entry ∨ dbgOk entry w0 w1 = false → Turns s vf i 1))) ∧
    (∀ ctx mode base len, let i := Instr.logSet vf ctx mode base len
      let ok := ownCtx s vf ctx = true ∧ mode ≤ 2 ∧ (mode = 0 ∨ len % 64 = 0 ∧ 128 ≤ len)
      (¬ ok → Turns s vf i 1) ∧
      (ok → Replies s vf i ((quiet s).modCtx ctx fun x => { x with logMode := mode, logBase := base, logLen := len }) 0 [])) ∧
    (∀ ctx lnum, let i := Instr.abort vf ctx lnum
      (ownCtx s vf ctx = false → Turns s vf i 1) ∧
      (ownCtx s vf ctx = true →
        (abortWaits s ctx lnum = true → exec i s = .next s ∨ serving s vf = false) ∧
        (abortWaits s ctx lnum = false → lnum ≠ 0 → abortNames s ctx lnum = [] → Replies s vf i (quiet s) 0 [0]) ∧
        (abortWaits s ctx lnum = false → lnum = 0 ∨ abortNames s ctx lnum ≠ [] →
          ∃ u, Replies s vf i u 0 [(abortNames s ctx lnum).length] ∧ u.mem = s.mem ∧ (lnum = 0 → Aborted s ctx u)))) ∧
    (∀ ctx level op, let i := Instr.snapClose vf ctx level op
      let ok := ownCtx s vf ctx = true ∧ 1 ≤ level ∧ level ≤ (s.ctx ctx).levels.length ∧ op ≤ 1
      let runs := ∃ e ∈ s.blocks, e.2.st = .resident ∧ e.2.halted = false ∧ (s.launch e.2.launch).ctx = ctx
      (¬ ok → Turns s vf i 1) ∧ (ok → runs → Turns s vf i 2) ∧
      (ok → ¬ runs → Replies s vf i (wake ((if op = 0 then acceptLevels else rejectLevels) (quiet s) ctx level).releaseHeld) 0 [])) ∧
    ∀ ctx h, let i := Instr.hangSet vf ctx h
      let ok := ownCtx s vf ctx = true ∧ 24 ≤ h ∧ h ≤ 40
      (¬ ok → Turns s vf i 1) ∧
      (ok → Replies s vf i ((quiet s).modCtx ctx fun x => { x with hangExp := h }) 0 [2 ^ h])

namespace Sys2Proof

/-- A step has fenced a unit: the topology table has a new generation, one device event names the unit, and none of its
cores is alive (R465 to R468). -/
structure Fenced (s t : State) (u : UnitId) (code : Nat) : Prop where
  generation : t.topoGen = s.topoGen + 2
  event : ∃ e, t.events = s.events ++ [e] ∧ e.code = code ∧ e.unit = u ∧ e.time = s.time
  cores : ∀ c ∈ unitCoresOf u, coreAlive t c = false

/-- The words of a line of code as memory holds it, where it is mapped to storage of this device (R60). -/
def codeLine (s : State) (core asid line : Nat) : BitVec 512 :=
  match leafInForce s (asid * 2 ^ 55 + 64 * line) with
  | some ent =>
    if leafKind ent.leaf = 2 ∧ leafMk ent.leaf ≠ 2 then
      .ofNat 512 (ofBytes (s.bytes (leafPa s core asid (64 * line) ent) 64)) else 0
  | none => 0

end Sys2Proof

/-- R29, R60, R66, R367, R422, R346, R471, R484: a code line arrives at a core, once more where it fails its parity
check; a sample of the next thread of a virtual function on a core is traced; a field lowers or restores its clock
rate; links and lanes come up and go down. R451 to R453, R465 to R468: a unit that fails is fenced, and an
uncorrectable error of DRAM retires the page of its line. That failures are inputs, and which lines they lose, is
the model's choice (log 77, 78, 80, 81). -/
def Obligations.UnitsAndFailures : Prop :=
  ∀ (s : State),
    (∀ core asid line (first second : Option (BitVec 512)), coreAlive s core = true → (s.asid asid).live = true →
      let l1 := first.getD (codeLine s core asid line)
      Answers (exec (.lineFetch core asid line first second) s) fun t =>
        Tab.find (t.core core).lines (lineKey asid (64 * line)) =
          some (if (l1.extractLsb' 480 32).extractLsb' 16 16 = lineParity l1 then l1 else second.getD (codeLine s core asid line)) ∧
        (lineGood l1 = false → lineGood (second.getD (codeLine s core asid line)) = false →
          lineKey asid (64 * line) ∈ (t.core core).failed) ∧
        t.mem = s.mem ∧ (∀ k, k ≠ core → t.core k = s.core k) ∧ (∀ b, t.blk b = s.blk b)) ∧
    (∀ core vf c0 r, sampleList s core vf = c0 :: r → traceOn s vf 1 = true →
      let i := Tab.get 0 (s.core core).sampleRot vf
      let c := (c0 :: r).getD (i % (r.length + 1)) c0
      let w := (quiet s).modCore core fun k => { k with sampleRot := Tab.put k.sampleRot vf (i + 1) }
      let u := traceWrite w vf (coreField core) (sampleBytes (wid w c).toNat (c.grp.launch w).lnum (c.grp.ctx w) (sampleCode w c).1 (sampleCode w c).2.toNat
        s.time (s.thr c).icount.toNat core)
      u.svc = false → exec (.pcSample core vf) s = .next u ∧ Tab.get 0 (u.core core).sampleRot vf = i + 1) ∧
    (s.running = true →
      (∀ f, f < 48 → exec (.thermalLimit f) s = .next (s.modField f fun x => { x with throttled := true }) ∧
        exec (.returnWithinLimit f) s = .next (s.modField f fun x => { x with throttled := false })) ∧
      (∀ u : UnitId, u.kind = .core ∨ u.kind = .cluster ∨ u.kind = .sector → unitThere s u = true →
        Answers (exec (.heartbeatTimeout u) s) fun t => Fenced s t u 0x403) ∧
      (∀ f n, let u : UnitId := { field := f, kind := .sector, num := n, k := 0 }
        unitThere s u = true → Answers (exec (.crossbarPortParityError f n false) s) fun t => Fenced s t u 0x403) ∧
      (∀ f n k, 3 ≤ k → let u : UnitId := { field := f, kind := .channel, num := n, k := 0 }
        unitThere s u = true → Answers (exec (.memoryChannelRetraining f n k) s) fun t =>
          Fenced s t u 0x403 ∧ (t.field f).chan.getLsbD n = false) ∧
      (∀ f d b, f < 48 → neighbour f d = some b → (s.field f).linkFailed.getLsbD d = false →
          (s.field b).linkFailed.getLsbD (opposite d) = false → (s.field f).state ≠ 4 → (s.field b).state ≠ 4 →
        (Answers (exec (.linkRetrain f d 0) s) fun t => t.topoGen = s.topoGen + 2 ∧
          (t.field f).linkUp.getLsbD d = false ∧ (t.field b).linkUp.getLsbD (opposite d) = false) ∧
        (Answers (exec (.linkRetrain f d 1) s) fun t => t.topoGen = s.topoGen + 2 ∧
          (t.field f).linkUp.getLsbD d = true ∧ (t.field b).linkUp.getLsbD (opposite d) = true) ∧
        Answers (exec (.linkRetrain f d 2) s) fun t =>
          Fenced s t { field := f, kind := .link, num := d, k := 0 } 0x403 ∧
          (t.field f).linkUp.getLsbD d = false ∧ (t.field b).linkUp.getLsbD (opposite d) = false ∧
          (t.field f).linkFailed.getLsbD d = true ∧ (t.field b).linkFailed.getLsbD (opposite d) = true) ∧
      (∀ p lanes, p < 48 → s.minimal = false → (s.port p).failed = false →
        (Answers (exec (.laneTraining p lanes true) s) fun t => t.port p = { s.port p with
          lanes := lanes, up := lanes == 255 && (s.field (portField p)).state != 4, failed := false } ∧
          (lanes ≠ 255 → ∀ q, (s.qp q).live = true → (s.qp q).port = p → (t.qp q).err = true)) ∧
        Answers (exec (.laneTraining p lanes false) s) fun t => t.port p = { s.port p with up := false, failed := true } ∧
          (∀ q, (s.qp q).live = true → (s.qp q).port = p → (t.qp q).err = true) ∧ t.topoGen = s.topoGen + 2 ∧
          ∃ e, t.events = s.events ++ [e] ∧ e.code = 0x403 ∧ e.unit = { field := portField p, kind := .port, num := portIndex p, k := 0 }) ∧
      ∀ f pa b, f < 48 → let u : UnitId := { field := f, kind := .channel, num := pa / 2 ^ 16 % 8, k := 0 }
        (Answers (exec (.memoryUncorrectable .dram f pa b) s) fun t =>
          (Tab.get Frame.none t.frames (pa / 2 ^ 16)).retired = true ∧
          ∃ e l, t.events = s.events ++ e :: l ∧ e.code = 0x402 ∧ e.nret = 1 ∧ e.unit = u ∧ ∀ x ∈ l, x.code = 0x403 ∧ x.unit = u) ∧
        Answers (exec (.memoryUncorrectable .l2 f pa b) s) fun t =>
          ∃ e l, t.events = s.events ++ e :: l ∧ e.code = 0x402 ∧ e.unit = u ∧
            ∀ x ∈ l, x.code = 0x403 ∧ x.unit.field = f ∧ x.unit.kind = .slice ∧ (t.field f).slices.getLsbD x.unit.num = false)

namespace Sys2Proof

/-- The state in which a request that has arrived is performed: marked packets are answered, and it is the one of its
queue pair being served (R347, R348). -/
def requested (s : State) (k : ReqKind) (r : InReq) : State :=
  (if reaches s r.qpn then noteCongestion (quiet s) r else quiet s).serveLater k r

/-- The number under which it is served. -/
def servedAs (s : State) (r : InReq) : Nat := freshServed (if reaches s r.qpn then noteCongestion (quiet s) r else quiet s)

/-- Nothing of its queue pair is being served when it arrives. -/
def FirstOn (s : State) (r : InReq) : Prop := ∀ e ∈ s.served, e.2.r.qpn ≠ r.qpn

/-- The bytes of a remote request land, none of them held at a home or on its way to another device (R348, R447, R352). -/
def Lands (u v : State) (id : Nat) (r : InReq) : Prop :=
  landHeld u r = false ∧ landBytes u id r = v ∧ landHeld v r = false ∧ askedFor v id = false

/-- An answer to a request that leaves by its port at once: no pause holds it, and its queue pair does not end in this
module (R346, R351). -/
def Departs (v : State) (r : InReq) : Prop :=
  loopPeer v r.qpn = none ∧ (v.port (v.qp r.qpn).port).paused.getLsbD (v.qp r.qpn).prio = false

end Sys2Proof

/-- R205, R310, R347 to R349, R352, R354, R471: requests of remote parties that pass their checks land or are answered,
and others are refused; the device's own operations complete with their acknowledgements and answers, are sent
again, and after eight tries put their queue pair in the error state; its rate falls and rises; pauses and the
master's time. That peers and timers are inputs is the model's choice (log 72); unanswered operations on a dead pair
are a reading (log 69). -/
def Obligations.NetworkSteps : Prop :=
  ∀ (s : State) (r : InReq) (q psn : Nat),
    let id := servedAs s r
    (FirstOn s r → ∀ (u v : State),
      let bs := r.data.take r.len
      let r' : InReq := { r with data := bs }
      (inbound (requested s .write r) r' bs.length false false = (u, .ok) → Lands u v id r' → v.svc = false →
        Answers (exec (.rdmaWrite r) s) fun t => (Departs v r → t.out = v.out ++ [.ack r.qpn]) ∧ t.mem = v.mem ∧
          (t.win r.vf r.win).landed = (v.win r.vf r.win).landed ∧ Tab.find t.served id = none) ∧
      (inbound (requested s .writeImm r) r' bs.length true false = (u, .ok) → Lands u v id r' → v.svc = false →
        Answers (exec (.rdmaWriteWithImmediate r) s) fun t => (Departs v r → t.out = v.out ++ [.ack r.qpn]) ∧ t.mem = v.mem ∧
          (t.win r.vf r.win).landed = (v.win r.vf r.win).landed +
            if (v.win r.vf r.win).kind = 2 then 1 else .ofNat 64 (r.imm.toNat % 2 ^ 16)) ∧
      (inbound (requested s .write r) r' bs.length false false = (u, .nak) → u.svc = false →
        exec (.rdmaWrite r) s = .next (keepServed id (sayBack u r' (.nak r.qpn), none)) ∧
          (Departs u r → (sayBack u r' (.nak r.qpn)).out = u.out ++ [.nak r.qpn])) ∧
      (inbound (requested s .write r) r' bs.length false false = (u, .drop) → u.svc = false →
        exec (.rdmaWrite r) s = .next (keepServed id (u, none))) ∧
      (inbound (requested s .write r) r' bs.length false false = (u, .later) → u.svc = false →
        Answers (exec (.rdmaWrite r) s) fun t => t.mem = u.mem ∧ t.out = u.out ∧ ∃ v, Tab.find t.served id = some v ∧ v.r = r)) ∧
    (FirstOn s r → ∀ (u v : State) bs, inbound (requested s .read r) r r.len false false = (u, .ok) → v.svc = false →
      loadAt u (windowAgent u r.vf (u.win r.vf r.win)) ((u.win r.vf r.win).lbase + r.off) r.len 3 false = (v, .bytes bs) →
      exec (.rdmaRead r) s = .next (keepServed id (sayBack v r (.reply r.qpn bs), none)) ∧
        (Departs v r → (sayBack v r (.reply r.qpn bs)).out = v.out ++ [.reply r.qpn bs])) ∧
    (FirstOn s r → ∀ (i : Instr) (k : ReqKind) (new : Dword → Dword), (i = .fetchAdd r ∧ k = .add ∧ new = fun v => v + r.add) ∨
        (i = .cmpSwap r ∧ k = .swap ∧ new = fun v => if v = r.cmp then r.add else v) →
      ∀ (u v w : State) bs res, inbound (requested s k r) r 8 false true = (u, .ok) →
        let x := u.win r.vf r.win
        loadAt u (windowAgent u r.vf x) (x.lbase + r.off) 8 3 false = (v, .bytes bs) →
        storeTo v (windowAgent u r.vf x) (x.lbase + r.off) 3 false false (toBytes 8 (new (.ofNat 64 (ofBytes bs))).toNat) = (w, res) →
        w.held.length = v.held.length → w.svc = false →
        Answers (exec i s) fun t => (Departs w r → t.out = w.out ++ [.reply r.qpn bs]) ∧ t.mem = w.mem) ∧
    (reaches s q = true →
      ((∃ o ∈ (s.qp q).out, o.psn = psn) → Answers (exec (.ack q psn) s) fun t =>
        (t.qp q).tries = 0 ∧ (t.qp q).rnr = 0 ∧ (∀ o ∈ (t.qp q).out, o ∈ (s.qp q).out) ∧
        ∀ o ∈ (t.qp q).out, o.psn = psn → o.wantsData = true) ∧
      (∀ o data, (s.qp q).out.find? (fun o => o.psn == psn && (o.wantsData || o.kind == 9)) = some o →
        let u := giveData ((quiet s).setQp q { s.qp q with out := (s.qp q).out.erase o, tries := 0, rnr := 0 }) o data
        u.svc = false → Answers (exec (.rdmaReadResponse q psn data) s) fun t => Woken u t) ∧
      ((s.qp q).out ≠ [] →
        ((s.qp q).rnr < 7 → Answers (exec (.rnrNak q) s) fun t => t.qp q = { s.qp q with rnr := (s.qp q).rnr + 1 } ∧
          ∃ l, t.out = s.out ++ l) ∧
        (7 ≤ (s.qp q).rnr → Answers (exec (.rnrNak q) s) fun t => (t.qp q).err = true)) ∧
      (1 < (s.qp q).rate → Answers (exec (.congestionNotification q) s) fun t => ∃ n, t.qp q = { s.qp q with rate := n } ∧
        1 ≤ n ∧ n < (s.qp q).rate)) ∧
    ((s.qp q).live = true →
      ((s.qp q).rate < 1024 → Answers (exec (.rateRecovery q) s) fun t => ∃ n, t.qp q = { s.qp q with rate := n } ∧
        (s.qp q).rate < n ∧ n ≤ 1024) ∧
      ((s.qp q).err = false → (s.qp q).out ≠ [] →
        ((s.qp q).tries < 7 → Answers (exec (.ackTimeout q) s) fun t => t.qp q = { s.qp q with tries := (s.qp q).tries + 1 } ∧
          ∃ l, t.out = s.out ++ l) ∧
        (7 ≤ (s.qp q).tries → Answers (exec (.ackTimeout q) s) fun t => (t.qp q).err = true ∧ t.out = s.out))) ∧
    (s.running = true →
      (∀ p prios pause, p < 50 → (anyPort s p).up = true →
        let x := anyPort s p
        let m : BitVec 8 := if p < 48 then prios else 1
        let held := if pause then x.paused ||| m else x.paused &&& ~~~m
        Answers (exec (.pauseFrame p prios pause) s) fun t =>
          anyPort t p = { x with paused := held, queued := x.queued.filter fun e => held.getLsbD e.1 } ∧
          t.out = s.out ++ (x.queued.filter fun e => !held.getLsbD e.1).map (·.2) ∧ t.mem = s.mem) ∧
      ∀ time : Dword,
        (s.ptpLocked = false → s.time < time.toNat →
          exec (.ptpMessage time) s = .next { s with ptpLocked := true, time := time.toNat, slew := 0 }) ∧
        (s.ptpLocked = true ∨ time.toNat ≤ s.time →
          exec (.ptpMessage time) s = .next { s with ptpLocked := true, slew := (time.toNat : Int) - (s.time : Int) }))

namespace Sys2Proof

/-- A report with which a start comes to its end, in a state whose fuses and images are those of z: `lead` is the
first field that passes (R355, R356, R358), and loads the image of slot `image`. -/
structure GoodStart (z : State) (r : StartReport) (lead image : Nat) : Prop where
  magicOk : r.magicOk = true
  powerOk : r.powerOk = true
  serviceOk : r.serviceOk = true
  stall : r.stall = none
  field : lead < 48
  slot : bootSlot z lead = some image
  healthy : reportHealthy (z.fuse lead) (r.fields.getD lead noReport) = true
  alive : r.deadLeads.getLsbD lead = false
  first : ∀ f, f < lead → (bootSlot z f).isSome = true → reportHealthy (z.fuse f) (r.fields.getD f noReport) = false

/-- The module's fuses, which a start of one that has none yet reports (R17). -/
def startFuses (s : State) (r : StartReport) : List Fuse := if s.fuses = [] then r.fuses else s.fuses

/-- A resize has taken effect: the partition's record is that of its new fields (R278, R281). -/
structure Resized (s t : State) (p : Nat) (g : List (Nat × PartField)) : Prop where
  gen : (t.part p).gen = (s.part p).gen + 2
  goal : (t.part p).goal = none
  fields : (t.part p).fields = enterFields (fun f q => resized (partField s p f) q) g

end Sys2Proof

/-- R17, R26 to R28, R278, R279, R355 to R360, R408, R409, R470, R473 to R475: a start that succeeds leaves the device
running with its lead field, in normal mode unless four have failed; one that fails or does not end leaves its cause.
A warm reset ends what runs and performs steps 1 and 5. Power loss keeps the flash and the fuses. Partitions are
created, resized and destroyed; and what the operator asks. That a start is one event, but for one that stalls, is the
model's choice (log 90), and so are the readings of log 91, 94 and 118. -/
def Obligations.StartAndOperator : Prop :=
  ∀ (s : State) (r : StartReport),
    (s.running = false → s.lockedOff = false → s.starting = false → shipped (startFuses s r) = true →
      (r.magicOk = false → Answers (exec (.powerOn r) s) fun t => t.running = false ∧ t.boot.cause = 6 ∧ t.boot.attempts = 1) ∧
      (r.magicOk = true → r.powerOk = false → Answers (exec (.powerOn r) s) fun t => t.running = false ∧ t.boot.cause = 3 ∧
        t.boot.attempts = min 255 (s.boot.attempts + 1)) ∧
      (r.magicOk = true → r.powerOk = true → r.stall = some 1 → Answers (exec (.powerOn r) s) fun t =>
        t.running = false ∧ t.starting = true ∧ t.boot.steps = 0 ∧ t.boot.attempts = min 255 (s.boot.attempts + 1)) ∧
      ∀ lead image, GoodStart { s with fuses := startFuses s r } r lead image →
        Answers (exec (.powerOn r) s) fun t => t.running = true ∧ t.powered = true ∧ t.starting = false ∧ t.lead = lead ∧
          t.topoGen = 2 ∧ t.boot.steps = 0x1F ∧ t.boot.imgok = image ∧ t.fuses = startFuses s r ∧
          t.boot.mode = (if 4 ≤ min 255 (s.boot.attempts + 1) then 1 else s.boot.mode) ∧ t.minimal = (t.boot.mode == 1) ∧
          (t.boot.mode = 0 → t.boot.attempts = 0 ∧ t.boot.cause = 0 ∧ t.boot.cfield = 0xFF) ∧ (t.part 0).live = true ∧
          (s.powered = false → t.mem = [] ∧ t.blocks = [])) ∧
    (s.starting = true → Answers (exec .startTimeout s) fun t =>
      t.running = false ∧ t.starting = false ∧ t.boot.cause = 4 ∧ t.boot.cfield = 0xFF) ∧
    (s.starting = false → exec .startTimeout s = .next s) ∧
    (exec .powerLoss s = .next { State.reset with
      boot := s.boot, imageA := s.imageA, imageB := s.imageB, fuses := s.fuses, lockedOff := s.lockedOff, cycle := s.cycle
      draws := s.draws, inputs := s.inputs }) ∧
    (s.running = false → s.lockedOff = true →
      exec .operatorClearAttempts s = .next { s with boot := { s.boot with attempts := 0 }, lockedOff := false }) ∧
    (∀ p g, (s.part p).goal = some g → Resized s (finishResize s p) p g) ∧
    (s.running = true →
      (exec .operatorClearAttempts s = .next { s with boot := { s.boot with attempts := 0, mode := 0 } }) ∧
      (r.magicOk = true → r.powerOk = false → Answers (exec (.warmReset r) s) fun t => t.running = false ∧ t.boot.cause = 3) ∧
      (r.magicOk = true → r.powerOk = true → r.stall = none →
        Answers (exec (.warmReset r) s) fun t => t.running = true ∧ t.lead = s.lead ∧ t.topoGen = s.topoGen + 2 ∧
          t.boot.steps = 0x11 ∧ t.boot.imgok = s.boot.imgok ∧
          (∀ b, (t.blk b).st ≠ .resident) ∧ t.tlb = [] ∧ t.fab.clines = [] ∧ t.cores = [] ∧
          ∀ a, 0x300000000000 ≤ a % 2 ^ 46 → byteAt t a = 0) ∧
      (∀ f, f < 48 → f ≠ s.lead → (s.field f).state < 2 → hopsOf s s.lead f = 0xFF →
        Answers (exec (.leadReachTimeout f) s) fun t => (t.field f).state = 4 ∧ (t.field f).linkUp = 0 ∧ t.topoGen = s.topoGen + 2 ∧
          ∃ e, t.events = s.events ++ [e] ∧ e.code = 0x403 ∧ e.unit.field = f) ∧
      (∀ p fields,
        (∀ lendTo borrow, s.minimal = false → 1 ≤ p → p ≤ 31 → (s.part p).live = false → banksEverywhere s fields = true →
          fields.all (partFits s p) = true →
          exec (.partitionCreate p fields lendTo borrow) s = .next (s.setPart p { Partition.none with
            live := true, lendTo := lendTo, borrow := borrow, gen := 2, fields := enterFields (fun _ p => heldNowField p) fields })) ∧
        (s.minimal = false → 1 ≤ p → (s.part p).live = true → (s.part p).goal = none → banksEverywhere s fields = true →
          fields.all (partFits s p) = true → resizeKeeps s p fields = true →
          Answers (exec (.partitionResize p fields) s) fun t => Resized s t p fields ∨
            (resizeDue t p = false ∧ (t.part p).goal = some fields ∧ (t.part p).gen = (s.part p).gen ∧
              (t.part p).fields = (s.part p).fields)) ∧
        (1 ≤ p → (s.part p).live = true → (∀ e ∈ s.vfs, e.2.live = true → e.2.part ≠ p) →
          (∀ e ∈ (s.part p).fields, e.2.clusm &&& ~~~e.2.clush = 0 ∧ e.2.bankm &&& ~~~e.2.bankh = 0) →
          let u := (s.part p).fields.foldl (fun u e => (borrowed s p e.1).foldl (fun u x => handUnit u e.1 x.1 x.2.1 p x.2.2)
            (trimStore u p e.1 0)) (quiet s)
          u.svc = false → Answers (exec (.partitionDestroy p) s) fun t => Woken { u with parts := Tab.erase u.parts p } t)) ∧
      (s.minimal = true →
        (∀ slot image sel, exec (.imageWrite slot image sel) s = .next { s with
          imageA := if slot then s.imageA else image, imageB := if slot then image else s.imageB
          boot := { s.boot with imgsel := match sel with | some b => b.toNat | none => s.boot.imgsel } }) ∧
        ∀ f rep, f < 48 → f ≠ s.lead → let x := reportField (s.fuse f) rep f
          (x.state = 4 → (s.field f).state ≠ 4 → Answers (exec (.fieldSelfTest f rep) s) fun t =>
            (t.field f).state = 4 ∧ t.topoGen = s.topoGen + 2) ∧
          (x.state ≠ 4 → Answers (exec (.fieldSelfTest f rep) s) fun t =>
            t.field f = { x with linkUp := (t.field f).linkUp, frames := (t.field f).frames, linkFailed := (s.field f).linkFailed
                                 retired := (s.field f).retired, throttled := (s.field f).throttled } ∧ t.topoGen = s.topoGen + 2)) ∧
      (∀ nonce, let m := OutMsg.attest (attestReport s none nonce)
        exec (.operatorAttest nonce) s = .next (sayOperator s m) ∧
        ((anyPort s 48).up = true → (anyPort s 48).paused.getLsbD 0 = false → sayOperator s m = { s with out := s.out ++ [m] })) ∧
      ∀ ctx, isSteward s ctx = true →
        ((resumeTarget (quiet s) ctx none).svc = false → Answers (exec (.operatorResume ctx) s) fun t =>
          Woken (resumeTarget (quiet s) ctx none) t) ∧
        (abortWaits s ctx 0 = false → Answers (exec (.operatorAbort ctx) s) fun t => Aborted s ctx t ∧ t.mem = s.mem))

namespace Sys2Proof

/-! ### The machine as a whole -/

/-- What every step keeps: memory and the generations of the topology and partition tables in their forms, the boot
record within its fields, and a module that runs only while powered and not held off. -/
structure Inv (s : State) : Prop where
  memory : Memory.wf s.mem = true
  topology : s.topoGen % 2 = 0
  partitions : ∀ e ∈ s.parts, e.2.gen % 2 = 0
  mode : s.boot.mode ≤ 1
  attempts : s.boot.attempts ≤ 255
  powered : s.running = true → s.powered = true
  off : s.lockedOff = true → s.powered = false
  starting : s.starting = true → s.powered = true ∧ s.running = false

/-- The state a pick begins in: its core's starve counts noted, time gone on, and the pick the one to issue. -/
def begun (s : State) (p : Pick) : State :=
  { (if p.grp.isSlice then noteSlice s (p.grp.core s) p else noteServed s (p.grp.core s) (coreCands s (p.grp.core s)) p).tick
      (match p.grp with
        | .blk b | .slice b _ => some b
        | .act _ => none) with
    pick := p, svc := false, lag := Config.late s.cycle }

/-- A slot of its three 32-bit words, the lowest first. -/
def slotOf (w0 w1 w2 : Nat) : Nat := w0 + 2 ^ 32 * w1 + 2 ^ 64 * w2

/-- A header with no guard, GAP or GW. -/
def plainHdr : Hdr := ⟨0, false, 0, false⟩

/-- FMT 0 operands of three g registers, and of D and two. -/
def ggg (d a b c : Opd) : F0 := { d := d, a := a, b := b, c := c, e := 0, ib := false, imm := 0 }

end Sys2Proof

/-- R28, R355, R357: right after reset the module is unpowered and runs nothing, memory lists nothing, the boot record
holds its reset values, a step changes only the time, and what every step keeps holds. That memory lists nothing and
that an unpowered module's registers are zero is the model's choice (log 1, 2); how far time goes in a step is free
(log 11). -/
def Obligations.ResetState : Prop :=
  Inv State.reset ∧ State.reset.powered = false ∧ State.reset.running = false ∧ State.reset.mem = [] ∧
    State.reset.boot.magic = 0x5A425231 ∧ State.reset.boot.attempts = 0 ∧ State.reset.boot.mode = 0 ∧
    State.reset.boot.cause = 0 ∧ State.reset.boot.cfield = 0xFF ∧ State.reset.boot.imgsel = 0 ∧ State.reset.boot.imgok = 0xFF ∧
    State.reset.cores = [] ∧ State.reset.blocks = [] ∧ State.reset.launches = [] ∧ State.reset.inputs = [] ∧
    step State.reset = .next (State.reset.tick none)

/-- From every state that has it, a step leads to a state that has it. Memory keeps its canonical form; the generations
of the topology table and of partition records stay even between steps (R26); MODE stays 0 or 1 and ATTEMPTS at most
255 (R357); the device runs only with power, and is locked off only without. -/
def Obligations.StepKeepsInvariant : Prop :=
  ∀ s t : State, Inv s → step s = .next t → Inv t

namespace Sys2Proof

/-- A pick's slot has been fetched, in the state u: its bits decode to `some i`, or are no encoding (R60, R61, R66, R102,
R421). A line that fails its parity check for good is none of these. -/
structure Fetches (s : State) (p : Pick) (u : State) (l : BitVec 512) (i : Option Instr) : Prop where
  line : fetchLine s ⟨p.grp, p.thrs.headD 0⟩ (lineOf (s.thr ⟨p.grp, p.thrs.headD 0⟩).pc) = (u, .ok l)
  service : u.svc = false
  parity : (lineWord l).extractLsb' 16 16 = lineParity l
  slot : i = if slotVoid l ((s.thr ⟨p.grp, p.thrs.headD 0⟩).pc.toNat % 8) = true then none
    else decode (lineSlot l ((s.thr ⟨p.grp, p.thrs.headD 0⟩).pc.toNat % 8))

/-- The state in which a fetched instruction is performed: whether it begins a co-issue group is noted (R64). -/
def ready (u : State) (l : BitVec 512) (slot : Nat) : State := { u with pick := { u.pick with co := fetchMode u l slot } }

end Sys2Proof

/-- R30, R35, R60, R64, R66, R102: a step performs the second slot of a co-issue group; else the input that comes next;
else the event, pick or work chosen among those due. A pick performs the instruction its slot's bits decode to, in the
line at its PC: the line its core holds, or the bytes of memory where the line is homed. Which of the due events and
picks comes next is free (log 10). -/
def Obligations.StepRunsDecoded : Prop :=
  ∀ s : State,
    let slot (z : State) (p : Pick) : Nat := (z.thr ⟨p.grp, p.thrs.headD 0⟩).pc.toNat % 8
    (s.pick.co.isSecond = true → ∀ u l i, Fetches s s.pick u l (some i) → step s = exec i (ready u l (slot s s.pick))) ∧
    (s.pick.co.isSecond = false → ∀ i r, s.inputs = i :: r → step s = exec i { s.tick none with inputs := r }) ∧
    (s.pick.co.isSecond = false → s.inputs = [] →
      (chooseOne s (actions s) = none → step s = .next (wake (s.tick none))) ∧
      (∀ i, chooseOne s (actions s) = some (.event i) → step s = exec i (s.tick none)) ∧
      (∀ id, chooseOne s (actions s) = some (.serve id) → step s = guarded (fun x => wake (goOnServing id x)) (s.tick none)) ∧
      (∀ part, chooseOne s (actions s) = some (.resize part) →
        step s = guarded (fun x => wake (finishResize x part)) (s.tick none)) ∧
      ∀ p, chooseOne s (actions s) = some (.pick p) → ∀ u l,
        (∀ i, Fetches (begun s p) p u l (some i) → step s = exec i (ready u l (slot (begun s p) p))) ∧
        (Fetches (begun s p) p u l none → step s = .next (issueUndefined (lineSlot l (slot (begun s p) p)) u))) ∧
    ∀ (c : Cx) (va : Nat) (ent : TlbEnt) (pa : Nat), va % 64 = 0 →
      Mapped s { threadAgent s c with blk := none } Acc.fetch va 64 ent pa →
      let key := lineKey ((threadAgent s c).asids.getD (va / 2 ^ 55 % 4) 0) va
      let core := s.core (c.grp.core s)
      (∀ l, Tab.find core.lines key = some l → lineGood l = true ∨ key ∈ core.failed → fetchLine s c va = (s, .ok l)) ∧
      (Tab.find core.lines key = none → fetchLine s c va = (s, .ok (.ofNat 512 (ofBytes (Tab.getRun 0 s.mem pa 64)))))

/-- R68 to R102: every well-formed instruction of a slot has a word, and that word decodes to it. -/
def Obligations.DecodeEncode : Prop :=
  ∀ i : Instr, i.wf = true → i.op?.isSome = true → ∃ w, i.encode = some w ∧ decode w = some i

/-- R61, R72, R76 to R78, R92, R100: words written out from the encoding decode to the instructions they stand for. -/
def Obligations.WordsDecode : Prop :=
  decodeTableWord 96 (slotOf 0xFF000000 0x00FFFFFF 0) = some (.nop plainHdr) ∧
  decodeTableWord 96 (slotOf 0x02000048 0x00FF0402 0) = some (.iadd64 plainHdr (ggg (.g 2) (.g 2) (.g 4) .z)) ∧
  decodeTableWord 96 (slotOf 0x0A000041 0x00FF0B0A 0) = some (.isub plainHdr (ggg (.g 10) (.g 10) (.g 11) .z)) ∧
  decodeTableWord 96 (slotOf 0x090000C3 0x00090308 0) =
    some (.ffma plainHdr ⟨.rn, false, false⟩ (ggg (.g 9) (.g 8) (.g 3) (.g 9))) ∧
  decodeTableWord 96 (slotOf 0x090000C3 0x01090308 0) =
    some (.ffma plainHdr ⟨.rn, false, false⟩ { ggg (.g 9) (.g 8) (.g 3) (.g 9) with e := 1 }) ∧
  decodeTableWord 96 (slotOf 0x00181C02 0x000000FF 0x00000010) =
    some (.bra ⟨7, false, 0, false⟩ { j := 0, enr := false, uni := false, a := .z, disp := 0x10 }) ∧
  decodeTableWord 96 (slotOf 0x081001C0 0x3A00FF02 0x00004000) =
    some (.ld plainHdr (.g 8) { a := .g 2, b := .z, ea := false, ed := false, ty := 0, scope := .block, order := .relaxed, size := 2,
                                resp := 7, hint := .normal, off := 0x40 }) ∧
  decodeTableWord 96 (slotOf 0x00200001 0xE0008041 0x00040C25) =
    some (.pair plainHdr { sop := .iadd, d := 4, a := 1, b := some 2, smod := 0 } { sop := .fmul, d := 9, a := 3, b := some 1, smod := 0 })
end

