-- ==== Sys2Proof/Laws/Exec.lean ====
section
/-! SUPPORT. The dispatcher, arm by arm: what exec calls for each constructor. -/

namespace Sys2Proof.Machine

open Sys2Proof

@[simp] theorem exec_nop (h : Hdr) (s : State) :
    exec (.nop h) s = execNop h s := rfl
@[simp] theorem exec_pair (h : Hdr) (s0 : SubOp) (s1 : SubOp) (s : State) :
    exec (.pair h s0 s1) s = execPair h s0 s1 s := rfl
@[simp] theorem exec_bra (h : Hdr) (f : F3) (s : State) :
    exec (.bra h f) s = execBra h f s := rfl
@[simp] theorem exec_brx (h : Hdr) (rel : Bool) (f : F3) (s : State) :
    exec (.brx h rel f) s = execBrx h rel f s := rfl
@[simp] theorem exec_call (h : Hdr) (f : F3) (s : State) :
    exec (.call h f) s = execCall h f s := rfl
@[simp] theorem exec_callx (h : Hdr) (link : Opd) (f : F3) (s : State) :
    exec (.callx h link f) s = execCallx h link f s := rfl
@[simp] theorem exec_ret (h : Hdr) (a : Opd) (s : State) :
    exec (.ret h a) s = execRet h a s := rfl
@[simp] theorem exec_enrol (h : Hdr) (j : BitVec 3) (s : State) :
    exec (.enrol h j) s = execEnrol h j s := rfl
@[simp] theorem exec_join (h : Hdr) (j : BitVec 3) (s : State) :
    exec (.join h j) s = execJoin h j s := rfl
@[simp] theorem exec_yield (h : Hdr) (e : BitVec 3) (n : BitVec 12) (s : State) :
    exec (.yield h e n) s = execYield h e n s := rfl
@[simp] theorem exec_exit (h : Hdr) (e : BitVec 3) (s : State) :
    exec (.exit h e) s = execExit h e s := rfl
@[simp] theorem exec_bar (h : Hdr) (e : BitVec 3) (s : State) :
    exec (.bar h e) s = execBar h e s := rfl
@[simp] theorem exec_barg (h : Hdr) (e : BitVec 3) (s : State) :
    exec (.barg h e) s = execBarg h e s := rfl
@[simp] theorem exec_barw (h : Hdr) (e : BitVec 3) (s : State) :
    exec (.barw h e) s = execBarw h e s := rfl
@[simp] theorem exec_waittl (h : Hdr) (tc : BitVec 3) (a : Opd) (e : Bool) (scope : Scope) (imm : BitVec 32) (s : State) :
    exec (.waittl h tc a e scope imm) s = execWaittl h tc a e scope imm s := rfl
@[simp] theorem exec_nap (h : Hdr) (a : Opd) (e : Bool) (imm : BitVec 16) (s : State) :
    exec (.nap h a e imm) s = execNap h a e imm s := rfl
@[simp] theorem exec_retu (h : Hdr) (e : BitVec 3) (s : State) :
    exec (.retu h e) s = execRetu h e s := rfl
@[simp] theorem exec_umask (h : Hdr) (e : Bool) (v : Bool) (s : State) :
    exec (.umask h e v) s = execUmask h e v s := rfl
@[simp] theorem exec_sread (h : Hdr) (d : Opd) (e : Bool) (r : SReg) (s : State) :
    exec (.sread h d e r) s = execSread h d e r s := rfl
@[simp] theorem exec_swrite (h : Hdr) (a : Opd) (e : Bool) (r : SReg) (s : State) :
    exec (.swrite h a e r) s = execSwrite h a e r s := rfl
@[simp] theorem exec_trap (h : Hdr) (e : Bool) (code : BitVec 32) (s : State) :
    exec (.trap h e code) s = execTrap h e code s := rfl
@[simp] theorem exec_bkpt (h : Hdr) (e : Bool) (code : BitVec 32) (s : State) :
    exec (.bkpt h e code) s = execBkpt h e code s := rfl
@[simp] theorem exec_iadd (h : Hdr) (f : F0) (s : State) :
    exec (.iadd h f) s = execIadd h f s := rfl
@[simp] theorem exec_isub (h : Hdr) (f : F0) (s : State) :
    exec (.isub h f) s = execIsub h f s := rfl
@[simp] theorem exec_iaddc (h : Hdr) (co : BitVec 4) (f : F0) (s : State) :
    exec (.iaddc h co f) s = execIaddc h co f s := rfl
@[simp] theorem exec_isubb (h : Hdr) (co : BitVec 4) (f : F0) (s : State) :
    exec (.isubb h co f) s = execIsubb h co f s := rfl
@[simp] theorem exec_imul (h : Hdr) (f : F0) (s : State) :
    exec (.imul h f) s = execImul h f s := rfl
@[simp] theorem exec_imulh (h : Hdr) (f : F0) (s : State) :
    exec (.imulh h f) s = execImulh h f s := rfl
@[simp] theorem exec_imulhu (h : Hdr) (f : F0) (s : State) :
    exec (.imulhu h f) s = execImulhu h f s := rfl
@[simp] theorem exec_imad (h : Hdr) (f : F0) (s : State) :
    exec (.imad h f) s = execImad h f s := rfl
@[simp] theorem exec_iadd64 (h : Hdr) (f : F0) (s : State) :
    exec (.iadd64 h f) s = execIadd64 h f s := rfl
@[simp] theorem exec_isub64 (h : Hdr) (f : F0) (s : State) :
    exec (.isub64 h f) s = execIsub64 h f s := rfl
@[simp] theorem exec_imul64 (h : Hdr) (f : F0) (s : State) :
    exec (.imul64 h f) s = execImul64 h f s := rfl
@[simp] theorem exec_idivu (h : Hdr) (f : F0) (s : State) :
    exec (.idivu h f) s = execIdivu h f s := rfl
@[simp] theorem exec_idivs (h : Hdr) (f : F0) (s : State) :
    exec (.idivs h f) s = execIdivs h f s := rfl
@[simp] theorem exec_iremu (h : Hdr) (f : F0) (s : State) :
    exec (.iremu h f) s = execIremu h f s := rfl
@[simp] theorem exec_irems (h : Hdr) (f : F0) (s : State) :
    exec (.irems h f) s = execIrems h f s := rfl
@[simp] theorem exec_imin (h : Hdr) (f : F0) (s : State) :
    exec (.imin h f) s = execImin h f s := rfl
@[simp] theorem exec_imax (h : Hdr) (f : F0) (s : State) :
    exec (.imax h f) s = execImax h f s := rfl
@[simp] theorem exec_iminu (h : Hdr) (f : F0) (s : State) :
    exec (.iminu h f) s = execIminu h f s := rfl
@[simp] theorem exec_imaxu (h : Hdr) (f : F0) (s : State) :
    exec (.imaxu h f) s = execImaxu h f s := rfl
@[simp] theorem exec_iabs (h : Hdr) (f : F0) (s : State) :
    exec (.iabs h f) s = execIabs h f s := rfl
@[simp] theorem exec_ineg (h : Hdr) (f : F0) (s : State) :
    exec (.ineg h f) s = execIneg h f s := rfl
@[simp] theorem exec_and (h : Hdr) (f : F0) (s : State) :
    exec (.and h f) s = execAnd h f s := rfl
@[simp] theorem exec_or (h : Hdr) (f : F0) (s : State) :
    exec (.or h f) s = execOr h f s := rfl
@[simp] theorem exec_xor (h : Hdr) (f : F0) (s : State) :
    exec (.xor h f) s = execXor h f s := rfl
@[simp] theorem exec_not (h : Hdr) (f : F0) (s : State) :
    exec (.not h f) s = execNot h f s := rfl
@[simp] theorem exec_andn (h : Hdr) (f : F0) (s : State) :
    exec (.andn h f) s = execAndn h f s := rfl
@[simp] theorem exec_shl (h : Hdr) (wrap : Bool) (f : F0) (s : State) :
    exec (.shl h wrap f) s = execShl h wrap f s := rfl
@[simp] theorem exec_shr (h : Hdr) (wrap : Bool) (f : F0) (s : State) :
    exec (.shr h wrap f) s = execShr h wrap f s := rfl
@[simp] theorem exec_sar (h : Hdr) (wrap : Bool) (f : F0) (s : State) :
    exec (.sar h wrap f) s = execSar h wrap f s := rfl
@[simp] theorem exec_shl64 (h : Hdr) (wrap : Bool) (f : F0) (s : State) :
    exec (.shl64 h wrap f) s = execShl64 h wrap f s := rfl
@[simp] theorem exec_shr64 (h : Hdr) (wrap : Bool) (f : F0) (s : State) :
    exec (.shr64 h wrap f) s = execShr64 h wrap f s := rfl
@[simp] theorem exec_sar64 (h : Hdr) (wrap : Bool) (f : F0) (s : State) :
    exec (.sar64 h wrap f) s = execSar64 h wrap f s := rfl
@[simp] theorem exec_rotl (h : Hdr) (f : F0) (s : State) :
    exec (.rotl h f) s = execRotl h f s := rfl
@[simp] theorem exec_funnel (h : Hdr) (left : Bool) (f : F0) (s : State) :
    exec (.funnel h left f) s = execFunnel h left f s := rfl
@[simp] theorem exec_popc (h : Hdr) (f : F0) (s : State) :
    exec (.popc h f) s = execPopc h f s := rfl
@[simp] theorem exec_clz (h : Hdr) (f : F0) (s : State) :
    exec (.clz h f) s = execClz h f s := rfl
@[simp] theorem exec_ctz (h : Hdr) (f : F0) (s : State) :
    exec (.ctz h f) s = execCtz h f s := rfl
@[simp] theorem exec_brev (h : Hdr) (f : F0) (s : State) :
    exec (.brev h f) s = execBrev h f s := rfl
@[simp] theorem exec_bfe (h : Hdr) (sgn : Bool) (f : F0) (s : State) :
    exec (.bfe h sgn f) s = execBfe h sgn f s := rfl
@[simp] theorem exec_bfi (h : Hdr) (f : F0) (s : State) :
    exec (.bfi h f) s = execBfi h f s := rfl
@[simp] theorem exec_bysel (h : Hdr) (f : F0) (s : State) :
    exec (.bysel h f) s = execBysel h f s := rfl
@[simp] theorem exec_iset (h : Hdr) (cmp : ICmp) (f : F0) (s : State) :
    exec (.iset h cmp f) s = execIset h cmp f s := rfl
@[simp] theorem exec_iset64 (h : Hdr) (cmp : ICmp) (f : F0) (s : State) :
    exec (.iset64 h cmp f) s = execIset64 h cmp f s := rfl
@[simp] theorem exec_isel (h : Hdr) (f : F0) (s : State) :
    exec (.isel h f) s = execIsel h f s := rfl
@[simp] theorem exec_mov (h : Hdr) (w64 : Bool) (f : F0) (s : State) :
    exec (.mov h w64 f) s = execMov h w64 f s := rfl
@[simp] theorem exec_movi (h : Hdr) (w64 : Bool) (d : Opd) (imm : BitVec 32) (s : State) :
    exec (.movi h w64 d imm) s = execMovi h w64 d imm s := rfl
@[simp] theorem exec_movs (h : Hdr) (w64 : Bool) (f : F0) (s : State) :
    exec (.movs h w64 f) s = execMovs h w64 f s := rfl
@[simp] theorem exec_lea (h : Hdr) (scale : BitVec 3) (iu : Bool) (f : F0) (s : State) :
    exec (.lea h scale iu f) s = execLea h scale iu f s := rfl
@[simp] theorem exec_fadd (h : Hdr) (r : Rnd) (f : F0) (s : State) :
    exec (.fadd h r f) s = execFadd h r f s := rfl
@[simp] theorem exec_fsub (h : Hdr) (r : Rnd) (f : F0) (s : State) :
    exec (.fsub h r f) s = execFsub h r f s := rfl
@[simp] theorem exec_fmul (h : Hdr) (r : Rnd) (f : F0) (s : State) :
    exec (.fmul h r f) s = execFmul h r f s := rfl
@[simp] theorem exec_ffma (h : Hdr) (r : Rnd) (f : F0) (s : State) :
    exec (.ffma h r f) s = execFfma h r f s := rfl
@[simp] theorem exec_fmin (h : Hdr) (ftz : Bool) (f : F0) (s : State) :
    exec (.fmin h ftz f) s = execFmin h ftz f s := rfl
@[simp] theorem exec_fmax (h : Hdr) (ftz : Bool) (f : F0) (s : State) :
    exec (.fmax h ftz f) s = execFmax h ftz f s := rfl
@[simp] theorem exec_fabs (h : Hdr) (ftz : Bool) (f : F0) (s : State) :
    exec (.fabs h ftz f) s = execFabs h ftz f s := rfl
@[simp] theorem exec_fneg (h : Hdr) (ftz : Bool) (f : F0) (s : State) :
    exec (.fneg h ftz f) s = execFneg h ftz f s := rfl
@[simp] theorem exec_fcopys (h : Hdr) (ftz : Bool) (f : F0) (s : State) :
    exec (.fcopys h ftz f) s = execFcopys h ftz f s := rfl
@[simp] theorem exec_fset (h : Hdr) (cmp : FCmp) (ftz : Bool) (f : F0) (s : State) :
    exec (.fset h cmp ftz f) s = execFset h cmp ftz f s := rfl
@[simp] theorem exec_fclass (h : Hdr) (cf : ClassFmt) (f : F0) (s : State) :
    exec (.fclass h cf f) s = execFclass h cf f s := rfl
@[simp] theorem exec_fdiv (h : Hdr) (r : Rnd) (f : F0) (s : State) :
    exec (.fdiv h r f) s = execFdiv h r f s := rfl
@[simp] theorem exec_hadd2 (h : Hdr) (r : Rnd) (f : F0) (s : State) :
    exec (.hadd2 h r f) s = execHadd2 h r f s := rfl
@[simp] theorem exec_hmul2 (h : Hdr) (r : Rnd) (f : F0) (s : State) :
    exec (.hmul2 h r f) s = execHmul2 h r f s := rfl
@[simp] theorem exec_hfma2 (h : Hdr) (r : Rnd) (f : F0) (s : State) :
    exec (.hfma2 h r f) s = execHfma2 h r f s := rfl
@[simp] theorem exec_badd2 (h : Hdr) (r : Rnd) (f : F0) (s : State) :
    exec (.badd2 h r f) s = execBadd2 h r f s := rfl
@[simp] theorem exec_bmul2 (h : Hdr) (r : Rnd) (f : F0) (s : State) :
    exec (.bmul2 h r f) s = execBmul2 h r f s := rfl
@[simp] theorem exec_bfma2 (h : Hdr) (r : Rnd) (f : F0) (s : State) :
    exec (.bfma2 h r f) s = execBfma2 h r f s := rfl
@[simp] theorem exec_dadd (h : Hdr) (r : Rnd) (f : F0) (s : State) :
    exec (.dadd h r f) s = execDadd h r f s := rfl
@[simp] theorem exec_dmul (h : Hdr) (r : Rnd) (f : F0) (s : State) :
    exec (.dmul h r f) s = execDmul h r f s := rfl
@[simp] theorem exec_dfma (h : Hdr) (r : Rnd) (f : F0) (s : State) :
    exec (.dfma h r f) s = execDfma h r f s := rfl
@[simp] theorem exec_dset (h : Hdr) (cmp : FCmp) (f : F0) (s : State) :
    exec (.dset h cmp f) s = execDset h cmp f s := rfl
@[simp] theorem exec_cvt (h : Hdr) (r : Rnd) (df : Elem) (sf : Elem) (f : F0) (s : State) :
    exec (.cvt h r df sf f) s = execCvt h r df sf f s := rfl
@[simp] theorem exec_cvtpk (h : Hdr) (r : Rnd) (df : Elem) (src : Elem) (k : BitVec 3) (f : F0) (s : State) :
    exec (.cvtpk h r df src k f) s = execCvtpk h r df src k f s := rfl
@[simp] theorem exec_cvtupk (h : Hdr) (df : Elem) (sf : Elem) (i_ : BitVec 4) (f : F0) (s : State) :
    exec (.cvtupk h df sf i_ f) s = execCvtupk h df sf i_ f s := rfl
@[simp] theorem exec_rndi (h : Hdr) (r : Rnd) (f : F0) (s : State) :
    exec (.rndi h r f) s = execRndi h r f s := rfl
@[simp] theorem exec_q8add (h : Hdr) (r : Rnd) (e5m2 : Bool) (f : F0) (s : State) :
    exec (.q8add h r e5m2 f) s = execQ8add h r e5m2 f s := rfl
@[simp] theorem exec_q8mul (h : Hdr) (r : Rnd) (e5m2 : Bool) (f : F0) (s : State) :
    exec (.q8mul h r e5m2 f) s = execQ8mul h r e5m2 f s := rfl
@[simp] theorem exec_q8min (h : Hdr) (r : Rnd) (e5m2 : Bool) (f : F0) (s : State) :
    exec (.q8min h r e5m2 f) s = execQ8min h r e5m2 f s := rfl
@[simp] theorem exec_q8max (h : Hdr) (r : Rnd) (e5m2 : Bool) (f : F0) (s : State) :
    exec (.q8max h r e5m2 f) s = execQ8max h r e5m2 f s := rfl
@[simp] theorem exec_idp4 (h : Hdr) (ua : Bool) (ub : Bool) (f : F0) (s : State) :
    exec (.idp4 h ua ub f) s = execIdp4 h ua ub f s := rfl
@[simp] theorem exec_fdp4 (h : Hdr) (r : Rnd) (a5 : Bool) (b5 : Bool) (f : F0) (s : State) :
    exec (.fdp4 h r a5 b5 f) s = execFdp4 h r a5 b5 f s := rfl
@[simp] theorem exec_fdp2 (h : Hdr) (r : Rnd) (f16 : Bool) (f : F0) (s : State) :
    exec (.fdp2 h r f16 f) s = execFdp2 h r f16 f s := rfl
@[simp] theorem exec_scalex (h : Hdr) (r : Rnd) (e8m2 : Bool) (i_ : BitVec 2) (f : F0) (s : State) :
    exec (.scalex h r e8m2 i_ f) s = execScalex h r e8m2 i_ f s := rfl
@[simp] theorem exec_rcp (h : Hdr) (f : F0) (s : State) :
    exec (.rcp h f) s = execRcp h f s := rfl
@[simp] theorem exec_rsq (h : Hdr) (f : F0) (s : State) :
    exec (.rsq h f) s = execRsq h f s := rfl
@[simp] theorem exec_sqrt (h : Hdr) (f : F0) (s : State) :
    exec (.sqrt h f) s = execSqrt h f s := rfl
@[simp] theorem exec_exp2 (h : Hdr) (f : F0) (s : State) :
    exec (.exp2 h f) s = execExp2 h f s := rfl
@[simp] theorem exec_log2 (h : Hdr) (f : F0) (s : State) :
    exec (.log2 h f) s = execLog2 h f s := rfl
@[simp] theorem exec_exp (h : Hdr) (f : F0) (s : State) :
    exec (.exp h f) s = execExp h f s := rfl
@[simp] theorem exec_log (h : Hdr) (f : F0) (s : State) :
    exec (.log h f) s = execLog h f s := rfl
@[simp] theorem exec_sinpi (h : Hdr) (f : F0) (s : State) :
    exec (.sinpi h f) s = execSinpi h f s := rfl
@[simp] theorem exec_cospi (h : Hdr) (f : F0) (s : State) :
    exec (.cospi h f) s = execCospi h f s := rfl
@[simp] theorem exec_tanh (h : Hdr) (f : F0) (s : State) :
    exec (.tanh h f) s = execTanh h f s := rfl
@[simp] theorem exec_sigm (h : Hdr) (f : F0) (s : State) :
    exec (.sigm h f) s = execSigm h f s := rfl
@[simp] theorem exec_shfl (h : Hdr) (mode : ShflMode) (wid : BitVec 3) (pv : BitVec 4) (f : F0) (s : State) :
    exec (.shfl h mode wid pv f) s = execShfl h mode wid pv f s := rfl
@[simp] theorem exec_vote (h : Hdr) (mode : VoteMode) (f : F0) (s : State) :
    exec (.vote h mode f) s = execVote h mode f s := rfl
@[simp] theorem exec_ballot (h : Hdr) (f : F0) (s : State) :
    exec (.ballot h f) s = execBallot h f s := rfl
@[simp] theorem exec_matchL (h : Hdr) (w64 : Bool) (f : F0) (s : State) :
    exec (.matchL h w64 f) s = execMatchL h w64 f s := rfl
@[simp] theorem exec_redux (h : Hdr) (rop : Rop) (f : F0) (s : State) :
    exec (.redux h rop f) s = execRedux h rop f s := rfl
@[simp] theorem exec_scan (h : Hdr) (rop : Rop) (excl : Bool) (f : F0) (s : State) :
    exec (.scan h rop excl f) s = execScan h rop excl f s := rfl
@[simp] theorem exec_pand (h : Hdr) (na : Bool) (nb : Bool) (f : F0) (s : State) :
    exec (.pand h na nb f) s = execPand h na nb f s := rfl
@[simp] theorem exec_por (h : Hdr) (na : Bool) (nb : Bool) (f : F0) (s : State) :
    exec (.por h na nb f) s = execPor h na nb f s := rfl
@[simp] theorem exec_pxor (h : Hdr) (na : Bool) (nb : Bool) (f : F0) (s : State) :
    exec (.pxor h na nb f) s = execPxor h na nb f s := rfl
@[simp] theorem exec_pnot (h : Hdr) (f : F0) (s : State) :
    exec (.pnot h f) s = execPnot h f s := rfl
@[simp] theorem exec_pmov (h : Hdr) (dir : Bool) (f : F0) (s : State) :
    exec (.pmov h dir f) s = execPmov h dir f s := rfl
@[simp] theorem exec_ld (h : Hdr) (d : Opd) (f : F2) (s : State) :
    exec (.ld h d f) s = execLd h d f s := rfl
@[simp] theorem exec_st (h : Hdr) (d : Opd) (f : F2) (s : State) :
    exec (.st h d f) s = execSt h d f s := rfl
@[simp] theorem exec_lds (h : Hdr) (d : Opd) (f : F2) (s : State) :
    exec (.lds h d f) s = execLds h d f s := rfl
@[simp] theorem exec_sts (h : Hdr) (d : Opd) (f : F2) (s : State) :
    exec (.sts h d f) s = execSts h d f s := rfl
@[simp] theorem exec_ldq (h : Hdr) (qn : BitVec 3) (f : F2) (s : State) :
    exec (.ldq h qn f) s = execLdq h qn f s := rfl
@[simp] theorem exec_pref (h : Hdr) (d : Opd) (f : F2) (s : State) :
    exec (.pref h d f) s = execPref h d f s := rfl
@[simp] theorem exec_reside (h : Hdr) (d : Opd) (f : F2) (s : State) :
    exec (.reside h d f) s = execReside h d f s := rfl
@[simp] theorem exec_fetchpg (h : Hdr) (d : Opd) (f : F2) (s : State) :
    exec (.fetchpg h d f) s = execFetchpg h d f s := rfl
@[simp] theorem exec_atom (h : Hdr) (aop : Aop) (f : FA) (s : State) :
    exec (.atom h aop f) s = execAtom h aop f s := rfl
@[simp] theorem exec_atoms (h : Hdr) (aop : Aop) (f : FA) (s : State) :
    exec (.atoms h aop f) s = execAtoms h aop f s := rfl
@[simp] theorem exec_cas (h : Hdr) (f : FA) (s : State) :
    exec (.cas h f) s = execCas h f s := rfl
@[simp] theorem exec_cas128 (h : Hdr) (f : FA) (s : State) :
    exec (.cas128 h f) s = execCas128 h f s := rfl
@[simp] theorem exec_red (h : Hdr) (aop : Aop) (f : FA) (s : State) :
    exec (.red h aop f) s = execRed h aop f s := rfl
@[simp] theorem exec_fence (h : Hdr) (d : Opd) (f : F2) (s : State) :
    exec (.fence h d f) s = execFence h d f s := rfl
@[simp] theorem exec_qfence (h : Hdr) (d : Opd) (f : F2) (s : State) :
    exec (.qfence h d f) s = execQfence h d f s := rfl
@[simp] theorem exec_cinv (h : Hdr) (d : Opd) (f : F2) (s : State) :
    exec (.cinv h d f) s = execCinv h d f s := rfl
@[simp] theorem exec_cwb (h : Hdr) (d : Opd) (f : F2) (s : State) :
    exec (.cwb h d f) s = execCwb h d f s := rfl
@[simp] theorem exec_snap (h : Hdr) (scope : Scope) (add : Bool) (d : Opd) (a : Opd) (b : Opd) (s : State) :
    exec (.snap h scope add d a b) s = execSnap h scope add d a b s := rfl
@[simp] theorem exec_accept (h : Hdr) (d : Opd) (a : Opd) (imm : BitVec 32) (s : State) :
    exec (.accept h d a imm) s = execAccept h d a imm s := rfl
@[simp] theorem exec_reject (h : Hdr) (d : Opd) (a : Opd) (imm : BitVec 32) (s : State) :
    exec (.reject h d a imm) s = execReject h d a imm s := rfl
@[simp] theorem exec_snapq (h : Hdr) (d : Opd) (sel : BitVec 3) (s : State) :
    exec (.snapq h d sel) s = execSnapq h d sel s := rfl
@[simp] theorem exec_put (h : Hdr) (sig : Bool) (ord : Bool) (d : Opd) (a : Opd) (b : Opd) (c : Opd) (w : BitVec 10) (s : State) :
    exec (.put h sig ord d a b c w) s = execPut h sig ord d a b c w s := rfl
@[simp] theorem exec_get (h : Hdr) (ord : Bool) (d : Opd) (a : Opd) (b : Opd) (c : Opd) (w : BitVec 10) (s : State) :
    exec (.get h ord d a b c w) s = execGet h ord d a b c w s := rfl
@[simp] theorem exec_waitw (h : Hdr) (sent : Bool) (d : Opd) (a : Opd) (b : Opd) (w : BitVec 10) (s : State) :
    exec (.waitw h sent d a b w) s = execWaitw h sent d a b w s := rfl
@[simp] theorem exec_wread (h : Hdr) (sent : Bool) (acq : Bool) (d : Opd) (w : BitVec 10) (s : State) :
    exec (.wread h sent acq d w) s = execWread h sent acq d w s := rfl
@[simp] theorem exec_launch (h : Hdr) (d : Opd) (a : Opd) (w : BitVec 10) (s : State) :
    exec (.launch h d a w) s = execLaunch h d a w s := rfl
@[simp] theorem exec_launchw (h : Hdr) (d : Opd) (w : BitVec 10) (s : State) :
    exec (.launchw h d w) s = execLaunchw h d w s := rfl
@[simp] theorem exec_postc (h : Hdr) (d : Opd) (a : Opd) (w : BitVec 10) (s : State) :
    exec (.postc h d a w) s = execPostc h d a w s := rfl
@[simp] theorem exec_xdef (h : Hdr) (d : Opd) (a : Opd) (x : BitVec 8) (s : State) :
    exec (.xdef h d a x) s = execXdef h d a x s := rfl
@[simp] theorem exec_xread (h : Hdr) (a : Opd) (x : BitVec 8) (s : State) :
    exec (.xread h a x) s = execXread h a x s := rfl
@[simp] theorem exec_talloc (h : Hdr) (mode : AllocMode) (a : Opd) (b : Opd) (t : BitVec 6) (s : State) :
    exec (.talloc h mode a b t) s = execTalloc h mode a b t s := rfl
@[simp] theorem exec_tfree (h : Hdr) (t : BitVec 6) (s : State) :
    exec (.tfree h t) s = execTfree h t s := rfl
@[simp] theorem exec_tstat (h : Hdr) (d : Opd) (sel : BitVec 2) (obj : BitVec 8) (s : State) :
    exec (.tstat h d sel obj) s = execTstat h d sel obj s := rfl
@[simp] theorem exec_tload (h : Hdr) (nt : Bool) (mode : LoadMode) (d : Opd) (a : Opd) (c : Opd) (t : BitVec 6) (x : BitVec 8) (idx : BitVec 6) (ctx : BitVec 2) (s : State) :
    exec (.tload h nt mode d a c t x idx ctx) s = execTload h nt mode d a c t x idx ctx s := rfl
@[simp] theorem exec_tstore (h : Hdr) (nt : Bool) (keep : Bool) (d : Opd) (a : Opd) (t : BitVec 6) (x : BitVec 8) (ctx : BitVec 2) (s : State) :
    exec (.tstore h nt keep d a t x ctx) s = execTstore h nt keep d a t x ctx s := rfl
@[simp] theorem exec_tloadb (h : Hdr) (nt : Bool) (d : Opd) (a : Opd) (c : Opd) (buf : BitVec 3) (x : BitVec 8) (ctx : BitVec 2) (s : State) :
    exec (.tloadb h nt d a c buf x ctx) s = execTloadb h nt d a c buf x ctx s := rfl
@[simp] theorem exec_tmcast (h : Hdr) (nt : Bool) (d : Opd) (a : Opd) (b : Opd) (c : Opd) (t : BitVec 6) (x : BitVec 8) (ctx : BitVec 2) (s : State) :
    exec (.tmcast h nt d a b c t x ctx) s = execTmcast h nt d a b c t x ctx s := rfl
@[simp] theorem exec_tbinit (h : Hdr) (a : Opd) (b : Opd) (n : BitVec 16) (s : State) :
    exec (.tbinit h a b n) s = execTbinit h a b n s := rfl
@[simp] theorem exec_arrive (h : Hdr) (d : Opd) (a : Opd) (n : BitVec 16) (s : State) :
    exec (.arrive h d a n) s = execArrive h d a n s := rfl
@[simp] theorem exec_expect (h : Hdr) (arv : Bool) (d : Opd) (a : Opd) (b : Opd) (n : BitVec 32) (s : State) :
    exec (.expect h arv d a b n) s = execExpect h arv d a b n s := rfl
@[simp] theorem exec_waitph (h : Hdr) (a : Opd) (b : Opd) (ph : BitVec 4) (s : State) :
    exec (.waitph h a b ph) s = execWaitph h a b ph s := rfl
@[simp] theorem exec_rsum (h : Hdr) (d : Opd) (a : Opd) (b : Opd) (src : BitVec 6) (res : BitVec 6) (s : State) :
    exec (.rsum h d a b src res) s = execRsum h d a b src res s := rfl
@[simp] theorem exec_mma (h : Hdr) (a : Opd) (imm : BitVec 32) (s : State) :
    exec (.mma h a imm) s = execMma h a imm s := rfl
@[simp] theorem exec_mzero (h : Hdr) (d : Opd) (acc : BitVec 3) (ctx : Bool) (s : State) :
    exec (.mzero h d acc ctx) s = execMzero h d acc ctx s := rfl
@[simp] theorem exec_mprom (h : Hdr) (d : Opd) (acc : BitVec 3) (ctx : Bool) (s : State) :
    exec (.mprom h d acc ctx) s = execMprom h d acc ctx s := rfl
@[simp] theorem exec_mlda (h : Hdr) (d : Opd) (sc : Bool) (t : BitVec 6) (st : BitVec 6) (buf : BitVec 2) (ctx : Bool) (s : State) :
    exec (.mlda h d sc t st buf ctx) s = execMlda h d sc t st buf ctx s := rfl
@[simp] theorem exec_mldb (h : Hdr) (d : Opd) (sc : Bool) (t : BitVec 6) (st : BitVec 6) (buf : BitVec 2) (ctx : Bool) (s : State) :
    exec (.mldb h d sc t st buf ctx) s = execMldb h d sc t st buf ctx s := rfl
@[simp] theorem exec_msta (h : Hdr) (d : Opd) (acc : BitVec 3) (b : Opd) (rm : Rm) (sat : Bool) (sc : Bool) (swz : BitVec 2) (t : BitVec 6) (st : BitVec 6) (ofmt : Elem) (ctx : Bool) (s : State) :
    exec (.msta h d acc b rm sat sc swz t st ofmt ctx) s = execMsta h d acc b rm sat sc swz t st ofmt ctx s := rfl
@[simp] theorem exec_mread (h : Hdr) (d : Opd) (acc : BitVec 3) (b : Opd) (i_ : BitVec 12) (s : State) :
    exec (.mread h d acc b i_) s = execMread h d acc b i_ s := rfl
@[simp] theorem exec_mwrite (h : Hdr) (acc : BitVec 3) (b : Opd) (c : Opd) (i_ : BitVec 12) (s : State) :
    exec (.mwrite h acc b c i_) s = execMwrite h acc b c i_ s := rfl
@[simp] theorem exec_gate (h : Hdr) (n : BitVec 8) (args : BitVec 5) (res : BitVec 5) (s : State) :
    exec (.gate h n args res) s = execGate h n args res s := rfl
@[simp] theorem exec_retg (h : Hdr) (e : BitVec 3) (s : State) :
    exec (.retg h e) s = execRetg h e s := rfl
@[simp] theorem exec_cpset (h : Hdr) (d : Opd) (a : Opd) (b : Opd) (slot : BitVec 2) (word : BitVec 2) (s : State) :
    exec (.cpset h d a b slot word) s = execCpset h d a b slot word s := rfl
@[simp] theorem exec_cpget (h : Hdr) (d : Opd) (b : Opd) (slot : BitVec 2) (word : BitVec 2) (s : State) :
    exec (.cpget h d b slot word) s = execCpget h d b slot word s := rfl
@[simp] theorem exec_tlbinv (h : Hdr) (all : Bool) (d : Opd) (a : Opd) (b : Opd) (c : Opd) (s : State) :
    exec (.tlbinv h all d a b c) s = execTlbinv h all d a b c s := rfl
@[simp] theorem exec_asidbind (h : Hdr) (ro : Bool) (unb : Bool) (d : Opd) (a : Opd) (b : Opd) (slot : BitVec 2) (s : State) :
    exec (.asidbind h ro unb d a b slot) s = execAsidbind h ro unb d a b slot s := rfl
@[simp] theorem exec_ckpt (h : Hdr) (d : Opd) (s : State) :
    exec (.ckpt h d) s = execCkpt h d s := rfl
@[simp] theorem exec_croll (h : Hdr) (stay : Bool) (d : Opd) (a : Opd) (b : Opd) (s : State) :
    exec (.croll h stay d a b) s = execCroll h stay d a b s := rfl
@[simp] theorem exec_halt (h : Hdr) (d : Opd) (a : Opd) (b : Opd) (s : State) :
    exec (.halt h d a b) s = execHalt h d a b s := rfl
@[simp] theorem exec_resume (h : Hdr) (d : Opd) (a : Opd) (b : Opd) (s : State) :
    exec (.resume h d a b) s = execResume h d a b s := rfl
@[simp] theorem exec_yieldOverrun (blk : Nat) (thr : Nat) (s : State) :
    exec (.yieldOverrun blk thr) s = execYieldOverrun blk thr s := rfl
@[simp] theorem exec_checkpointPeriod (blk : Nat) (s : State) :
    exec (.checkpointPeriod blk) s = execCheckpointPeriod blk s := rfl
@[simp] theorem exec_blockPark (blk : Nat) (s : State) :
    exec (.blockPark blk) s = execBlockPark blk s := rfl
@[simp] theorem exec_checkpointCommit (blk : Nat) (s : State) :
    exec (.checkpointCommit blk) s = execCheckpointCommit blk s := rfl
@[simp] theorem exec_quantumEnd (core : Nat) (s : State) :
    exec (.quantumEnd core) s = execQuantumEnd core s := rfl
@[simp] theorem exec_userInterruptDelivery (blk : Nat) (skein : Nat) (s : State) :
    exec (.userInterruptDelivery blk skein) s = execUserInterruptDelivery blk skein s := rfl
@[simp] theorem exec_vectoring (blk : Nat) (thr : Nat) (s : State) :
    exec (.vectoring blk thr) s = execVectoring blk thr s := rfl
@[simp] theorem exec_activationEntry (act : Nat) (s : State) :
    exec (.activationEntry act) s = execActivationEntry act s := rfl
@[simp] theorem exec_dispatch (launch : Nat) (s : State) :
    exec (.dispatch launch) s = execDispatch launch s := rfl
@[simp] theorem exec_fenceMet (launch : Nat) (s : State) :
    exec (.fenceMet launch) s = execFenceMet launch s := rfl
@[simp] theorem exec_blockEnd (blk : Nat) (s : State) :
    exec (.blockEnd blk) s = execBlockEnd blk s := rfl
@[simp] theorem exec_completionRecord (launch : Nat) (s : State) :
    exec (.completionRecord launch) s = execCompletionRecord launch s := rfl
@[simp] theorem exec_landing (blk : Nat) (tc : Nat) (num : Nat) (s : State) :
    exec (.landing blk tc num) s = execLanding blk tc num s := rfl
@[simp] theorem exec_mcastLanding (blk : Nat) (tc : Nat) (num : Nat) (dst : Nat) (s : State) :
    exec (.mcastLanding blk tc num dst) s = execMcastLanding blk tc num dst s := rfl
@[simp] theorem exec_shuttleCommandComplete (blk : Nat) (tc : Nat) (num : Nat) (s : State) :
    exec (.shuttleCommandComplete blk tc num) s = execShuttleCommandComplete blk tc num s := rfl
@[simp] theorem exec_mmaStart (blk : Nat) (tc : Nat) (num : Nat) (s : State) :
    exec (.mmaStart blk tc num) s = execMmaStart blk tc num s := rfl
@[simp] theorem exec_matrixCommandComplete (blk : Nat) (tc : Nat) (num : Nat) (s : State) :
    exec (.matrixCommandComplete blk tc num) s = execMatrixCommandComplete blk tc num s := rfl
@[simp] theorem exec_fetchpgComplete (blk : Nat) (num : Nat) (s : State) :
    exec (.fetchpgComplete blk num) s = execFetchpgComplete blk num s := rfl
@[simp] theorem exec_fetchNoframe (blk : Nat) (num : Nat) (s : State) :
    exec (.fetchNoframe blk num) s = execFetchNoframe blk num s := rfl
@[simp] theorem exec_windowCommandComplete (blk : Nat) (num : Nat) (s : State) :
    exec (.windowCommandComplete blk num) s = execWindowCommandComplete blk num s := rfl
@[simp] theorem exec_rsumPacket (pass : Nat) (stop : Nat) (s : State) :
    exec (.rsumPacket pass stop) s = execRsumPacket pass stop s := rfl
@[simp] theorem exec_barrierArrival (launch : Nat) (field : Nat) (s : State) :
    exec (.barrierArrival launch field) s = execBarrierArrival launch field s := rfl
@[simp] theorem exec_barrierRelease (launch : Nat) (field : Nat) (s : State) :
    exec (.barrierRelease launch field) s = execBarrierRelease launch field s := rfl
@[simp] theorem exec_dataResponse (blk : Nat) (thr : Nat) (reg : Nat) (s : State) :
    exec (.dataResponse blk thr reg) s = execDataResponse blk thr reg s := rfl
@[simp] theorem exec_migration (asid : Nat) (granule : Nat) (field : Nat) (s : State) :
    exec (.migration asid granule field) s = execMigration asid granule field s := rfl
@[simp] theorem exec_hang (blk : Nat) (s : State) :
    exec (.hang blk) s = execHang blk s := rfl
@[simp] theorem exec_faultHoldPoll (vf : Nat) (s : State) :
    exec (.faultHoldPoll vf) s = execFaultHoldPoll vf s := rfl
@[simp] theorem exec_waitwTimeout (blk : Nat) (thr : Nat) (s : State) :
    exec (.waitwTimeout blk thr) s = execWaitwTimeout blk thr s := rfl
@[simp] theorem exec_napExpiry (blk : Nat) (thr : Nat) (s : State) :
    exec (.napExpiry blk thr) s = execNapExpiry blk thr s := rfl
@[simp] theorem exec_waitingInstructionComplete (blk : Nat) (thr : Nat) (s : State) :
    exec (.waitingInstructionComplete blk thr) s = execWaitingInstructionComplete blk thr s := rfl
@[simp] theorem exec_revocation (field : Nat) (bank : Bool) (num : Nat) (owner : Nat) (s : State) :
    exec (.revocation field bank num owner) s = execRevocation field bank num owner s := rfl
@[simp] theorem exec_ctxNew (vf : Nat) (maxsc : Nat) (mode : Nat) (period : Nat) (root : Nat) (s : State) :
    exec (.ctxNew vf maxsc mode period root) s = execCtxNew vf maxsc mode period root s := rfl
@[simp] theorem exec_ctxFree (vf : Nat) (ctx : Nat) (s : State) :
    exec (.ctxFree vf ctx) s = execCtxFree vf ctx s := rfl
@[simp] theorem exec_asidNew (vf : Nat) (owner : Nat) (root : Nat) (shared : Nat) (s : State) :
    exec (.asidNew vf owner root shared) s = execAsidNew vf owner root shared s := rfl
@[simp] theorem exec_asidFree (vf : Nat) (asid : Nat) (s : State) :
    exec (.asidFree vf asid) s = execAsidFree vf asid s := rfl
@[simp] theorem exec_vfSet (vf : Nat) (weight : Nat) (quantum : Nat) (period : Nat) (s : State) :
    exec (.vfSet vf weight quantum period) s = execVfSet vf weight quantum period s := rfl
@[simp] theorem exec_gateRsv (vf : Nat) (entry : Nat) (fields : BitVec 48) (s : State) :
    exec (.gateRsv vf entry fields) s = execGateRsv vf entry fields s := rfl
@[simp] theorem exec_shadowSet (vf : Nat) (field : Nat) (frames : Nat) (s : State) :
    exec (.shadowSet vf field frames) s = execShadowSet vf field frames s := rfl
@[simp] theorem exec_fstoreSet (vf : Nat) (field : Nat) (mib : Nat) (s : State) :
    exec (.fstoreSet vf field mib) s = execFstoreSet vf field mib s := rfl
@[simp] theorem exec_place (vf : Nat) (asid : Nat) (addr : Nat) (field : Nat) (s : State) :
    exec (.place vf asid addr field) s = execPlace vf asid addr field s := rfl
@[simp] theorem exec_qpNew (vf : Nat) (port : Nat) (prio : Nat) (ip : BitVec 128) (peerQpn : Nat) (sendPsn : Nat) (recvPsn : Nat) (s : State) :
    exec (.qpNew vf port prio ip peerQpn sendPsn recvPsn) s = execQpNew vf port prio ip peerQpn sendPsn recvPsn s := rfl
@[simp] theorem exec_qpFree (vf : Nat) (qpn : Nat) (s : State) :
    exec (.qpFree vf qpn) s = execQpFree vf qpn s := rfl
@[simp] theorem exec_winSet (vf : Nat) (win : Nat) (w0 : Dword) (w1 : Dword) (w2 : Dword) (w3 : Dword) (w4 : Dword) (w5 : Dword) (s : State) :
    exec (.winSet vf win w0 w1 w2 w3 w4 w5) s = execWinSet vf win w0 w1 w2 w3 w4 w5 s := rfl
@[simp] theorem exec_winFree (vf : Nat) (win : Nat) (s : State) :
    exec (.winFree vf win) s = execWinFree vf win s := rfl
@[simp] theorem exec_attest (vf : Nat) (addr : Nat) (nonce : BitVec 256) (s : State) :
    exec (.attest vf addr nonce) s = execAttest vf addr nonce s := rfl
@[simp] theorem exec_traceSet (vf : Nat) (base : Nat) (n : Nat) (enables : Nat) (k : Nat) (s : State) :
    exec (.traceSet vf base n enables k) s = execTraceSet vf base n enables k s := rfl
@[simp] theorem exec_ctrSet (vf : Nat) (ctr : Nat) (cfg : Dword) (operator : Bool) (s : State) :
    exec (.ctrSet vf ctr cfg operator) s = execCtrSet vf ctr cfg operator s := rfl
@[simp] theorem exec_dbgSet (vf : Nat) (ctx : Nat) (entry : Nat) (w0 : Dword) (w1 : Dword) (s : State) :
    exec (.dbgSet vf ctx entry w0 w1) s = execDbgSet vf ctx entry w0 w1 s := rfl
@[simp] theorem exec_logSet (vf : Nat) (ctx : Nat) (mode : Nat) (base : Nat) (len : Nat) (s : State) :
    exec (.logSet vf ctx mode base len) s = execLogSet vf ctx mode base len s := rfl
@[simp] theorem exec_faultSet (vf : Nat) (base : Nat) (n : Nat) (s : State) :
    exec (.faultSet vf base n) s = execFaultSet vf base n s := rfl
@[simp] theorem exec_abort (vf : Nat) (ctx : Nat) (lnum : Nat) (s : State) :
    exec (.abort vf ctx lnum) s = execAbort vf ctx lnum s := rfl
@[simp] theorem exec_snapClose (vf : Nat) (ctx : Nat) (level : Nat) (op : Nat) (s : State) :
    exec (.snapClose vf ctx level op) s = execSnapClose vf ctx level op s := rfl
@[simp] theorem exec_hangSet (vf : Nat) (ctx : Nat) (h : Nat) (s : State) :
    exec (.hangSet vf ctx h) s = execHangSet vf ctx h s := rfl
@[simp] theorem exec_winQp (vf : Nat) (win : Nat) (qpn : Nat) (s : State) :
    exec (.winQp vf win qpn) s = execWinQp vf win qpn s := rfl
@[simp] theorem exec_ack (qpn : Nat) (psn : Nat) (s : State) :
    exec (.ack qpn psn) s = execAck qpn psn s := rfl
@[simp] theorem exec_congestionNotification (qpn : Nat) (s : State) :
    exec (.congestionNotification qpn) s = execCongestionNotification qpn s := rfl
@[simp] theorem exec_rdmaReadResponse (qpn : Nat) (psn : Nat) (data : List Byte) (s : State) :
    exec (.rdmaReadResponse qpn psn data) s = execRdmaReadResponse qpn psn data s := rfl
@[simp] theorem exec_rateRecovery (qpn : Nat) (s : State) :
    exec (.rateRecovery qpn) s = execRateRecovery qpn s := rfl
@[simp] theorem exec_ptpMessage (time : Dword) (s : State) :
    exec (.ptpMessage time) s = execPtpMessage time s := rfl
@[simp] theorem exec_powerOn (r : StartReport) (s : State) :
    exec (.powerOn r) s = execPowerOn r s := rfl
@[simp] theorem exec_leadReachTimeout (field : Nat) (s : State) :
    exec (.leadReachTimeout field) s = execLeadReachTimeout field s := rfl
@[simp] theorem exec_startTimeout (s : State) :
    exec .startTimeout s = execStartTimeout s := rfl
@[simp] theorem exec_warmReset (r : StartReport) (s : State) :
    exec (.warmReset r) s = execWarmReset r s := rfl
@[simp] theorem exec_partitionCreate (part : Nat) (fields : List (Nat × PartField)) (lendTo : Nat) (borrow : Nat) (s : State) :
    exec (.partitionCreate part fields lendTo borrow) s = execPartitionCreate part fields lendTo borrow s := rfl
@[simp] theorem exec_partitionResize (part : Nat) (fields : List (Nat × PartField)) (s : State) :
    exec (.partitionResize part fields) s = execPartitionResize part fields s := rfl
@[simp] theorem exec_partitionDestroy (part : Nat) (s : State) :
    exec (.partitionDestroy part) s = execPartitionDestroy part s := rfl
@[simp] theorem exec_operatorClearAttempts (s : State) :
    exec .operatorClearAttempts s = execOperatorClearAttempts s := rfl
@[simp] theorem exec_imageWrite (slot : Bool) (image : Image) (imgsel : Option Bool) (s : State) :
    exec (.imageWrite slot image imgsel) s = execImageWrite slot image imgsel s := rfl
@[simp] theorem exec_fieldSelfTest (field : Nat) (r : FieldReport) (s : State) :
    exec (.fieldSelfTest field r) s = execFieldSelfTest field r s := rfl
@[simp] theorem exec_operatorAttest (nonce : BitVec 256) (s : State) :
    exec (.operatorAttest nonce) s = execOperatorAttest nonce s := rfl
@[simp] theorem exec_operatorResume (ctx : Nat) (s : State) :
    exec (.operatorResume ctx) s = execOperatorResume ctx s := rfl
@[simp] theorem exec_operatorAbort (ctx : Nat) (s : State) :
    exec (.operatorAbort ctx) s = execOperatorAbort ctx s := rfl
@[simp] theorem exec_powerLoss (s : State) :
    exec .powerLoss s = execPowerLoss s := rfl
@[simp] theorem exec_returnWithinLimit (field : Nat) (s : State) :
    exec (.returnWithinLimit field) s = execReturnWithinLimit field s := rfl
@[simp] theorem exec_memoryChannelRetraining (field : Nat) (ch : Nat) (failures : Nat) (s : State) :
    exec (.memoryChannelRetraining field ch failures) s = execMemoryChannelRetraining field ch failures s := rfl
@[simp] theorem exec_crossbarPortParityError (field : Nat) (sector : Nat) (cleared : Bool) (s : State) :
    exec (.crossbarPortParityError field sector cleared) s = execCrossbarPortParityError field sector cleared s := rfl
@[simp] theorem exec_rnrNak (qpn : Nat) (s : State) :
    exec (.rnrNak qpn) s = execRnrNak qpn s := rfl
@[simp] theorem exec_pauseFrame (port : Nat) (prios : BitVec 8) (pause : Bool) (s : State) :
    exec (.pauseFrame port prios pause) s = execPauseFrame port prios pause s := rfl
@[simp] theorem exec_cleanEvictionNotice (cluster : Nat) (asid : Nat) (line : Nat) (s : State) :
    exec (.cleanEvictionNotice cluster asid line) s = execCleanEvictionNotice cluster asid line s := rfl
@[simp] theorem exec_cleanReleaseNotice (field : Nat) (asid : Nat) (line : Nat) (s : State) :
    exec (.cleanReleaseNotice field asid line) s = execCleanReleaseNotice field asid line s := rfl
@[simp] theorem exec_sharerNotice (cluster : Nat) (supplier : Nat) (asid : Nat) (line : Nat) (s : State) :
    exec (.sharerNotice cluster supplier asid line) s = execSharerNotice cluster supplier asid line s := rfl
@[simp] theorem exec_readRequest (cluster : Nat) (asid : Nat) (line : Nat) (s : State) :
    exec (.readRequest cluster asid line) s = execReadRequest cluster asid line s := rfl
@[simp] theorem exec_lineFetch (core : Nat) (asid : Nat) (line : Nat) (first : Option (BitVec 512)) (second : Option (BitVec 512)) (s : State) :
    exec (.lineFetch core asid line first second) s = execLineFetch core asid line first second s := rfl
@[simp] theorem exec_ownershipRequest (cluster : Nat) (asid : Nat) (line : Nat) (s : State) :
    exec (.ownershipRequest cluster asid line) s = execOwnershipRequest cluster asid line s := rfl
@[simp] theorem exec_writeRequest (cluster : Nat) (asid : Nat) (line : Nat) (mask : BitVec 32) (sector : Nat) (data : List Byte) (s : State) :
    exec (.writeRequest cluster asid line mask sector data) s = execWriteRequest cluster asid line mask sector data s := rfl
@[simp] theorem exec_uncachedRead (cluster : Nat) (asid : Nat) (line : Nat) (s : State) :
    exec (.uncachedRead cluster asid line) s = execUncachedRead cluster asid line s := rfl
@[simp] theorem exec_uncachedWrite (cluster : Nat) (asid : Nat) (line : Nat) (mask : BitVec 32) (sector : Nat) (data : List Byte) (s : State) :
    exec (.uncachedWrite cluster asid line mask sector data) s = execUncachedWrite cluster asid line mask sector data s := rfl
@[simp] theorem exec_farAtomic (cluster : Nat) (asid : Nat) (addr : Nat) (aop : Option Aop) (size : BitVec 3) (v : BitVec 128 × BitVec 128) (s : State) :
    exec (.farAtomic cluster asid addr aop size v) s = execFarAtomic cluster asid addr aop size v s := rfl
@[simp] theorem exec_eviction (cluster : Nat) (asid : Nat) (line : Nat) (s : State) :
    exec (.eviction cluster asid line) s = execEviction cluster asid line s := rfl
@[simp] theorem exec_recall (cluster : Nat) (asid : Nat) (line : Nat) (keep : Bool) (s : State) :
    exec (.recall cluster asid line keep) s = execRecall cluster asid line keep s := rfl
@[simp] theorem exec_invalidation (cluster : Nat) (asid : Nat) (line : Nat) (s : State) :
    exec (.invalidation cluster asid line) s = execInvalidation cluster asid line s := rfl
@[simp] theorem exec_peerProbe (cluster : Nat) (asid : Nat) (line : Nat) (s : State) :
    exec (.peerProbe cluster asid line) s = execPeerProbe cluster asid line s := rfl
@[simp] theorem exec_placementEpoch (field : Nat) (s : State) :
    exec (.placementEpoch field) s = execPlacementEpoch field s := rfl
@[simp] theorem exec_marginLend (field : Nat) (bank : Bool) (num : Nat) (owner : Nat) (s : State) :
    exec (.marginLend field bank num owner) s = execMarginLend field bank num owner s := rfl
@[simp] theorem exec_revocationOverrun (field : Nat) (bank : Bool) (num : Nat) (owner : Nat) (s : State) :
    exec (.revocationOverrun field bank num owner) s = execRevocationOverrun field bank num owner s := rfl
@[simp] theorem exec_pcSample (core : Nat) (vf : Nat) (s : State) :
    exec (.pcSample core vf) s = execPcSample core vf s := rfl
@[simp] theorem exec_heartbeatTimeout (unit : UnitId) (s : State) :
    exec (.heartbeatTimeout unit) s = execHeartbeatTimeout unit s := rfl
@[simp] theorem exec_linkRetrain (field : Nat) (dir : Nat) (outcome : Nat) (s : State) :
    exec (.linkRetrain field dir outcome) s = execLinkRetrain field dir outcome s := rfl
@[simp] theorem exec_laneTraining (port : Nat) (lanes : BitVec 8) (ok : Bool) (s : State) :
    exec (.laneTraining port lanes ok) s = execLaneTraining port lanes ok s := rfl
@[simp] theorem exec_memoryUncorrectable (site : EccSite) (field : Nat) (pa : Nat) (blk : Nat) (s : State) :
    exec (.memoryUncorrectable site field pa blk) s = execMemoryUncorrectable site field pa blk s := rfl
@[simp] theorem exec_thermalLimit (field : Nat) (s : State) :
    exec (.thermalLimit field) s = execThermalLimit field s := rfl
@[simp] theorem exec_rdmaWrite (r : InReq) (s : State) :
    exec (.rdmaWrite r) s = execRdmaWrite r s := rfl
@[simp] theorem exec_rdmaWriteWithImmediate (r : InReq) (s : State) :
    exec (.rdmaWriteWithImmediate r) s = execRdmaWriteWithImmediate r s := rfl
@[simp] theorem exec_rdmaRead (r : InReq) (s : State) :
    exec (.rdmaRead r) s = execRdmaRead r s := rfl
@[simp] theorem exec_fetchAdd (r : InReq) (s : State) :
    exec (.fetchAdd r) s = execFetchAdd r s := rfl
@[simp] theorem exec_cmpSwap (r : InReq) (s : State) :
    exec (.cmpSwap r) s = execCmpSwap r s := rfl
@[simp] theorem exec_ackTimeout (qpn : Nat) (s : State) :
    exec (.ackTimeout qpn) s = execAckTimeout qpn s := rfl

end Sys2Proof.Machine
end

