-- ==== Sys2Proof/Laws/Tab.lean ====
section
/-! SUPPORT. Sparse tables: what a read gives after a write, and the canonical form kept by every operation
on a table. -/

namespace Sys2Proof.Machine

variable {α : Type}

/-! ### Reading after writing -/

@[simp] theorem Tab.get_nil (d : α) (k : Nat) : Tab.get d [] k = d := rfl

theorem Tab.get_cons (d : α) (j k : Nat) (x : α) (m : Tab α) :
    Tab.get d ((j, x) :: m) k = if j = k then x else Tab.get d m k := rfl

@[simp] theorem Tab.get_insert_self (d : α) (m : Tab α) (k : Nat) (x : α) : Tab.get d (Tab.insert m k x) k = x := by
  induction m with
  | nil => simp [Tab.insert, Tab.get]
  | cons e m ih =>
    obtain ⟨j, y⟩ := e
    simp only [Tab.insert]
    split
    · simp [Tab.get]
    · split
      · simp [Tab.get]
      · simp [Tab.get, *]

theorem Tab.get_insert_ne (d : α) (m : Tab α) {k j : Nat} (x : α) (h : k ≠ j) :
    Tab.get d (Tab.insert m k x) j = Tab.get d m j := by
  induction m with
  | nil => simp [Tab.insert, Tab.get, h]
  | cons e m ih =>
    obtain ⟨i, y⟩ := e
    simp only [Tab.insert]
    split
    · simp [Tab.get, h]
    · split
      · subst_vars; simp [Tab.get, h]
      · simp [Tab.get, ih]

@[simp] theorem Tab.get_erase_self (d : α) (m : Tab α) (k : Nat) : Tab.get d (Tab.erase m k) k = d := by
  induction m with
  | nil => rfl
  | cons e m ih =>
    obtain ⟨j, y⟩ := e
    simp only [Tab.erase]
    split
    · exact ih
    · simp [Tab.get, *]

theorem Tab.get_erase_ne (d : α) (m : Tab α) {k j : Nat} (h : k ≠ j) :
    Tab.get d (Tab.erase m k) j = Tab.get d m j := by
  induction m with
  | nil => rfl
  | cons e m ih =>
    obtain ⟨i, y⟩ := e
    simp only [Tab.erase]
    split
    · subst_vars; simp [Tab.get, h, ih]
    · simp [Tab.get, ih]

@[simp] theorem Tab.get_put_self (d : α) (m : Tab α) (k : Nat) (x : α) : Tab.get d (Tab.put m k x) k = x :=
  Tab.get_insert_self d m k x

theorem Tab.get_put_ne (d : α) (m : Tab α) {k j : Nat} (x : α) (h : k ≠ j) :
    Tab.get d (Tab.put m k x) j = Tab.get d m j :=
  Tab.get_insert_ne d m x h

variable [DecidableEq α]

@[simp] theorem Tab.get_set_self (d : α) (m : Tab α) (k : Nat) (x : α) : Tab.get d (Tab.set d m k x) k = x := by
  unfold Tab.set
  split
  · simp [*]
  · simp

theorem Tab.get_set_ne (d : α) (m : Tab α) {k j : Nat} (x : α) (h : k ≠ j) :
    Tab.get d (Tab.set d m k x) j = Tab.get d m j := by
  unfold Tab.set
  split
  · exact Tab.get_erase_ne d m h
  · exact Tab.get_insert_ne d m x h

theorem Tab.get_set (d : α) (m : Tab α) (k j : Nat) (x : α) :
    Tab.get d (Tab.set d m k x) j = if k = j then x else Tab.get d m j := by
  split
  · subst_vars; simp
  · exact Tab.get_set_ne d m x ‹_›

/-- A run of writes reaches only its own keys. -/
theorem Tab.get_setRun_out (d : α) (m : Tab α) (k j : Nat) (l : List α) (h : j < k ∨ k + l.length ≤ j) :
    Tab.get d (Tab.setRun d m k l) j = Tab.get d m j := by
  induction l generalizing m k with
  | nil => rfl
  | cons x l ih =>
    simp only [List.length_cons] at h
    rw [Tab.setRun, ih _ _ (by omega), Tab.get_set_ne _ _ _ (by omega)]

/-- A run of writes leaves the i-th value at the i-th key. -/
theorem Tab.get_setRun_in (d : α) (m : Tab α) (k i : Nat) (l : List α) (h : i < l.length) :
    Tab.get d (Tab.setRun d m k l) (k + i) = l[i] := by
  induction l generalizing m k i with
  | nil => simp at h
  | cons x l ih =>
    rw [Tab.setRun]
    cases i with
    | zero => rw [Tab.get_setRun_out _ _ _ _ _ (by omega)]; simp
    | succ i =>
      have := ih (Tab.set d m k x) (k + 1) i (by simpa using h)
      rw [show k + (i + 1) = k + 1 + i by omega, this]; simp

/-! ### The canonical form -/

/-- Keys strictly rising, and above a bound. -/
def Tab.above (b : Nat) : Tab α → Prop
  | [] => True
  | (j, _) :: m => b ≤ j ∧ Tab.above (j + 1) m

/-- No entry is what an unlisted key reads as. -/
def Tab.clean (d : α) (m : Tab α) : Prop := ∀ e ∈ m, e.2 ≠ d

omit [DecidableEq α] in
theorem Tab.above_mono {b c : Nat} {m : Tab α} (h : Tab.above c m) (hb : b ≤ c) : Tab.above b m := by
  cases m with
  | nil => trivial
  | cons e m => exact ⟨by have := h.1; omega, h.2⟩

theorem Tab.wf_iff (d : α) (m : Tab α) : Tab.wf d m = true ↔ Tab.above 0 m ∧ Tab.clean d m := by
  induction m with
  | nil => simp [Tab.wf, Tab.above, Tab.clean]
  | cons e m ih =>
    obtain ⟨j, x⟩ := e
    cases m with
    | nil => simp [Tab.wf, Tab.above, Tab.clean]
    | cons f m =>
      obtain ⟨k, y⟩ := f
      simp only [Tab.wf, Bool.and_eq_true, decide_eq_true_eq, bne_iff_ne, ih, Tab.above, Tab.clean,
        List.forall_mem_cons]
      constructor
      · rintro ⟨⟨a, b⟩, ⟨_, c⟩, e⟩; exact ⟨⟨Nat.zero_le _, b, c⟩, a, e⟩
      · rintro ⟨⟨_, b, c⟩, a, e⟩; exact ⟨⟨a, b⟩, ⟨Nat.zero_le _, c⟩, e⟩

omit [DecidableEq α] in
theorem Tab.above_erase {b : Nat} {m : Tab α} (k : Nat) (h : Tab.above b m) : Tab.above b (Tab.erase m k) := by
  induction m generalizing b with
  | nil => trivial
  | cons e m ih =>
    obtain ⟨j, x⟩ := e
    simp only [Tab.erase]
    split
    · exact Tab.above_mono (ih h.2) (by have := h.1; omega)
    · exact ⟨h.1, ih h.2⟩

omit [DecidableEq α] in
theorem Tab.above_insert {b : Nat} {m : Tab α} (k : Nat) (x : α) (hb : b ≤ k) (h : Tab.above b m) :
    Tab.above b (Tab.insert m k x) := by
  induction m generalizing b with
  | nil => exact ⟨hb, trivial⟩
  | cons e m ih =>
    obtain ⟨j, y⟩ := e
    simp only [Tab.insert]
    split
    · exact ⟨hb, by omega, h.2⟩
    · split
      · subst_vars; exact ⟨hb, h.2⟩
      · exact ⟨h.1, ih (by omega) h.2⟩

omit [DecidableEq α] in
theorem Tab.mem_erase {m : Tab α} {k : Nat} {e : Nat × α} (h : e ∈ Tab.erase m k) : e ∈ m := by
  induction m with
  | nil => exact h
  | cons f m ih =>
    obtain ⟨j, y⟩ := f
    simp only [Tab.erase] at h
    split at h
    · exact List.mem_cons_of_mem _ (ih h)
    · rcases List.mem_cons.1 h with h | h
      · exact h ▸ List.mem_cons_self
      · exact List.mem_cons_of_mem _ (ih h)

omit [DecidableEq α] in
theorem Tab.mem_insert {m : Tab α} {k : Nat} {x : α} {e : Nat × α} (h : e ∈ Tab.insert m k x) :
    e = (k, x) ∨ e ∈ m := by
  induction m with
  | nil => exact Or.inl (List.mem_singleton.1 h)
  | cons f m ih =>
    obtain ⟨j, y⟩ := f
    simp only [Tab.insert] at h
    split at h
    · exact List.mem_cons.1 h
    · split at h
      · rcases List.mem_cons.1 h with h | h
        · exact Or.inl h
        · exact Or.inr (List.mem_cons_of_mem _ h)
      · rcases List.mem_cons.1 h with h | h
        · exact Or.inr (h ▸ List.mem_cons_self)
        · exact (ih h).imp id (List.mem_cons_of_mem _)

theorem Tab.wf_erase {d : α} {m : Tab α} (k : Nat) (h : Tab.wf d m = true) : Tab.wf d (Tab.erase m k) = true := by
  rw [Tab.wf_iff] at *
  exact ⟨Tab.above_erase k h.1, fun e he => h.2 e (Tab.mem_erase he)⟩

theorem Tab.wf_insert {d : α} {m : Tab α} (k : Nat) {x : α} (hx : x ≠ d) (h : Tab.wf d m = true) :
    Tab.wf d (Tab.insert m k x) = true := by
  rw [Tab.wf_iff] at *
  refine ⟨Tab.above_insert k x (Nat.zero_le _) h.1, fun e he => ?_⟩
  rcases Tab.mem_insert he with rfl | he
  · exact hx
  · exact h.2 e he

theorem Tab.wf_set {d : α} {m : Tab α} (k : Nat) (x : α) (h : Tab.wf d m = true) : Tab.wf d (Tab.set d m k x) = true := by
  unfold Tab.set
  split
  · exact Tab.wf_erase k h
  · exact Tab.wf_insert k ‹_› h

theorem Tab.wf_setRun {d : α} {m : Tab α} (k : Nat) (l : List α) (h : Tab.wf d m = true) :
    Tab.wf d (Tab.setRun d m k l) = true := by
  induction l generalizing m k with
  | nil => exact h
  | cons x l ih => exact ih _ (Tab.wf_set k x h)

omit [DecidableEq α] in
theorem Tab.above_filter {b : Nat} {m : Tab α} (p : Nat × α → Bool) (h : Tab.above b m) :
    Tab.above b (m.filter p) := by
  induction m generalizing b with
  | nil => trivial
  | cons e m ih =>
    simp only [List.filter_cons]
    split
    · exact ⟨h.1, ih h.2⟩
    · exact Tab.above_mono (ih h.2) (by have := h.1; omega)

theorem Tab.wf_filter {d : α} {m : Tab α} (p : Nat × α → Bool) (h : Tab.wf d m = true) :
    Tab.wf d (m.filter p) = true := by
  rw [Tab.wf_iff] at *
  exact ⟨Tab.above_filter p h.1, fun e he => h.2 e (List.mem_of_mem_filter he)⟩

theorem Tab.wf_tail {d : α} {e : Nat × α} {m : Tab α} (h : Tab.wf d (e :: m) = true) : Tab.wf d m = true := by
  rw [Tab.wf_iff] at *
  exact ⟨Tab.above_mono h.1.2 (Nat.zero_le _), fun f hf => h.2 f (List.mem_cons_of_mem _ hf)⟩

omit [DecidableEq α] in
/-- Below every listed key a table reads as nothing listed. -/
theorem Tab.get_below {d : α} {m : Tab α} {b k : Nat} (h : Tab.above b m) (hk : k < b) : Tab.get d m k = d := by
  induction m generalizing b with
  | nil => rfl
  | cons e m ih =>
    obtain ⟨j, x⟩ := e
    have := h.1
    rw [Tab.get_cons, if_neg (by omega)]
    exact ih h.2 (by omega)

/-- Two tables in canonical form that read the same at every key are one. -/
theorem Tab.ext_of_wf {d : α} {m n : Tab α} (hm : Tab.wf d m = true) (hn : Tab.wf d n = true)
    (h : ∀ k, Tab.get d m k = Tab.get d n k) : m = n := by
  induction m generalizing n with
  | nil =>
    cases n with
    | nil => rfl
    | cons e n =>
      have h1 := h e.1
      rw [Tab.wf_iff] at hn
      exact absurd (by simpa [Tab.get] using h1.symm) (hn.2 e List.mem_cons_self)
  | cons e m ih =>
    obtain ⟨j, x⟩ := e
    have hm' := (Tab.wf_iff d _).1 hm
    have hx : x ≠ d := hm'.2 (j, x) List.mem_cons_self
    cases n with
    | nil => exact absurd (by simpa [Tab.get] using h j) hx
    | cons f n =>
      obtain ⟨k, y⟩ := f
      have hn' := (Tab.wf_iff d _).1 hn
      have hy : y ≠ d := hn'.2 (k, y) List.mem_cons_self
      have hj := h j
      have hk := h k
      simp only [Tab.get_cons, if_true] at hj hk
      have hjk : j = k := by
        rcases Nat.lt_trichotomy j k with hlt | he | hgt
        · rw [if_neg (by omega), Tab.get_below hn'.1.2 (by omega)] at hj
          exact absurd hj hx
        · exact he
        · rw [if_neg (by omega), Tab.get_below hm'.1.2 (by omega)] at hk
          exact absurd hk.symm hy
      subst hjk
      have hxy : x = y := by simpa using hj
      subst hxy
      congr 1
      refine ih (Tab.wf_tail hm) (Tab.wf_tail hn) fun i => ?_
      rcases Nat.lt_or_ge j i with hlt | hge
      · simpa [Tab.get_cons, show ¬ j = i by omega] using h i
      · rw [Tab.get_below hm'.1.2 (by omega), Tab.get_below hn'.1.2 (by omega)]

end Sys2Proof.Machine
end

