-- ==== Sys2Proof/Laws/State.lean ====
section
/-! SUPPORT. What each update of the state leaves in each field, and what each part reads as after an update:
so that no later proof unfolds a record update. -/

namespace Sys2Proof.Machine

open Sys2Proof

/-! ### Fields after an update of one table -/

@[simp] theorem State.setBlk_fields (s : State) (b : Nat) (x : Block) :
    (s.setBlk b x).blocks = Tab.put s.blocks b x ∧ (s.setBlk b x).powered = s.powered ∧
    (s.setBlk b x).running = s.running ∧ (s.setBlk b x).lockedOff = s.lockedOff ∧
    (s.setBlk b x).starting = s.starting ∧ (s.setBlk b x).minimal = s.minimal ∧ (s.setBlk b x).boot = s.boot ∧
    (s.setBlk b x).imageA = s.imageA ∧ (s.setBlk b x).imageB = s.imageB ∧ (s.setBlk b x).image = s.image ∧
    (s.setBlk b x).fuses = s.fuses ∧ (s.setBlk b x).lead = s.lead ∧ (s.setBlk b x).topoGen = s.topoGen ∧
    (s.setBlk b x).topoTime = s.topoTime ∧ (s.setBlk b x).fields = s.fields ∧ (s.setBlk b x).ports = s.ports ∧
    (s.setBlk b x).mgmt = s.mgmt ∧ (s.setBlk b x).time = s.time ∧ (s.setBlk b x).cycle = s.cycle ∧
    (s.setBlk b x).clock = s.clock ∧ (s.setBlk b x).ptpLocked = s.ptpLocked ∧ (s.setBlk b x).slew = s.slew ∧
    (s.setBlk b x).parts = s.parts ∧ (s.setBlk b x).revokes = s.revokes ∧ (s.setBlk b x).vfs = s.vfs ∧
    (s.setBlk b x).ctxs = s.ctxs ∧ (s.setBlk b x).asids = s.asids ∧ (s.setBlk b x).cores = s.cores ∧
    (s.setBlk b x).acts = s.acts ∧ (s.setBlk b x).launches = s.launches ∧ (s.setBlk b x).qps = s.qps ∧
    (s.setBlk b x).passes = s.passes ∧ (s.setBlk b x).mem = s.mem ∧ (s.setBlk b x).wgen = s.wgen ∧
    (s.setBlk b x).shadows = s.shadows ∧ (s.setBlk b x).held = s.held ∧ (s.setBlk b x).tlb = s.tlb ∧
    (s.setBlk b x).frames = s.frames ∧ (s.setBlk b x).granules = s.granules ∧
    (s.setBlk b x).leaves = s.leaves ∧ (s.setBlk b x).lost = s.lost ∧ (s.setBlk b x).fab = s.fab ∧
    (s.setBlk b x).events = s.events ∧ (s.setBlk b x).out = s.out ∧ (s.setBlk b x).served = s.served ∧
    (s.setBlk b x).inputs = s.inputs ∧ (s.setBlk b x).pick = s.pick ∧ (s.setBlk b x).lag = s.lag ∧
    (s.setBlk b x).draws = s.draws ∧ (s.setBlk b x).svc = s.svc := by
  repeat' constructor

@[simp] theorem State.setAct_fields (s : State) (a : Nat) (x : Act) :
    (s.setAct a x).acts = Tab.put s.acts a x ∧ (s.setAct a x).powered = s.powered ∧
    (s.setAct a x).running = s.running ∧ (s.setAct a x).lockedOff = s.lockedOff ∧
    (s.setAct a x).starting = s.starting ∧ (s.setAct a x).minimal = s.minimal ∧ (s.setAct a x).boot = s.boot ∧
    (s.setAct a x).imageA = s.imageA ∧ (s.setAct a x).imageB = s.imageB ∧ (s.setAct a x).image = s.image ∧
    (s.setAct a x).fuses = s.fuses ∧ (s.setAct a x).lead = s.lead ∧ (s.setAct a x).topoGen = s.topoGen ∧
    (s.setAct a x).topoTime = s.topoTime ∧ (s.setAct a x).fields = s.fields ∧ (s.setAct a x).ports = s.ports ∧
    (s.setAct a x).mgmt = s.mgmt ∧ (s.setAct a x).time = s.time ∧ (s.setAct a x).cycle = s.cycle ∧
    (s.setAct a x).clock = s.clock ∧ (s.setAct a x).ptpLocked = s.ptpLocked ∧ (s.setAct a x).slew = s.slew ∧
    (s.setAct a x).parts = s.parts ∧ (s.setAct a x).revokes = s.revokes ∧ (s.setAct a x).vfs = s.vfs ∧
    (s.setAct a x).ctxs = s.ctxs ∧ (s.setAct a x).asids = s.asids ∧ (s.setAct a x).cores = s.cores ∧
    (s.setAct a x).blocks = s.blocks ∧ (s.setAct a x).launches = s.launches ∧ (s.setAct a x).qps = s.qps ∧
    (s.setAct a x).passes = s.passes ∧ (s.setAct a x).mem = s.mem ∧ (s.setAct a x).wgen = s.wgen ∧
    (s.setAct a x).shadows = s.shadows ∧ (s.setAct a x).held = s.held ∧ (s.setAct a x).tlb = s.tlb ∧
    (s.setAct a x).frames = s.frames ∧ (s.setAct a x).granules = s.granules ∧
    (s.setAct a x).leaves = s.leaves ∧ (s.setAct a x).lost = s.lost ∧ (s.setAct a x).fab = s.fab ∧
    (s.setAct a x).events = s.events ∧ (s.setAct a x).out = s.out ∧ (s.setAct a x).served = s.served ∧
    (s.setAct a x).inputs = s.inputs ∧ (s.setAct a x).pick = s.pick ∧ (s.setAct a x).lag = s.lag ∧
    (s.setAct a x).draws = s.draws ∧ (s.setAct a x).svc = s.svc := by
  repeat' constructor

@[simp] theorem State.setCore_fields (s : State) (c : Nat) (x : Core) :
    (s.setCore c x).cores = Tab.put s.cores c x ∧ (s.setCore c x).powered = s.powered ∧
    (s.setCore c x).running = s.running ∧ (s.setCore c x).lockedOff = s.lockedOff ∧
    (s.setCore c x).starting = s.starting ∧ (s.setCore c x).minimal = s.minimal ∧
    (s.setCore c x).boot = s.boot ∧ (s.setCore c x).imageA = s.imageA ∧ (s.setCore c x).imageB = s.imageB ∧
    (s.setCore c x).image = s.image ∧ (s.setCore c x).fuses = s.fuses ∧ (s.setCore c x).lead = s.lead ∧
    (s.setCore c x).topoGen = s.topoGen ∧ (s.setCore c x).topoTime = s.topoTime ∧
    (s.setCore c x).fields = s.fields ∧ (s.setCore c x).ports = s.ports ∧ (s.setCore c x).mgmt = s.mgmt ∧
    (s.setCore c x).time = s.time ∧ (s.setCore c x).cycle = s.cycle ∧ (s.setCore c x).clock = s.clock ∧
    (s.setCore c x).ptpLocked = s.ptpLocked ∧ (s.setCore c x).slew = s.slew ∧ (s.setCore c x).parts = s.parts ∧
    (s.setCore c x).revokes = s.revokes ∧ (s.setCore c x).vfs = s.vfs ∧ (s.setCore c x).ctxs = s.ctxs ∧
    (s.setCore c x).asids = s.asids ∧ (s.setCore c x).blocks = s.blocks ∧ (s.setCore c x).acts = s.acts ∧
    (s.setCore c x).launches = s.launches ∧ (s.setCore c x).qps = s.qps ∧ (s.setCore c x).passes = s.passes ∧
    (s.setCore c x).mem = s.mem ∧ (s.setCore c x).wgen = s.wgen ∧ (s.setCore c x).shadows = s.shadows ∧
    (s.setCore c x).held = s.held ∧ (s.setCore c x).tlb = s.tlb ∧ (s.setCore c x).frames = s.frames ∧
    (s.setCore c x).granules = s.granules ∧ (s.setCore c x).leaves = s.leaves ∧ (s.setCore c x).lost = s.lost ∧
    (s.setCore c x).fab = s.fab ∧ (s.setCore c x).events = s.events ∧ (s.setCore c x).out = s.out ∧
    (s.setCore c x).served = s.served ∧ (s.setCore c x).inputs = s.inputs ∧ (s.setCore c x).pick = s.pick ∧
    (s.setCore c x).lag = s.lag ∧ (s.setCore c x).draws = s.draws ∧ (s.setCore c x).svc = s.svc := by
  repeat' constructor

@[simp] theorem State.setCtx_fields (s : State) (c : Nat) (x : Ctx) :
    (s.setCtx c x).ctxs = Tab.put s.ctxs c x ∧ (s.setCtx c x).powered = s.powered ∧
    (s.setCtx c x).running = s.running ∧ (s.setCtx c x).lockedOff = s.lockedOff ∧
    (s.setCtx c x).starting = s.starting ∧ (s.setCtx c x).minimal = s.minimal ∧ (s.setCtx c x).boot = s.boot ∧
    (s.setCtx c x).imageA = s.imageA ∧ (s.setCtx c x).imageB = s.imageB ∧ (s.setCtx c x).image = s.image ∧
    (s.setCtx c x).fuses = s.fuses ∧ (s.setCtx c x).lead = s.lead ∧ (s.setCtx c x).topoGen = s.topoGen ∧
    (s.setCtx c x).topoTime = s.topoTime ∧ (s.setCtx c x).fields = s.fields ∧ (s.setCtx c x).ports = s.ports ∧
    (s.setCtx c x).mgmt = s.mgmt ∧ (s.setCtx c x).time = s.time ∧ (s.setCtx c x).cycle = s.cycle ∧
    (s.setCtx c x).clock = s.clock ∧ (s.setCtx c x).ptpLocked = s.ptpLocked ∧ (s.setCtx c x).slew = s.slew ∧
    (s.setCtx c x).parts = s.parts ∧ (s.setCtx c x).revokes = s.revokes ∧ (s.setCtx c x).vfs = s.vfs ∧
    (s.setCtx c x).asids = s.asids ∧ (s.setCtx c x).cores = s.cores ∧ (s.setCtx c x).blocks = s.blocks ∧
    (s.setCtx c x).acts = s.acts ∧ (s.setCtx c x).launches = s.launches ∧ (s.setCtx c x).qps = s.qps ∧
    (s.setCtx c x).passes = s.passes ∧ (s.setCtx c x).mem = s.mem ∧ (s.setCtx c x).wgen = s.wgen ∧
    (s.setCtx c x).shadows = s.shadows ∧ (s.setCtx c x).held = s.held ∧ (s.setCtx c x).tlb = s.tlb ∧
    (s.setCtx c x).frames = s.frames ∧ (s.setCtx c x).granules = s.granules ∧
    (s.setCtx c x).leaves = s.leaves ∧ (s.setCtx c x).lost = s.lost ∧ (s.setCtx c x).fab = s.fab ∧
    (s.setCtx c x).events = s.events ∧ (s.setCtx c x).out = s.out ∧ (s.setCtx c x).served = s.served ∧
    (s.setCtx c x).inputs = s.inputs ∧ (s.setCtx c x).pick = s.pick ∧ (s.setCtx c x).lag = s.lag ∧
    (s.setCtx c x).draws = s.draws ∧ (s.setCtx c x).svc = s.svc := by
  repeat' constructor

@[simp] theorem State.setVf_fields (s : State) (v : Nat) (x : Vf) :
    (s.setVf v x).vfs = Tab.put s.vfs v x ∧ (s.setVf v x).powered = s.powered ∧
    (s.setVf v x).running = s.running ∧ (s.setVf v x).lockedOff = s.lockedOff ∧
    (s.setVf v x).starting = s.starting ∧ (s.setVf v x).minimal = s.minimal ∧ (s.setVf v x).boot = s.boot ∧
    (s.setVf v x).imageA = s.imageA ∧ (s.setVf v x).imageB = s.imageB ∧ (s.setVf v x).image = s.image ∧
    (s.setVf v x).fuses = s.fuses ∧ (s.setVf v x).lead = s.lead ∧ (s.setVf v x).topoGen = s.topoGen ∧
    (s.setVf v x).topoTime = s.topoTime ∧ (s.setVf v x).fields = s.fields ∧ (s.setVf v x).ports = s.ports ∧
    (s.setVf v x).mgmt = s.mgmt ∧ (s.setVf v x).time = s.time ∧ (s.setVf v x).cycle = s.cycle ∧
    (s.setVf v x).clock = s.clock ∧ (s.setVf v x).ptpLocked = s.ptpLocked ∧ (s.setVf v x).slew = s.slew ∧
    (s.setVf v x).parts = s.parts ∧ (s.setVf v x).revokes = s.revokes ∧ (s.setVf v x).ctxs = s.ctxs ∧
    (s.setVf v x).asids = s.asids ∧ (s.setVf v x).cores = s.cores ∧ (s.setVf v x).blocks = s.blocks ∧
    (s.setVf v x).acts = s.acts ∧ (s.setVf v x).launches = s.launches ∧ (s.setVf v x).qps = s.qps ∧
    (s.setVf v x).passes = s.passes ∧ (s.setVf v x).mem = s.mem ∧ (s.setVf v x).wgen = s.wgen ∧
    (s.setVf v x).shadows = s.shadows ∧ (s.setVf v x).held = s.held ∧ (s.setVf v x).tlb = s.tlb ∧
    (s.setVf v x).frames = s.frames ∧ (s.setVf v x).granules = s.granules ∧ (s.setVf v x).leaves = s.leaves ∧
    (s.setVf v x).lost = s.lost ∧ (s.setVf v x).fab = s.fab ∧ (s.setVf v x).events = s.events ∧
    (s.setVf v x).out = s.out ∧ (s.setVf v x).served = s.served ∧ (s.setVf v x).inputs = s.inputs ∧
    (s.setVf v x).pick = s.pick ∧ (s.setVf v x).lag = s.lag ∧ (s.setVf v x).draws = s.draws ∧
    (s.setVf v x).svc = s.svc := by
  repeat' constructor

@[simp] theorem State.setPart_fields (s : State) (p : Nat) (x : Partition) :
    (s.setPart p x).parts = Tab.put s.parts p x ∧ (s.setPart p x).powered = s.powered ∧
    (s.setPart p x).running = s.running ∧ (s.setPart p x).lockedOff = s.lockedOff ∧
    (s.setPart p x).starting = s.starting ∧ (s.setPart p x).minimal = s.minimal ∧
    (s.setPart p x).boot = s.boot ∧ (s.setPart p x).imageA = s.imageA ∧ (s.setPart p x).imageB = s.imageB ∧
    (s.setPart p x).image = s.image ∧ (s.setPart p x).fuses = s.fuses ∧ (s.setPart p x).lead = s.lead ∧
    (s.setPart p x).topoGen = s.topoGen ∧ (s.setPart p x).topoTime = s.topoTime ∧
    (s.setPart p x).fields = s.fields ∧ (s.setPart p x).ports = s.ports ∧ (s.setPart p x).mgmt = s.mgmt ∧
    (s.setPart p x).time = s.time ∧ (s.setPart p x).cycle = s.cycle ∧ (s.setPart p x).clock = s.clock ∧
    (s.setPart p x).ptpLocked = s.ptpLocked ∧ (s.setPart p x).slew = s.slew ∧
    (s.setPart p x).revokes = s.revokes ∧ (s.setPart p x).vfs = s.vfs ∧ (s.setPart p x).ctxs = s.ctxs ∧
    (s.setPart p x).asids = s.asids ∧ (s.setPart p x).cores = s.cores ∧ (s.setPart p x).blocks = s.blocks ∧
    (s.setPart p x).acts = s.acts ∧ (s.setPart p x).launches = s.launches ∧ (s.setPart p x).qps = s.qps ∧
    (s.setPart p x).passes = s.passes ∧ (s.setPart p x).mem = s.mem ∧ (s.setPart p x).wgen = s.wgen ∧
    (s.setPart p x).shadows = s.shadows ∧ (s.setPart p x).held = s.held ∧ (s.setPart p x).tlb = s.tlb ∧
    (s.setPart p x).frames = s.frames ∧ (s.setPart p x).granules = s.granules ∧
    (s.setPart p x).leaves = s.leaves ∧ (s.setPart p x).lost = s.lost ∧ (s.setPart p x).fab = s.fab ∧
    (s.setPart p x).events = s.events ∧ (s.setPart p x).out = s.out ∧ (s.setPart p x).served = s.served ∧
    (s.setPart p x).inputs = s.inputs ∧ (s.setPart p x).pick = s.pick ∧ (s.setPart p x).lag = s.lag ∧
    (s.setPart p x).draws = s.draws ∧ (s.setPart p x).svc = s.svc := by
  repeat' constructor

@[simp] theorem State.setLaunch_fields (s : State) (l : Nat) (x : Launch) :
    (s.setLaunch l x).launches = Tab.put s.launches l x ∧ (s.setLaunch l x).powered = s.powered ∧
    (s.setLaunch l x).running = s.running ∧ (s.setLaunch l x).lockedOff = s.lockedOff ∧
    (s.setLaunch l x).starting = s.starting ∧ (s.setLaunch l x).minimal = s.minimal ∧
    (s.setLaunch l x).boot = s.boot ∧ (s.setLaunch l x).imageA = s.imageA ∧
    (s.setLaunch l x).imageB = s.imageB ∧ (s.setLaunch l x).image = s.image ∧
    (s.setLaunch l x).fuses = s.fuses ∧ (s.setLaunch l x).lead = s.lead ∧
    (s.setLaunch l x).topoGen = s.topoGen ∧ (s.setLaunch l x).topoTime = s.topoTime ∧
    (s.setLaunch l x).fields = s.fields ∧ (s.setLaunch l x).ports = s.ports ∧ (s.setLaunch l x).mgmt = s.mgmt ∧
    (s.setLaunch l x).time = s.time ∧ (s.setLaunch l x).cycle = s.cycle ∧ (s.setLaunch l x).clock = s.clock ∧
    (s.setLaunch l x).ptpLocked = s.ptpLocked ∧ (s.setLaunch l x).slew = s.slew ∧
    (s.setLaunch l x).parts = s.parts ∧ (s.setLaunch l x).revokes = s.revokes ∧ (s.setLaunch l x).vfs = s.vfs ∧
    (s.setLaunch l x).ctxs = s.ctxs ∧ (s.setLaunch l x).asids = s.asids ∧ (s.setLaunch l x).cores = s.cores ∧
    (s.setLaunch l x).blocks = s.blocks ∧ (s.setLaunch l x).acts = s.acts ∧ (s.setLaunch l x).qps = s.qps ∧
    (s.setLaunch l x).passes = s.passes ∧ (s.setLaunch l x).mem = s.mem ∧ (s.setLaunch l x).wgen = s.wgen ∧
    (s.setLaunch l x).shadows = s.shadows ∧ (s.setLaunch l x).held = s.held ∧ (s.setLaunch l x).tlb = s.tlb ∧
    (s.setLaunch l x).frames = s.frames ∧ (s.setLaunch l x).granules = s.granules ∧
    (s.setLaunch l x).leaves = s.leaves ∧ (s.setLaunch l x).lost = s.lost ∧ (s.setLaunch l x).fab = s.fab ∧
    (s.setLaunch l x).events = s.events ∧ (s.setLaunch l x).out = s.out ∧ (s.setLaunch l x).served = s.served ∧
    (s.setLaunch l x).inputs = s.inputs ∧ (s.setLaunch l x).pick = s.pick ∧ (s.setLaunch l x).lag = s.lag ∧
    (s.setLaunch l x).draws = s.draws ∧ (s.setLaunch l x).svc = s.svc := by
  repeat' constructor

@[simp] theorem State.setField_fields (s : State) (f : Nat) (x : Field) :
    (s.setField f x).fields = Tab.put s.fields f x ∧ (s.setField f x).powered = s.powered ∧
    (s.setField f x).running = s.running ∧ (s.setField f x).lockedOff = s.lockedOff ∧
    (s.setField f x).starting = s.starting ∧ (s.setField f x).minimal = s.minimal ∧
    (s.setField f x).boot = s.boot ∧ (s.setField f x).imageA = s.imageA ∧ (s.setField f x).imageB = s.imageB ∧
    (s.setField f x).image = s.image ∧ (s.setField f x).fuses = s.fuses ∧ (s.setField f x).lead = s.lead ∧
    (s.setField f x).topoGen = s.topoGen ∧ (s.setField f x).topoTime = s.topoTime ∧
    (s.setField f x).ports = s.ports ∧ (s.setField f x).mgmt = s.mgmt ∧ (s.setField f x).time = s.time ∧
    (s.setField f x).cycle = s.cycle ∧ (s.setField f x).clock = s.clock ∧
    (s.setField f x).ptpLocked = s.ptpLocked ∧ (s.setField f x).slew = s.slew ∧
    (s.setField f x).parts = s.parts ∧ (s.setField f x).revokes = s.revokes ∧ (s.setField f x).vfs = s.vfs ∧
    (s.setField f x).ctxs = s.ctxs ∧ (s.setField f x).asids = s.asids ∧ (s.setField f x).cores = s.cores ∧
    (s.setField f x).blocks = s.blocks ∧ (s.setField f x).acts = s.acts ∧
    (s.setField f x).launches = s.launches ∧ (s.setField f x).qps = s.qps ∧
    (s.setField f x).passes = s.passes ∧ (s.setField f x).mem = s.mem ∧ (s.setField f x).wgen = s.wgen ∧
    (s.setField f x).shadows = s.shadows ∧ (s.setField f x).held = s.held ∧ (s.setField f x).tlb = s.tlb ∧
    (s.setField f x).frames = s.frames ∧ (s.setField f x).granules = s.granules ∧
    (s.setField f x).leaves = s.leaves ∧ (s.setField f x).lost = s.lost ∧ (s.setField f x).fab = s.fab ∧
    (s.setField f x).events = s.events ∧ (s.setField f x).out = s.out ∧ (s.setField f x).served = s.served ∧
    (s.setField f x).inputs = s.inputs ∧ (s.setField f x).pick = s.pick ∧ (s.setField f x).lag = s.lag ∧
    (s.setField f x).draws = s.draws ∧ (s.setField f x).svc = s.svc := by
  repeat' constructor

@[simp] theorem State.setQp_fields (s : State) (q : Nat) (x : Qp) :
    (s.setQp q x).qps = Tab.put s.qps q x ∧ (s.setQp q x).powered = s.powered ∧
    (s.setQp q x).running = s.running ∧ (s.setQp q x).lockedOff = s.lockedOff ∧
    (s.setQp q x).starting = s.starting ∧ (s.setQp q x).minimal = s.minimal ∧ (s.setQp q x).boot = s.boot ∧
    (s.setQp q x).imageA = s.imageA ∧ (s.setQp q x).imageB = s.imageB ∧ (s.setQp q x).image = s.image ∧
    (s.setQp q x).fuses = s.fuses ∧ (s.setQp q x).lead = s.lead ∧ (s.setQp q x).topoGen = s.topoGen ∧
    (s.setQp q x).topoTime = s.topoTime ∧ (s.setQp q x).fields = s.fields ∧ (s.setQp q x).ports = s.ports ∧
    (s.setQp q x).mgmt = s.mgmt ∧ (s.setQp q x).time = s.time ∧ (s.setQp q x).cycle = s.cycle ∧
    (s.setQp q x).clock = s.clock ∧ (s.setQp q x).ptpLocked = s.ptpLocked ∧ (s.setQp q x).slew = s.slew ∧
    (s.setQp q x).parts = s.parts ∧ (s.setQp q x).revokes = s.revokes ∧ (s.setQp q x).vfs = s.vfs ∧
    (s.setQp q x).ctxs = s.ctxs ∧ (s.setQp q x).asids = s.asids ∧ (s.setQp q x).cores = s.cores ∧
    (s.setQp q x).blocks = s.blocks ∧ (s.setQp q x).acts = s.acts ∧ (s.setQp q x).launches = s.launches ∧
    (s.setQp q x).passes = s.passes ∧ (s.setQp q x).mem = s.mem ∧ (s.setQp q x).wgen = s.wgen ∧
    (s.setQp q x).shadows = s.shadows ∧ (s.setQp q x).held = s.held ∧ (s.setQp q x).tlb = s.tlb ∧
    (s.setQp q x).frames = s.frames ∧ (s.setQp q x).granules = s.granules ∧ (s.setQp q x).leaves = s.leaves ∧
    (s.setQp q x).lost = s.lost ∧ (s.setQp q x).fab = s.fab ∧ (s.setQp q x).events = s.events ∧
    (s.setQp q x).out = s.out ∧ (s.setQp q x).served = s.served ∧ (s.setQp q x).inputs = s.inputs ∧
    (s.setQp q x).pick = s.pick ∧ (s.setQp q x).lag = s.lag ∧ (s.setQp q x).draws = s.draws ∧
    (s.setQp q x).svc = s.svc := by
  repeat' constructor

@[simp] theorem State.setPass_fields (s : State) (p : Nat) (x : Pass) :
    (s.setPass p x).passes = Tab.put s.passes p x ∧ (s.setPass p x).powered = s.powered ∧
    (s.setPass p x).running = s.running ∧ (s.setPass p x).lockedOff = s.lockedOff ∧
    (s.setPass p x).starting = s.starting ∧ (s.setPass p x).minimal = s.minimal ∧
    (s.setPass p x).boot = s.boot ∧ (s.setPass p x).imageA = s.imageA ∧ (s.setPass p x).imageB = s.imageB ∧
    (s.setPass p x).image = s.image ∧ (s.setPass p x).fuses = s.fuses ∧ (s.setPass p x).lead = s.lead ∧
    (s.setPass p x).topoGen = s.topoGen ∧ (s.setPass p x).topoTime = s.topoTime ∧
    (s.setPass p x).fields = s.fields ∧ (s.setPass p x).ports = s.ports ∧ (s.setPass p x).mgmt = s.mgmt ∧
    (s.setPass p x).time = s.time ∧ (s.setPass p x).cycle = s.cycle ∧ (s.setPass p x).clock = s.clock ∧
    (s.setPass p x).ptpLocked = s.ptpLocked ∧ (s.setPass p x).slew = s.slew ∧ (s.setPass p x).parts = s.parts ∧
    (s.setPass p x).revokes = s.revokes ∧ (s.setPass p x).vfs = s.vfs ∧ (s.setPass p x).ctxs = s.ctxs ∧
    (s.setPass p x).asids = s.asids ∧ (s.setPass p x).cores = s.cores ∧ (s.setPass p x).blocks = s.blocks ∧
    (s.setPass p x).acts = s.acts ∧ (s.setPass p x).launches = s.launches ∧ (s.setPass p x).qps = s.qps ∧
    (s.setPass p x).mem = s.mem ∧ (s.setPass p x).wgen = s.wgen ∧ (s.setPass p x).shadows = s.shadows ∧
    (s.setPass p x).held = s.held ∧ (s.setPass p x).tlb = s.tlb ∧ (s.setPass p x).frames = s.frames ∧
    (s.setPass p x).granules = s.granules ∧ (s.setPass p x).leaves = s.leaves ∧ (s.setPass p x).lost = s.lost ∧
    (s.setPass p x).fab = s.fab ∧ (s.setPass p x).events = s.events ∧ (s.setPass p x).out = s.out ∧
    (s.setPass p x).served = s.served ∧ (s.setPass p x).inputs = s.inputs ∧ (s.setPass p x).pick = s.pick ∧
    (s.setPass p x).lag = s.lag ∧ (s.setPass p x).draws = s.draws ∧ (s.setPass p x).svc = s.svc := by
  repeat' constructor

@[simp] theorem State.setPort_fields (s : State) (p : Nat) (x : Port) :
    (s.setPort p x).ports = Tab.put s.ports p x ∧ (s.setPort p x).powered = s.powered ∧
    (s.setPort p x).running = s.running ∧ (s.setPort p x).lockedOff = s.lockedOff ∧
    (s.setPort p x).starting = s.starting ∧ (s.setPort p x).minimal = s.minimal ∧
    (s.setPort p x).boot = s.boot ∧ (s.setPort p x).imageA = s.imageA ∧ (s.setPort p x).imageB = s.imageB ∧
    (s.setPort p x).image = s.image ∧ (s.setPort p x).fuses = s.fuses ∧ (s.setPort p x).lead = s.lead ∧
    (s.setPort p x).topoGen = s.topoGen ∧ (s.setPort p x).topoTime = s.topoTime ∧
    (s.setPort p x).fields = s.fields ∧ (s.setPort p x).mgmt = s.mgmt ∧ (s.setPort p x).time = s.time ∧
    (s.setPort p x).cycle = s.cycle ∧ (s.setPort p x).clock = s.clock ∧
    (s.setPort p x).ptpLocked = s.ptpLocked ∧ (s.setPort p x).slew = s.slew ∧ (s.setPort p x).parts = s.parts ∧
    (s.setPort p x).revokes = s.revokes ∧ (s.setPort p x).vfs = s.vfs ∧ (s.setPort p x).ctxs = s.ctxs ∧
    (s.setPort p x).asids = s.asids ∧ (s.setPort p x).cores = s.cores ∧ (s.setPort p x).blocks = s.blocks ∧
    (s.setPort p x).acts = s.acts ∧ (s.setPort p x).launches = s.launches ∧ (s.setPort p x).qps = s.qps ∧
    (s.setPort p x).passes = s.passes ∧ (s.setPort p x).mem = s.mem ∧ (s.setPort p x).wgen = s.wgen ∧
    (s.setPort p x).shadows = s.shadows ∧ (s.setPort p x).held = s.held ∧ (s.setPort p x).tlb = s.tlb ∧
    (s.setPort p x).frames = s.frames ∧ (s.setPort p x).granules = s.granules ∧
    (s.setPort p x).leaves = s.leaves ∧ (s.setPort p x).lost = s.lost ∧ (s.setPort p x).fab = s.fab ∧
    (s.setPort p x).events = s.events ∧ (s.setPort p x).out = s.out ∧ (s.setPort p x).served = s.served ∧
    (s.setPort p x).inputs = s.inputs ∧ (s.setPort p x).pick = s.pick ∧ (s.setPort p x).lag = s.lag ∧
    (s.setPort p x).draws = s.draws ∧ (s.setPort p x).svc = s.svc := by
  repeat' constructor

@[simp] theorem State.setAsid_fields (s : State) (a : Nat) (x : AsidEnt) :
    (s.setAsid a x).asids = Tab.put s.asids a x ∧ (s.setAsid a x).powered = s.powered ∧
    (s.setAsid a x).running = s.running ∧ (s.setAsid a x).lockedOff = s.lockedOff ∧
    (s.setAsid a x).starting = s.starting ∧ (s.setAsid a x).minimal = s.minimal ∧
    (s.setAsid a x).boot = s.boot ∧ (s.setAsid a x).imageA = s.imageA ∧ (s.setAsid a x).imageB = s.imageB ∧
    (s.setAsid a x).image = s.image ∧ (s.setAsid a x).fuses = s.fuses ∧ (s.setAsid a x).lead = s.lead ∧
    (s.setAsid a x).topoGen = s.topoGen ∧ (s.setAsid a x).topoTime = s.topoTime ∧
    (s.setAsid a x).fields = s.fields ∧ (s.setAsid a x).ports = s.ports ∧ (s.setAsid a x).mgmt = s.mgmt ∧
    (s.setAsid a x).time = s.time ∧ (s.setAsid a x).cycle = s.cycle ∧ (s.setAsid a x).clock = s.clock ∧
    (s.setAsid a x).ptpLocked = s.ptpLocked ∧ (s.setAsid a x).slew = s.slew ∧ (s.setAsid a x).parts = s.parts ∧
    (s.setAsid a x).revokes = s.revokes ∧ (s.setAsid a x).vfs = s.vfs ∧ (s.setAsid a x).ctxs = s.ctxs ∧
    (s.setAsid a x).cores = s.cores ∧ (s.setAsid a x).blocks = s.blocks ∧ (s.setAsid a x).acts = s.acts ∧
    (s.setAsid a x).launches = s.launches ∧ (s.setAsid a x).qps = s.qps ∧ (s.setAsid a x).passes = s.passes ∧
    (s.setAsid a x).mem = s.mem ∧ (s.setAsid a x).wgen = s.wgen ∧ (s.setAsid a x).shadows = s.shadows ∧
    (s.setAsid a x).held = s.held ∧ (s.setAsid a x).tlb = s.tlb ∧ (s.setAsid a x).frames = s.frames ∧
    (s.setAsid a x).granules = s.granules ∧ (s.setAsid a x).leaves = s.leaves ∧ (s.setAsid a x).lost = s.lost ∧
    (s.setAsid a x).fab = s.fab ∧ (s.setAsid a x).events = s.events ∧ (s.setAsid a x).out = s.out ∧
    (s.setAsid a x).served = s.served ∧ (s.setAsid a x).inputs = s.inputs ∧ (s.setAsid a x).pick = s.pick ∧
    (s.setAsid a x).lag = s.lag ∧ (s.setAsid a x).draws = s.draws ∧ (s.setAsid a x).svc = s.svc := by
  repeat' constructor

@[simp] theorem State.store_fields (s : State) (pa : Nat) (bs : List Byte) :
    (s.store pa bs).mem = Tab.setRun 0 s.mem pa bs ∧ (s.store pa bs).powered = s.powered ∧
    (s.store pa bs).running = s.running ∧ (s.store pa bs).lockedOff = s.lockedOff ∧
    (s.store pa bs).starting = s.starting ∧ (s.store pa bs).minimal = s.minimal ∧
    (s.store pa bs).boot = s.boot ∧ (s.store pa bs).imageA = s.imageA ∧ (s.store pa bs).imageB = s.imageB ∧
    (s.store pa bs).image = s.image ∧ (s.store pa bs).fuses = s.fuses ∧ (s.store pa bs).lead = s.lead ∧
    (s.store pa bs).topoGen = s.topoGen ∧ (s.store pa bs).topoTime = s.topoTime ∧
    (s.store pa bs).fields = s.fields ∧ (s.store pa bs).ports = s.ports ∧ (s.store pa bs).mgmt = s.mgmt ∧
    (s.store pa bs).time = s.time ∧ (s.store pa bs).cycle = s.cycle ∧ (s.store pa bs).clock = s.clock ∧
    (s.store pa bs).ptpLocked = s.ptpLocked ∧ (s.store pa bs).slew = s.slew ∧ (s.store pa bs).parts = s.parts ∧
    (s.store pa bs).revokes = s.revokes ∧ (s.store pa bs).vfs = s.vfs ∧ (s.store pa bs).ctxs = s.ctxs ∧
    (s.store pa bs).asids = s.asids ∧ (s.store pa bs).cores = s.cores ∧ (s.store pa bs).blocks = s.blocks ∧
    (s.store pa bs).acts = s.acts ∧ (s.store pa bs).launches = s.launches ∧ (s.store pa bs).qps = s.qps ∧
    (s.store pa bs).passes = s.passes ∧ (s.store pa bs).wgen = s.wgen ∧ (s.store pa bs).shadows = s.shadows ∧
    (s.store pa bs).held = s.held ∧ (s.store pa bs).tlb = s.tlb ∧ (s.store pa bs).frames = s.frames ∧
    (s.store pa bs).granules = s.granules ∧ (s.store pa bs).leaves = s.leaves ∧ (s.store pa bs).lost = s.lost ∧
    (s.store pa bs).fab = s.fab ∧ (s.store pa bs).events = s.events ∧ (s.store pa bs).out = s.out ∧
    (s.store pa bs).served = s.served ∧ (s.store pa bs).inputs = s.inputs ∧ (s.store pa bs).pick = s.pick ∧
    (s.store pa bs).lag = s.lag ∧ (s.store pa bs).draws = s.draws ∧ (s.store pa bs).svc = s.svc := by
  repeat' constructor

/-! ### Parts by number after an update -/

@[simp] theorem State.blk_setBlk_self (s : State) (b : Nat) (x : Block) : (s.setBlk b x).blk b = x := Tab.get_put_self _ _ _ _

theorem State.blk_setBlk_ne (s : State) {j : Nat} (b : Nat) (x : Block) (h : b ≠ j) : (s.setBlk b x).blk j = s.blk j :=
  Tab.get_put_ne _ _ _ h

@[simp] theorem State.actv_setAct_self (s : State) (a : Nat) (x : Act) : (s.setAct a x).actv a = x := Tab.get_put_self _ _ _ _

theorem State.actv_setAct_ne (s : State) {j : Nat} (a : Nat) (x : Act) (h : a ≠ j) : (s.setAct a x).actv j = s.actv j :=
  Tab.get_put_ne _ _ _ h

@[simp] theorem State.core_setCore_self (s : State) (c : Nat) (x : Core) : (s.setCore c x).core c = x := Tab.get_put_self _ _ _ _

theorem State.core_setCore_ne (s : State) {j : Nat} (c : Nat) (x : Core) (h : c ≠ j) : (s.setCore c x).core j = s.core j :=
  Tab.get_put_ne _ _ _ h

@[simp] theorem State.ctx_setCtx_self (s : State) (c : Nat) (x : Ctx) : (s.setCtx c x).ctx c = x := Tab.get_put_self _ _ _ _

theorem State.ctx_setCtx_ne (s : State) {j : Nat} (c : Nat) (x : Ctx) (h : c ≠ j) : (s.setCtx c x).ctx j = s.ctx j :=
  Tab.get_put_ne _ _ _ h

@[simp] theorem State.vf_setVf_self (s : State) (v : Nat) (x : Vf) : (s.setVf v x).vf v = x := Tab.get_put_self _ _ _ _

theorem State.vf_setVf_ne (s : State) {j : Nat} (v : Nat) (x : Vf) (h : v ≠ j) : (s.setVf v x).vf j = s.vf j :=
  Tab.get_put_ne _ _ _ h

@[simp] theorem State.part_setPart_self (s : State) (p : Nat) (x : Partition) : (s.setPart p x).part p = x := Tab.get_put_self _ _ _ _

theorem State.part_setPart_ne (s : State) {j : Nat} (p : Nat) (x : Partition) (h : p ≠ j) : (s.setPart p x).part j = s.part j :=
  Tab.get_put_ne _ _ _ h

@[simp] theorem State.launch_setLaunch_self (s : State) (l : Nat) (x : Launch) : (s.setLaunch l x).launch l = x := Tab.get_put_self _ _ _ _

theorem State.launch_setLaunch_ne (s : State) {j : Nat} (l : Nat) (x : Launch) (h : l ≠ j) : (s.setLaunch l x).launch j = s.launch j :=
  Tab.get_put_ne _ _ _ h

@[simp] theorem State.field_setField_self (s : State) (f : Nat) (x : Field) : (s.setField f x).field f = x := Tab.get_put_self _ _ _ _

theorem State.field_setField_ne (s : State) {j : Nat} (f : Nat) (x : Field) (h : f ≠ j) : (s.setField f x).field j = s.field j :=
  Tab.get_put_ne _ _ _ h

@[simp] theorem State.qp_setQp_self (s : State) (q : Nat) (x : Qp) : (s.setQp q x).qp q = x := Tab.get_put_self _ _ _ _

theorem State.qp_setQp_ne (s : State) {j : Nat} (q : Nat) (x : Qp) (h : q ≠ j) : (s.setQp q x).qp j = s.qp j :=
  Tab.get_put_ne _ _ _ h

@[simp] theorem State.pass_setPass_self (s : State) (p : Nat) (x : Pass) : (s.setPass p x).pass p = x := Tab.get_put_self _ _ _ _

theorem State.pass_setPass_ne (s : State) {j : Nat} (p : Nat) (x : Pass) (h : p ≠ j) : (s.setPass p x).pass j = s.pass j :=
  Tab.get_put_ne _ _ _ h

@[simp] theorem State.port_setPort_self (s : State) (p : Nat) (x : Port) : (s.setPort p x).port p = x := Tab.get_put_self _ _ _ _

theorem State.port_setPort_ne (s : State) {j : Nat} (p : Nat) (x : Port) (h : p ≠ j) : (s.setPort p x).port j = s.port j :=
  Tab.get_put_ne _ _ _ h

@[simp] theorem State.asid_setAsid_self (s : State) (a : Nat) (x : AsidEnt) : (s.setAsid a x).asid a = x := Tab.get_put_self _ _ _ _

theorem State.asid_setAsid_ne (s : State) {j : Nat} (a : Nat) (x : AsidEnt) (h : a ≠ j) : (s.setAsid a x).asid j = s.asid j :=
  Tab.get_put_ne _ _ _ h

@[simp] theorem State.setBlk_parts (s : State) (b : Nat) (x : Block) :
    (∀ j, (s.setBlk b x).actv j = s.actv j) ∧ (∀ j, (s.setBlk b x).core j = s.core j) ∧
    (∀ j, (s.setBlk b x).ctx j = s.ctx j) ∧ (∀ j, (s.setBlk b x).vf j = s.vf j) ∧
    (∀ j, (s.setBlk b x).part j = s.part j) ∧ (∀ j, (s.setBlk b x).launch j = s.launch j) ∧
    (∀ j, (s.setBlk b x).field j = s.field j) ∧ (∀ j, (s.setBlk b x).qp j = s.qp j) ∧
    (∀ j, (s.setBlk b x).pass j = s.pass j) ∧ (∀ j, (s.setBlk b x).port j = s.port j) ∧
    (∀ j, (s.setBlk b x).asid j = s.asid j) ∧ (∀ i j, (s.setBlk b x).win i j = s.win i j) ∧
    (∀ i j, (s.setBlk b x).cslot i j = s.cslot i j) := by
  refine ⟨?_, ?_, ?_, ?_, ?_, ?_, ?_, ?_, ?_, ?_, ?_, ?_, ?_⟩ <;> intros <;> rfl

@[simp] theorem State.setAct_parts (s : State) (a : Nat) (x : Act) :
    (∀ j, (s.setAct a x).blk j = s.blk j) ∧ (∀ j, (s.setAct a x).core j = s.core j) ∧
    (∀ j, (s.setAct a x).ctx j = s.ctx j) ∧ (∀ j, (s.setAct a x).vf j = s.vf j) ∧
    (∀ j, (s.setAct a x).part j = s.part j) ∧ (∀ j, (s.setAct a x).launch j = s.launch j) ∧
    (∀ j, (s.setAct a x).field j = s.field j) ∧ (∀ j, (s.setAct a x).qp j = s.qp j) ∧
    (∀ j, (s.setAct a x).pass j = s.pass j) ∧ (∀ j, (s.setAct a x).port j = s.port j) ∧
    (∀ j, (s.setAct a x).asid j = s.asid j) ∧ (∀ i j, (s.setAct a x).win i j = s.win i j) ∧
    (∀ i j, (s.setAct a x).cslot i j = s.cslot i j) := by
  refine ⟨?_, ?_, ?_, ?_, ?_, ?_, ?_, ?_, ?_, ?_, ?_, ?_, ?_⟩ <;> intros <;> rfl

@[simp] theorem State.setCore_parts (s : State) (c : Nat) (x : Core) :
    (∀ j, (s.setCore c x).blk j = s.blk j) ∧ (∀ j, (s.setCore c x).actv j = s.actv j) ∧
    (∀ j, (s.setCore c x).ctx j = s.ctx j) ∧ (∀ j, (s.setCore c x).vf j = s.vf j) ∧
    (∀ j, (s.setCore c x).part j = s.part j) ∧ (∀ j, (s.setCore c x).launch j = s.launch j) ∧
    (∀ j, (s.setCore c x).field j = s.field j) ∧ (∀ j, (s.setCore c x).qp j = s.qp j) ∧
    (∀ j, (s.setCore c x).pass j = s.pass j) ∧ (∀ j, (s.setCore c x).port j = s.port j) ∧
    (∀ j, (s.setCore c x).asid j = s.asid j) ∧ (∀ i j, (s.setCore c x).win i j = s.win i j) := by
  refine ⟨?_, ?_, ?_, ?_, ?_, ?_, ?_, ?_, ?_, ?_, ?_, ?_⟩ <;> intros <;> rfl

@[simp] theorem State.setCtx_parts (s : State) (c : Nat) (x : Ctx) :
    (∀ j, (s.setCtx c x).blk j = s.blk j) ∧ (∀ j, (s.setCtx c x).actv j = s.actv j) ∧
    (∀ j, (s.setCtx c x).core j = s.core j) ∧ (∀ j, (s.setCtx c x).vf j = s.vf j) ∧
    (∀ j, (s.setCtx c x).part j = s.part j) ∧ (∀ j, (s.setCtx c x).launch j = s.launch j) ∧
    (∀ j, (s.setCtx c x).field j = s.field j) ∧ (∀ j, (s.setCtx c x).qp j = s.qp j) ∧
    (∀ j, (s.setCtx c x).pass j = s.pass j) ∧ (∀ j, (s.setCtx c x).port j = s.port j) ∧
    (∀ j, (s.setCtx c x).asid j = s.asid j) ∧ (∀ i j, (s.setCtx c x).win i j = s.win i j) ∧
    (∀ i j, (s.setCtx c x).cslot i j = s.cslot i j) := by
  refine ⟨?_, ?_, ?_, ?_, ?_, ?_, ?_, ?_, ?_, ?_, ?_, ?_, ?_⟩ <;> intros <;> rfl

@[simp] theorem State.setVf_parts (s : State) (v : Nat) (x : Vf) :
    (∀ j, (s.setVf v x).blk j = s.blk j) ∧ (∀ j, (s.setVf v x).actv j = s.actv j) ∧
    (∀ j, (s.setVf v x).core j = s.core j) ∧ (∀ j, (s.setVf v x).ctx j = s.ctx j) ∧
    (∀ j, (s.setVf v x).part j = s.part j) ∧ (∀ j, (s.setVf v x).launch j = s.launch j) ∧
    (∀ j, (s.setVf v x).field j = s.field j) ∧ (∀ j, (s.setVf v x).qp j = s.qp j) ∧
    (∀ j, (s.setVf v x).pass j = s.pass j) ∧ (∀ j, (s.setVf v x).port j = s.port j) ∧
    (∀ j, (s.setVf v x).asid j = s.asid j) ∧ (∀ i j, (s.setVf v x).cslot i j = s.cslot i j) := by
  refine ⟨?_, ?_, ?_, ?_, ?_, ?_, ?_, ?_, ?_, ?_, ?_, ?_⟩ <;> intros <;> rfl

@[simp] theorem State.setPart_parts (s : State) (p : Nat) (x : Partition) :
    (∀ j, (s.setPart p x).blk j = s.blk j) ∧ (∀ j, (s.setPart p x).actv j = s.actv j) ∧
    (∀ j, (s.setPart p x).core j = s.core j) ∧ (∀ j, (s.setPart p x).ctx j = s.ctx j) ∧
    (∀ j, (s.setPart p x).vf j = s.vf j) ∧ (∀ j, (s.setPart p x).launch j = s.launch j) ∧
    (∀ j, (s.setPart p x).field j = s.field j) ∧ (∀ j, (s.setPart p x).qp j = s.qp j) ∧
    (∀ j, (s.setPart p x).pass j = s.pass j) ∧ (∀ j, (s.setPart p x).port j = s.port j) ∧
    (∀ j, (s.setPart p x).asid j = s.asid j) ∧ (∀ i j, (s.setPart p x).win i j = s.win i j) ∧
    (∀ i j, (s.setPart p x).cslot i j = s.cslot i j) := by
  refine ⟨?_, ?_, ?_, ?_, ?_, ?_, ?_, ?_, ?_, ?_, ?_, ?_, ?_⟩ <;> intros <;> rfl

@[simp] theorem State.setLaunch_parts (s : State) (l : Nat) (x : Launch) :
    (∀ j, (s.setLaunch l x).blk j = s.blk j) ∧ (∀ j, (s.setLaunch l x).actv j = s.actv j) ∧
    (∀ j, (s.setLaunch l x).core j = s.core j) ∧ (∀ j, (s.setLaunch l x).ctx j = s.ctx j) ∧
    (∀ j, (s.setLaunch l x).vf j = s.vf j) ∧ (∀ j, (s.setLaunch l x).part j = s.part j) ∧
    (∀ j, (s.setLaunch l x).field j = s.field j) ∧ (∀ j, (s.setLaunch l x).qp j = s.qp j) ∧
    (∀ j, (s.setLaunch l x).pass j = s.pass j) ∧ (∀ j, (s.setLaunch l x).port j = s.port j) ∧
    (∀ j, (s.setLaunch l x).asid j = s.asid j) ∧ (∀ i j, (s.setLaunch l x).win i j = s.win i j) ∧
    (∀ i j, (s.setLaunch l x).cslot i j = s.cslot i j) := by
  refine ⟨?_, ?_, ?_, ?_, ?_, ?_, ?_, ?_, ?_, ?_, ?_, ?_, ?_⟩ <;> intros <;> rfl

@[simp] theorem State.setField_parts (s : State) (f : Nat) (x : Field) :
    (∀ j, (s.setField f x).blk j = s.blk j) ∧ (∀ j, (s.setField f x).actv j = s.actv j) ∧
    (∀ j, (s.setField f x).core j = s.core j) ∧ (∀ j, (s.setField f x).ctx j = s.ctx j) ∧
    (∀ j, (s.setField f x).vf j = s.vf j) ∧ (∀ j, (s.setField f x).part j = s.part j) ∧
    (∀ j, (s.setField f x).launch j = s.launch j) ∧ (∀ j, (s.setField f x).qp j = s.qp j) ∧
    (∀ j, (s.setField f x).pass j = s.pass j) ∧ (∀ j, (s.setField f x).port j = s.port j) ∧
    (∀ j, (s.setField f x).asid j = s.asid j) ∧ (∀ i j, (s.setField f x).win i j = s.win i j) ∧
    (∀ i j, (s.setField f x).cslot i j = s.cslot i j) := by
  refine ⟨?_, ?_, ?_, ?_, ?_, ?_, ?_, ?_, ?_, ?_, ?_, ?_, ?_⟩ <;> intros <;> rfl

@[simp] theorem State.setQp_parts (s : State) (q : Nat) (x : Qp) :
    (∀ j, (s.setQp q x).blk j = s.blk j) ∧ (∀ j, (s.setQp q x).actv j = s.actv j) ∧
    (∀ j, (s.setQp q x).core j = s.core j) ∧ (∀ j, (s.setQp q x).ctx j = s.ctx j) ∧
    (∀ j, (s.setQp q x).vf j = s.vf j) ∧ (∀ j, (s.setQp q x).part j = s.part j) ∧
    (∀ j, (s.setQp q x).launch j = s.launch j) ∧ (∀ j, (s.setQp q x).field j = s.field j) ∧
    (∀ j, (s.setQp q x).pass j = s.pass j) ∧ (∀ j, (s.setQp q x).port j = s.port j) ∧
    (∀ j, (s.setQp q x).asid j = s.asid j) ∧ (∀ i j, (s.setQp q x).win i j = s.win i j) ∧
    (∀ i j, (s.setQp q x).cslot i j = s.cslot i j) := by
  refine ⟨?_, ?_, ?_, ?_, ?_, ?_, ?_, ?_, ?_, ?_, ?_, ?_, ?_⟩ <;> intros <;> rfl

@[simp] theorem State.setPass_parts (s : State) (p : Nat) (x : Pass) :
    (∀ j, (s.setPass p x).blk j = s.blk j) ∧ (∀ j, (s.setPass p x).actv j = s.actv j) ∧
    (∀ j, (s.setPass p x).core j = s.core j) ∧ (∀ j, (s.setPass p x).ctx j = s.ctx j) ∧
    (∀ j, (s.setPass p x).vf j = s.vf j) ∧ (∀ j, (s.setPass p x).part j = s.part j) ∧
    (∀ j, (s.setPass p x).launch j = s.launch j) ∧ (∀ j, (s.setPass p x).field j = s.field j) ∧
    (∀ j, (s.setPass p x).qp j = s.qp j) ∧ (∀ j, (s.setPass p x).port j = s.port j) ∧
    (∀ j, (s.setPass p x).asid j = s.asid j) ∧ (∀ i j, (s.setPass p x).win i j = s.win i j) ∧
    (∀ i j, (s.setPass p x).cslot i j = s.cslot i j) := by
  refine ⟨?_, ?_, ?_, ?_, ?_, ?_, ?_, ?_, ?_, ?_, ?_, ?_, ?_⟩ <;> intros <;> rfl

@[simp] theorem State.setPort_parts (s : State) (p : Nat) (x : Port) :
    (∀ j, (s.setPort p x).blk j = s.blk j) ∧ (∀ j, (s.setPort p x).actv j = s.actv j) ∧
    (∀ j, (s.setPort p x).core j = s.core j) ∧ (∀ j, (s.setPort p x).ctx j = s.ctx j) ∧
    (∀ j, (s.setPort p x).vf j = s.vf j) ∧ (∀ j, (s.setPort p x).part j = s.part j) ∧
    (∀ j, (s.setPort p x).launch j = s.launch j) ∧ (∀ j, (s.setPort p x).field j = s.field j) ∧
    (∀ j, (s.setPort p x).qp j = s.qp j) ∧ (∀ j, (s.setPort p x).pass j = s.pass j) ∧
    (∀ j, (s.setPort p x).asid j = s.asid j) ∧ (∀ i j, (s.setPort p x).win i j = s.win i j) ∧
    (∀ i j, (s.setPort p x).cslot i j = s.cslot i j) := by
  refine ⟨?_, ?_, ?_, ?_, ?_, ?_, ?_, ?_, ?_, ?_, ?_, ?_, ?_⟩ <;> intros <;> rfl

@[simp] theorem State.setAsid_parts (s : State) (a : Nat) (x : AsidEnt) :
    (∀ j, (s.setAsid a x).blk j = s.blk j) ∧ (∀ j, (s.setAsid a x).actv j = s.actv j) ∧
    (∀ j, (s.setAsid a x).core j = s.core j) ∧ (∀ j, (s.setAsid a x).ctx j = s.ctx j) ∧
    (∀ j, (s.setAsid a x).vf j = s.vf j) ∧ (∀ j, (s.setAsid a x).part j = s.part j) ∧
    (∀ j, (s.setAsid a x).launch j = s.launch j) ∧ (∀ j, (s.setAsid a x).field j = s.field j) ∧
    (∀ j, (s.setAsid a x).qp j = s.qp j) ∧ (∀ j, (s.setAsid a x).pass j = s.pass j) ∧
    (∀ j, (s.setAsid a x).port j = s.port j) ∧ (∀ i j, (s.setAsid a x).win i j = s.win i j) ∧
    (∀ i j, (s.setAsid a x).cslot i j = s.cslot i j) := by
  refine ⟨?_, ?_, ?_, ?_, ?_, ?_, ?_, ?_, ?_, ?_, ?_, ?_, ?_⟩ <;> intros <;> rfl

@[simp] theorem State.store_parts (s : State) (pa : Nat) (bs : List Byte) :
    (∀ j, (s.store pa bs).blk j = s.blk j) ∧ (∀ j, (s.store pa bs).actv j = s.actv j) ∧
    (∀ j, (s.store pa bs).core j = s.core j) ∧ (∀ j, (s.store pa bs).ctx j = s.ctx j) ∧
    (∀ j, (s.store pa bs).vf j = s.vf j) ∧ (∀ j, (s.store pa bs).part j = s.part j) ∧
    (∀ j, (s.store pa bs).launch j = s.launch j) ∧ (∀ j, (s.store pa bs).field j = s.field j) ∧
    (∀ j, (s.store pa bs).qp j = s.qp j) ∧ (∀ j, (s.store pa bs).pass j = s.pass j) ∧
    (∀ j, (s.store pa bs).port j = s.port j) ∧ (∀ j, (s.store pa bs).asid j = s.asid j) ∧
    (∀ i j, (s.store pa bs).win i j = s.win i j) ∧ (∀ i j, (s.store pa bs).cslot i j = s.cslot i j) := by
  refine ⟨?_, ?_, ?_, ?_, ?_, ?_, ?_, ?_, ?_, ?_, ?_, ?_, ?_, ?_⟩ <;> intros <;> rfl

@[simp] theorem State.modBlk_eq (s : State) (b : Nat) (f : Block → Block) : s.modBlk b f = s.setBlk b (f (s.blk b)) := rfl
@[simp] theorem State.modAct_eq (s : State) (a : Nat) (f : Act → Act) : s.modAct a f = s.setAct a (f (s.actv a)) := rfl
@[simp] theorem State.modCore_eq (s : State) (c : Nat) (f : Core → Core) : s.modCore c f = s.setCore c (f (s.core c)) := rfl
@[simp] theorem State.modCtx_eq (s : State) (c : Nat) (f : Ctx → Ctx) : s.modCtx c f = s.setCtx c (f (s.ctx c)) := rfl
@[simp] theorem State.modVf_eq (s : State) (v : Nat) (f : Vf → Vf) : s.modVf v f = s.setVf v (f (s.vf v)) := rfl
@[simp] theorem State.modPart_eq (s : State) (p : Nat) (f : Partition → Partition) :
    s.modPart p f = s.setPart p (f (s.part p)) := rfl
@[simp] theorem State.modLaunch_eq (s : State) (l : Nat) (f : Launch → Launch) :
    s.modLaunch l f = s.setLaunch l (f (s.launch l)) := rfl
@[simp] theorem State.modField_eq (s : State) (f : Nat) (g : Field → Field) :
    s.modField f g = s.setField f (g (s.field f)) := rfl
@[simp] theorem State.modBody_eq (s : State) (b : Nat) (f : Body → Body) :
    s.modBody b f = s.setBlk b { s.blk b with body := f (s.blk b).body } := rfl
@[simp] theorem State.modWin_eq (s : State) (v w : Nat) (f : Win → Win) : s.modWin v w f = s.setWin v w (f (s.win v w)) := rfl
@[simp] theorem State.modSk_eq (s : State) (g : Grp) (k : Nat) (f : Skein → Skein) :
    s.modSk g k f = s.setSk g k (f (s.sk g k)) := rfl
@[simp] theorem State.modThr_eq (s : State) (c : Cx) (f : Thread → Thread) : s.modThr c f = s.setThr c (f (s.thr c)) := rfl

/-! ### Threads, skeins and uniform registers -/

@[simp] theorem State.setThr_fields (s : State) (c : Cx) (t : Thread) :
    (s.setThr c t).powered = s.powered ∧ (s.setThr c t).running = s.running ∧
    (s.setThr c t).lockedOff = s.lockedOff ∧ (s.setThr c t).starting = s.starting ∧
    (s.setThr c t).minimal = s.minimal ∧ (s.setThr c t).boot = s.boot ∧ (s.setThr c t).imageA = s.imageA ∧
    (s.setThr c t).imageB = s.imageB ∧ (s.setThr c t).image = s.image ∧ (s.setThr c t).fuses = s.fuses ∧
    (s.setThr c t).lead = s.lead ∧ (s.setThr c t).topoGen = s.topoGen ∧ (s.setThr c t).topoTime = s.topoTime ∧
    (s.setThr c t).fields = s.fields ∧ (s.setThr c t).ports = s.ports ∧ (s.setThr c t).mgmt = s.mgmt ∧
    (s.setThr c t).time = s.time ∧ (s.setThr c t).cycle = s.cycle ∧ (s.setThr c t).clock = s.clock ∧
    (s.setThr c t).ptpLocked = s.ptpLocked ∧ (s.setThr c t).slew = s.slew ∧ (s.setThr c t).parts = s.parts ∧
    (s.setThr c t).revokes = s.revokes ∧ (s.setThr c t).vfs = s.vfs ∧ (s.setThr c t).ctxs = s.ctxs ∧
    (s.setThr c t).asids = s.asids ∧ (s.setThr c t).cores = s.cores ∧ (s.setThr c t).launches = s.launches ∧
    (s.setThr c t).qps = s.qps ∧ (s.setThr c t).passes = s.passes ∧ (s.setThr c t).mem = s.mem ∧
    (s.setThr c t).wgen = s.wgen ∧ (s.setThr c t).shadows = s.shadows ∧ (s.setThr c t).held = s.held ∧
    (s.setThr c t).tlb = s.tlb ∧ (s.setThr c t).frames = s.frames ∧ (s.setThr c t).granules = s.granules ∧
    (s.setThr c t).leaves = s.leaves ∧ (s.setThr c t).lost = s.lost ∧ (s.setThr c t).fab = s.fab ∧
    (s.setThr c t).events = s.events ∧ (s.setThr c t).out = s.out ∧ (s.setThr c t).served = s.served ∧
    (s.setThr c t).inputs = s.inputs ∧ (s.setThr c t).pick = s.pick ∧ (s.setThr c t).lag = s.lag ∧
    (s.setThr c t).draws = s.draws ∧ (s.setThr c t).svc = s.svc ∧ (∀ j, (s.setThr c t).core j = s.core j) ∧
    (∀ j, (s.setThr c t).ctx j = s.ctx j) ∧ (∀ j, (s.setThr c t).vf j = s.vf j) ∧
    (∀ j, (s.setThr c t).part j = s.part j) ∧ (∀ j, (s.setThr c t).launch j = s.launch j) ∧
    (∀ j, (s.setThr c t).field j = s.field j) ∧ (∀ j, (s.setThr c t).qp j = s.qp j) ∧
    (∀ j, (s.setThr c t).pass j = s.pass j) ∧ (∀ j, (s.setThr c t).port j = s.port j) ∧
    (∀ j, (s.setThr c t).asid j = s.asid j) ∧ (∀ i j, (s.setThr c t).win i j = s.win i j) ∧
    (∀ i j, (s.setThr c t).cslot i j = s.cslot i j) := by
  obtain ⟨g, n⟩ := c; cases g <;> and_intros <;> intros <;> rfl

@[simp] theorem State.setSk_fields (s : State) (g : Grp) (k : Nat) (x : Skein) :
    (s.setSk g k x).powered = s.powered ∧ (s.setSk g k x).running = s.running ∧
    (s.setSk g k x).lockedOff = s.lockedOff ∧ (s.setSk g k x).starting = s.starting ∧
    (s.setSk g k x).minimal = s.minimal ∧ (s.setSk g k x).boot = s.boot ∧ (s.setSk g k x).imageA = s.imageA ∧
    (s.setSk g k x).imageB = s.imageB ∧ (s.setSk g k x).image = s.image ∧ (s.setSk g k x).fuses = s.fuses ∧
    (s.setSk g k x).lead = s.lead ∧ (s.setSk g k x).topoGen = s.topoGen ∧
    (s.setSk g k x).topoTime = s.topoTime ∧ (s.setSk g k x).fields = s.fields ∧
    (s.setSk g k x).ports = s.ports ∧ (s.setSk g k x).mgmt = s.mgmt ∧ (s.setSk g k x).time = s.time ∧
    (s.setSk g k x).cycle = s.cycle ∧ (s.setSk g k x).clock = s.clock ∧
    (s.setSk g k x).ptpLocked = s.ptpLocked ∧ (s.setSk g k x).slew = s.slew ∧ (s.setSk g k x).parts = s.parts ∧
    (s.setSk g k x).revokes = s.revokes ∧ (s.setSk g k x).vfs = s.vfs ∧ (s.setSk g k x).ctxs = s.ctxs ∧
    (s.setSk g k x).asids = s.asids ∧ (s.setSk g k x).cores = s.cores ∧ (s.setSk g k x).launches = s.launches ∧
    (s.setSk g k x).qps = s.qps ∧ (s.setSk g k x).passes = s.passes ∧ (s.setSk g k x).mem = s.mem ∧
    (s.setSk g k x).wgen = s.wgen ∧ (s.setSk g k x).shadows = s.shadows ∧ (s.setSk g k x).held = s.held ∧
    (s.setSk g k x).tlb = s.tlb ∧ (s.setSk g k x).frames = s.frames ∧ (s.setSk g k x).granules = s.granules ∧
    (s.setSk g k x).leaves = s.leaves ∧ (s.setSk g k x).lost = s.lost ∧ (s.setSk g k x).fab = s.fab ∧
    (s.setSk g k x).events = s.events ∧ (s.setSk g k x).out = s.out ∧ (s.setSk g k x).served = s.served ∧
    (s.setSk g k x).inputs = s.inputs ∧ (s.setSk g k x).pick = s.pick ∧ (s.setSk g k x).lag = s.lag ∧
    (s.setSk g k x).draws = s.draws ∧ (s.setSk g k x).svc = s.svc ∧ (∀ j, (s.setSk g k x).core j = s.core j) ∧
    (∀ j, (s.setSk g k x).ctx j = s.ctx j) ∧ (∀ j, (s.setSk g k x).vf j = s.vf j) ∧
    (∀ j, (s.setSk g k x).part j = s.part j) ∧ (∀ j, (s.setSk g k x).launch j = s.launch j) ∧
    (∀ j, (s.setSk g k x).field j = s.field j) ∧ (∀ j, (s.setSk g k x).qp j = s.qp j) ∧
    (∀ j, (s.setSk g k x).pass j = s.pass j) ∧ (∀ j, (s.setSk g k x).port j = s.port j) ∧
    (∀ j, (s.setSk g k x).asid j = s.asid j) ∧ (∀ i j, (s.setSk g k x).win i j = s.win i j) ∧
    (∀ i j, (s.setSk g k x).cslot i j = s.cslot i j) := by
  cases g <;> and_intros <;> intros <;> rfl

@[simp] theorem State.setSreg_fields (s : State) (g : Grp) (k n : Nat) (v : Word) :
    (s.setSreg g k n v).powered = s.powered ∧ (s.setSreg g k n v).running = s.running ∧
    (s.setSreg g k n v).lockedOff = s.lockedOff ∧ (s.setSreg g k n v).starting = s.starting ∧
    (s.setSreg g k n v).minimal = s.minimal ∧ (s.setSreg g k n v).boot = s.boot ∧
    (s.setSreg g k n v).imageA = s.imageA ∧ (s.setSreg g k n v).imageB = s.imageB ∧
    (s.setSreg g k n v).image = s.image ∧ (s.setSreg g k n v).fuses = s.fuses ∧
    (s.setSreg g k n v).lead = s.lead ∧ (s.setSreg g k n v).topoGen = s.topoGen ∧
    (s.setSreg g k n v).topoTime = s.topoTime ∧ (s.setSreg g k n v).fields = s.fields ∧
    (s.setSreg g k n v).ports = s.ports ∧ (s.setSreg g k n v).mgmt = s.mgmt ∧
    (s.setSreg g k n v).time = s.time ∧ (s.setSreg g k n v).cycle = s.cycle ∧
    (s.setSreg g k n v).clock = s.clock ∧ (s.setSreg g k n v).ptpLocked = s.ptpLocked ∧
    (s.setSreg g k n v).slew = s.slew ∧ (s.setSreg g k n v).parts = s.parts ∧
    (s.setSreg g k n v).revokes = s.revokes ∧ (s.setSreg g k n v).vfs = s.vfs ∧
    (s.setSreg g k n v).ctxs = s.ctxs ∧ (s.setSreg g k n v).asids = s.asids ∧
    (s.setSreg g k n v).cores = s.cores ∧ (s.setSreg g k n v).launches = s.launches ∧
    (s.setSreg g k n v).qps = s.qps ∧ (s.setSreg g k n v).passes = s.passes ∧ (s.setSreg g k n v).mem = s.mem ∧
    (s.setSreg g k n v).wgen = s.wgen ∧ (s.setSreg g k n v).shadows = s.shadows ∧
    (s.setSreg g k n v).held = s.held ∧ (s.setSreg g k n v).tlb = s.tlb ∧
    (s.setSreg g k n v).frames = s.frames ∧ (s.setSreg g k n v).granules = s.granules ∧
    (s.setSreg g k n v).leaves = s.leaves ∧ (s.setSreg g k n v).lost = s.lost ∧
    (s.setSreg g k n v).fab = s.fab ∧ (s.setSreg g k n v).events = s.events ∧ (s.setSreg g k n v).out = s.out ∧
    (s.setSreg g k n v).served = s.served ∧ (s.setSreg g k n v).inputs = s.inputs ∧
    (s.setSreg g k n v).pick = s.pick ∧ (s.setSreg g k n v).lag = s.lag ∧ (s.setSreg g k n v).draws = s.draws ∧
    (s.setSreg g k n v).svc = s.svc := by
  simp [State.setSreg]

@[simp] theorem State.setCslot_fields (s : State) (c i : Nat) (x : CSlot) :
    (s.setCslot c i x).powered = s.powered ∧ (s.setCslot c i x).running = s.running ∧
    (s.setCslot c i x).lockedOff = s.lockedOff ∧ (s.setCslot c i x).starting = s.starting ∧
    (s.setCslot c i x).minimal = s.minimal ∧ (s.setCslot c i x).boot = s.boot ∧
    (s.setCslot c i x).imageA = s.imageA ∧ (s.setCslot c i x).imageB = s.imageB ∧
    (s.setCslot c i x).image = s.image ∧ (s.setCslot c i x).fuses = s.fuses ∧
    (s.setCslot c i x).lead = s.lead ∧ (s.setCslot c i x).topoGen = s.topoGen ∧
    (s.setCslot c i x).topoTime = s.topoTime ∧ (s.setCslot c i x).fields = s.fields ∧
    (s.setCslot c i x).ports = s.ports ∧ (s.setCslot c i x).mgmt = s.mgmt ∧ (s.setCslot c i x).time = s.time ∧
    (s.setCslot c i x).cycle = s.cycle ∧ (s.setCslot c i x).clock = s.clock ∧
    (s.setCslot c i x).ptpLocked = s.ptpLocked ∧ (s.setCslot c i x).slew = s.slew ∧
    (s.setCslot c i x).parts = s.parts ∧ (s.setCslot c i x).revokes = s.revokes ∧
    (s.setCslot c i x).vfs = s.vfs ∧ (s.setCslot c i x).ctxs = s.ctxs ∧ (s.setCslot c i x).asids = s.asids ∧
    (s.setCslot c i x).blocks = s.blocks ∧ (s.setCslot c i x).acts = s.acts ∧
    (s.setCslot c i x).launches = s.launches ∧ (s.setCslot c i x).qps = s.qps ∧
    (s.setCslot c i x).passes = s.passes ∧ (s.setCslot c i x).mem = s.mem ∧ (s.setCslot c i x).wgen = s.wgen ∧
    (s.setCslot c i x).shadows = s.shadows ∧ (s.setCslot c i x).held = s.held ∧
    (s.setCslot c i x).tlb = s.tlb ∧ (s.setCslot c i x).frames = s.frames ∧
    (s.setCslot c i x).granules = s.granules ∧ (s.setCslot c i x).leaves = s.leaves ∧
    (s.setCslot c i x).lost = s.lost ∧ (s.setCslot c i x).fab = s.fab ∧ (s.setCslot c i x).events = s.events ∧
    (s.setCslot c i x).out = s.out ∧ (s.setCslot c i x).served = s.served ∧
    (s.setCslot c i x).inputs = s.inputs ∧ (s.setCslot c i x).pick = s.pick ∧ (s.setCslot c i x).lag = s.lag ∧
    (s.setCslot c i x).draws = s.draws ∧ (s.setCslot c i x).svc = s.svc := by
  repeat' constructor

@[simp] theorem State.setWin_fields (s : State) (v w : Nat) (x : Win) :
    (s.setWin v w x).powered = s.powered ∧ (s.setWin v w x).running = s.running ∧
    (s.setWin v w x).lockedOff = s.lockedOff ∧ (s.setWin v w x).starting = s.starting ∧
    (s.setWin v w x).minimal = s.minimal ∧ (s.setWin v w x).boot = s.boot ∧
    (s.setWin v w x).imageA = s.imageA ∧ (s.setWin v w x).imageB = s.imageB ∧
    (s.setWin v w x).image = s.image ∧ (s.setWin v w x).fuses = s.fuses ∧ (s.setWin v w x).lead = s.lead ∧
    (s.setWin v w x).topoGen = s.topoGen ∧ (s.setWin v w x).topoTime = s.topoTime ∧
    (s.setWin v w x).fields = s.fields ∧ (s.setWin v w x).ports = s.ports ∧ (s.setWin v w x).mgmt = s.mgmt ∧
    (s.setWin v w x).time = s.time ∧ (s.setWin v w x).cycle = s.cycle ∧ (s.setWin v w x).clock = s.clock ∧
    (s.setWin v w x).ptpLocked = s.ptpLocked ∧ (s.setWin v w x).slew = s.slew ∧
    (s.setWin v w x).parts = s.parts ∧ (s.setWin v w x).revokes = s.revokes ∧ (s.setWin v w x).ctxs = s.ctxs ∧
    (s.setWin v w x).asids = s.asids ∧ (s.setWin v w x).cores = s.cores ∧ (s.setWin v w x).blocks = s.blocks ∧
    (s.setWin v w x).acts = s.acts ∧ (s.setWin v w x).launches = s.launches ∧ (s.setWin v w x).qps = s.qps ∧
    (s.setWin v w x).passes = s.passes ∧ (s.setWin v w x).mem = s.mem ∧ (s.setWin v w x).wgen = s.wgen ∧
    (s.setWin v w x).shadows = s.shadows ∧ (s.setWin v w x).held = s.held ∧ (s.setWin v w x).tlb = s.tlb ∧
    (s.setWin v w x).frames = s.frames ∧ (s.setWin v w x).granules = s.granules ∧
    (s.setWin v w x).leaves = s.leaves ∧ (s.setWin v w x).lost = s.lost ∧ (s.setWin v w x).fab = s.fab ∧
    (s.setWin v w x).events = s.events ∧ (s.setWin v w x).out = s.out ∧ (s.setWin v w x).served = s.served ∧
    (s.setWin v w x).inputs = s.inputs ∧ (s.setWin v w x).pick = s.pick ∧ (s.setWin v w x).lag = s.lag ∧
    (s.setWin v w x).draws = s.draws ∧ (s.setWin v w x).svc = s.svc := by
  repeat' constructor

theorem Tab.put_put {α : Type} (m : Tab α) (k : Nat) (x y : α) : Tab.put (Tab.put m k x) k y = Tab.put m k y := by
  unfold Tab.put
  induction m with
  | nil => simp [Tab.insert]
  | cons e m ih =>
    obtain ⟨j, z⟩ := e
    simp only [Tab.insert]
    split
    · simp [Tab.insert]
    · split
      · simp [Tab.insert]
      · simp [Tab.insert, *]

/-- A later write of a thread replaces an earlier one. -/
theorem State.setThr_setThr (s : State) (c : Cx) (t u : Thread) (h : c.grp.isSlice = false) :
    (s.setThr c t).setThr c u = s.setThr c u := by
  obtain ⟨g, n⟩ := c
  cases g with
  | slice => simp [Grp.isSlice] at h
  | blk b => simp [State.setThr, State.setBlk, State.blk, Tab.put_put]
  | act a => simp [State.setThr, State.setAct, State.actv, Tab.put_put]

theorem State.thr_setThr_self (s : State) (c : Cx) (t : Thread) (h : c.grp.isSlice = false) : (s.setThr c t).thr c = t := by
  obtain ⟨g, n⟩ := c
  cases g with
  | slice => simp [Grp.isSlice] at h
  | blk b => simp [State.setThr, State.thr]
  | act a => simp [State.setThr, State.thr]

theorem State.thr_setThr_ne (s : State) (c c' : Cx) (t : Thread) (h : c.grp.isSlice = false) (hc : c' ≠ c) :
    (s.setThr c t).thr c' = s.thr c' := by
  obtain ⟨g, n⟩ := c
  obtain ⟨g', n'⟩ := c'
  cases g with
  | slice => simp [Grp.isSlice] at h
  | blk b =>
    cases g' with
    | blk b' =>
      by_cases hb : b = b'
      · subst hb
        have : n ≠ n' := fun e => hc (by rw [e])
        simp [State.setThr, State.thr, Tab.get_put_ne _ _ _ this]
      · simp [State.setThr, State.thr, State.blk_setBlk_ne _ _ _ hb]
    | act a => simp [State.setThr, State.thr]
    | slice b' k =>
      by_cases hb : b = b'
      · subst hb; simp [State.setThr, State.thr]
      · simp [State.setThr, State.thr, State.blk_setBlk_ne _ _ _ hb]
  | act a =>
    cases g' with
    | blk b' => simp [State.setThr, State.thr]
    | act a' =>
      by_cases ha : a = a'
      · subst ha
        have : n ≠ n' := fun e => hc (by rw [e])
        simp [State.setThr, State.thr, Tab.get_put_ne _ _ _ this]
      · simp [State.setThr, State.thr, State.actv_setAct_ne _ _ _ ha]
    | slice b' k => simp [State.setThr, State.thr]

/-- A thread's own state is no part of its skein. -/
theorem State.sk_setThr (s : State) (c : Cx) (t : Thread) (h : c.grp.isSlice = false) (g : Grp) (k : Nat) :
    (s.setThr c t).sk g k = s.sk g k := by
  obtain ⟨g', n⟩ := c
  cases g' with
  | slice => simp [Grp.isSlice] at h
  | blk b =>
    cases g with
    | blk b' =>
      by_cases hb : b = b'
      · subst hb; simp [State.setThr, State.sk]
      · simp [State.setThr, State.sk, State.blk_setBlk_ne _ _ _ hb]
    | act a => simp [State.setThr, State.sk]
    | slice b' k =>
      by_cases hb : b = b'
      · subst hb; simp [State.setThr, State.sk]
      · simp [State.setThr, State.sk, State.blk_setBlk_ne _ _ _ hb]
  | act a =>
    cases g with
    | blk b' => simp [State.setThr, State.sk]
    | act a' =>
      by_cases ha : a = a'
      · subst ha; simp [State.setThr, State.sk]
      · simp [State.setThr, State.sk, State.actv_setAct_ne _ _ _ ha]
    | slice b' k => simp [State.setThr, State.sk]

theorem State.sreg_setThr (s : State) (c : Cx) (t : Thread) (h : c.grp.isSlice = false) (g : Grp) (k n : Nat) :
    (s.setThr c t).sreg g k n = s.sreg g k n := by
  simp [State.sreg, State.sk_setThr s c t h]

/-- What a block keeps beside its threads. -/
theorem State.blk_setThr (s : State) (c : Cx) (t : Thread) (h : c.grp.isSlice = false) (b : Nat) :
    (s.setThr c t).blk b = { s.blk b with body := { (s.blk b).body with threads := ((s.setThr c t).blk b).body.threads } } := by
  obtain ⟨g, n⟩ := c
  cases g with
  | slice => simp [Grp.isSlice] at h
  | blk b' =>
    by_cases hb : b' = b
    · subst hb; simp [State.setThr]
    · simp [State.setThr, State.blk_setBlk_ne _ _ _ hb]
  | act a => simp [State.setThr]

theorem State.actv_setThr (s : State) (c : Cx) (t : Thread) (h : c.grp.isSlice = false) (a : Nat) :
    (s.setThr c t).actv a = { s.actv a with threads := ((s.setThr c t).actv a).threads } := by
  obtain ⟨g, n⟩ := c
  cases g with
  | slice => simp [Grp.isSlice] at h
  | blk b' => simp [State.setThr]
  | act a' =>
    by_cases ha : a' = a
    · subst ha; simp [State.setThr]
    · simp [State.setThr, State.actv_setAct_ne _ _ _ ha]

/-! ### Groups after a thread's update: nothing they are governed by changes -/

theorem Grp.block_setThr (s : State) (c : Cx) (t : Thread) (h : c.grp.isSlice = false) (g : Grp) :
    g.block (s.setThr c t) = g.block s := by
  cases g with
  | act a => simp only [Grp.block]; rw [State.actv_setThr s c t h]
  | blk b => rfl
  | slice b k => rfl

theorem Grp.launch_setThr (s : State) (c : Cx) (t : Thread) (h : c.grp.isSlice = false) (g : Grp) :
    g.launch (s.setThr c t) = g.launch s := by
  simp only [Grp.launch, Grp.block_setThr s c t h, State.setThr_fields]
  rw [State.blk_setThr s c t h]

theorem Grp.core_setThr (s : State) (c : Cx) (t : Thread) (h : c.grp.isSlice = false) (g : Grp) :
    g.core (s.setThr c t) = g.core s := by
  cases g with
  | act a => simp only [Grp.core]; rw [State.actv_setThr s c t h]
  | blk b => simp only [Grp.core]; rw [State.blk_setThr s c t h]
  | slice b k => simp only [Grp.core]; rw [State.blk_setThr s c t h]

theorem Grp.slot_setThr (s : State) (c : Cx) (t : Thread) (h : c.grp.isSlice = false) (g : Grp) :
    g.slot (s.setThr c t) = g.slot s := by
  cases g with
  | act a => simp only [Grp.slot]; rw [State.actv_setThr s c t h]
  | blk b => simp only [Grp.slot]; rw [State.blk_setThr s c t h]
  | slice b k => simp only [Grp.slot]; rw [State.blk_setThr s c t h]

theorem Grp.cslot_setThr (s : State) (c : Cx) (t : Thread) (h : c.grp.isSlice = false) (g : Grp) :
    g.cslot (s.setThr c t) = g.cslot s := by
  simp [Grp.cslot, Grp.core_setThr s c t h, Grp.slot_setThr s c t h]

theorem Grp.ctx_setThr (s : State) (c : Cx) (t : Thread) (h : c.grp.isSlice = false) (g : Grp) :
    g.ctx (s.setThr c t) = g.ctx s := by
  cases g with
  | act a => simp only [Grp.ctx]; rw [State.actv_setThr s c t h]
  | blk b => simp only [Grp.ctx, State.setThr_fields]; rw [State.blk_setThr s c t h]
  | slice b k => simp only [Grp.ctx, State.setThr_fields]; rw [State.blk_setThr s c t h]


end Sys2Proof.Machine
end

