-- ==== Sys2Proof/Laws/Issue.lean ====
section
/-! SUPPORT. What issuing an instruction for the one thread of a pick comes to: the checks pass, the
instruction is performed, and nothing but that thread and the counters changes. -/

namespace Sys2Proof.Machine

open Sys2Proof

/-! ### Counters -/

theorem State.count_eq (s : State) (p : Nat) (v : Option Nat) (f e n : Nat) :
    ∃ ps, s.count p v f e n = { s with parts := ps } ∧
      ∀ q, (s.count p v f e n).part q = { s.part q with ctrs := ((s.count p v f e n).part q).ctrs } := by
  unfold State.count
  split
  · exact ⟨s.parts, rfl, fun _ => rfl⟩
  · refine ⟨_, rfl, fun q => ?_⟩
    by_cases h : p = q
    · subst h; simp
    · simp [State.part_setPart_ne _ _ _ h]

theorem countPick_eq (s0 s : State) (g : Grp) (l : List Nat) :
    ∃ ps, countPick s0 s g l = { s with parts := ps } ∧
      ∀ q, (countPick s0 s g l).part q = { s.part q with ctrs := ((countPick s0 s g l).part q).ctrs } := by
  simp only [countPick]
  split
  · exact ⟨s.parts, rfl, fun _ => rfl⟩
  · split
    · exact ⟨s.parts, rfl, fun _ => rfl⟩
    · obtain ⟨p1, h1, k1⟩ := State.count_eq s (g.cslot s0).part (some (g.cslot s0).vf) (coreField (g.core s0)) 0x01 1
      obtain ⟨p2, h2, k2⟩ := State.count_eq (s.count (g.cslot s0).part (some (g.cslot s0).vf) (coreField (g.core s0)) 0x01 1)
        (g.cslot s0).part (some (g.cslot s0).vf) (coreField (g.core s0)) 0x02
        ((l.filter fun m => let t := s.thr ⟨g, m⟩; let t0 := s0.thr ⟨g, m⟩
          t.icount != t0.icount || (g.isSlice && (t.pc != t0.pc || t.st != t0.st))).length)
      refine ⟨p2, by rw [h2, h1], fun q => ?_⟩
      rw [k2 q, k1 q]

/-! ### One thread's issue -/

theorem takeEvents_nil (s : State) (g : Grp) : takeEvents s g [] = s := rfl

/-- The checks of R96 for an instruction whose conditions hold. -/
structure Passes (s : State) (c : Cx) (op : Op) : Prop where
  stands : Stands s c op.h
  operands : Operands s c op.srcs op.dsts
  privilege : op.priv s c ≤ (c.grp.cslot s).priv
  ranges : rangeEv s c op = none
  inside : op.noAct = true → c.grp.isAct = false
  slice : ∀ d q f, op.i ≠ .ldq d q f
  pre : op.pre s c (rdSrcs s c op.srcs) = none
  interval : op.ends = true → c.grp.rollback s = false
  queue : queueInside c op = false
  awaited : ∀ x ∈ op.waits, stillEmpty s c x = false := by intro _ hx; cases hx
  target : op.target s c (rdSrcs s c op.srcs) = none := by rfl

/-- Outside an activation, or without a queue among its sources, an instruction meets no queue check (R298). -/
theorem queueInside_false {c : Cx} {op : Op} (h : c.grp.isAct = true → ∀ x ∈ op.srcs, ∀ q, x.o ≠ .q q) :
    queueInside c op = false := by
  cases ha : c.grp.isAct with
  | false => simp [queueInside, ha]
  | true =>
    simp only [queueInside, ha, Bool.true_and, List.any_eq_false]
    intro x hx hq
    cases ho : x.o <;> simp [ho] at hq
    exact h ha x hx _ ho

theorem mustWait_false {s : State} {c : Cx} {op : Op} (h : Operands s c op.srcs op.dsts)
    (hw : ∀ x ∈ op.waits, stillEmpty s c x = false) : mustWait s c op = false := by
  simp only [mustWait, h.ready, h.arrived, h.filled, List.any_nil, Bool.or_false, Bool.false_or, List.any_eq_false]
  intro x hx
  simp [hw x hx]

theorem issueTrue_passes {s : State} {c : Cx} {op : Op} (h : Passes s c op) (held : Bool) :
    issueTrue op held s c = performOp op s c := by
  have hl : limitEv s c.grp op = none := by simp [limitEv, h.operands.below]
  have hm := mustWait_false h.operands h.awaited
  have hf : foreignTarget s c op = none := by simp only [foreignTarget, h.target, ite_self]
  have he : emptyEv s c op = none := by simp [emptyEv, h.operands.filled]
  have hn : (op.noAct && c.grp.isAct) = false := by
    cases hx : op.noAct with
    | false => rfl
    | true => rw [h.inside hx]; rfl
  have hi : (op.ends && !held && c.grp.rollback s) = false := by
    cases hx : op.ends with
    | false => rfl
    | true => rw [h.interval hx]; simp
  simp only [issueTrue, if_neg (Nat.not_lt.2 h.privilege), hf, hl, h.ranges, h.queue, hm, he, hn, h.pre, hi]
  simp

theorem issueOne_passes {s : State} {c : Cx} {op : Op} (h : Passes s c op) : issueOne op s c = performOp op s c := by
  have hs : sliceEv op.i c.grp.isSlice = none := by
    have := h.stands.execute
    unfold sliceEv
    split
    · exact absurd ‹_› (h.slice _ _ _)
    all_goals simp only [this, Bool.not_false, if_true]
  simp only [issueOne, h.stands.running, h.stands.free, h.stands.clear, issueThread, hs, h.stands.known,
    h.stands.guard, issueTrue_passes h]
  simp

theorem issue_passes {s : State} {c : Cx} {op : Op} (h : Passes s c op) :
    issue op s = finishPick (countPick s (performOp op s c).st c.grp [c.n]) c.grp [c.n]
      (match (performOp op s c).ev with | some e => [(c.n, e)] | none => []) := by
  simp only [issue, h.stands.pick, Pick.groups, List.foldl, issueGroup, issueList, issueOne_passes h] <;>
    cases (performOp op s c).ev <;> rfl

/-! ### An effect on the thread alone -/

/-- The state an instruction's effect starts from: its issue counted, its queues read on. -/
def begun (op : Op) (s : State) (c : Cx) : State :=
  (countIssue s c op.h).modThr c fun t => advanceQueues { t with icount := t.icount - 1 } op.srcs

/-- Read positions of queues after an instruction has read its sources. -/
def queuesAfter (l : List Src) (q : Tab Nat) : Tab Nat := (advanceQueues { Thread.none with qpos := q } l).qpos

theorem advanceQueues_eq (l : List Src) (t : Thread) : advanceQueues t l = { t with qpos := queuesAfter l t.qpos } := by
  induction l generalizing t with
  | nil => rfl
  | cons x r ih =>
    obtain ⟨o, n, e⟩ := x
    cases o with
    | q k => simp only [queuesAfter, advanceQueues]; rw [ih]; rfl
    | _ => simpa only [queuesAfter, advanceQueues] using ih t

theorem Alone.of_setThr {s : State} {c : Cx} {x : Thread} (hc : c.grp.isSlice = false) {ps : Tab Partition}
    (hp : ∀ q, Tab.get Partition.none ps q = { s.part q with ctrs := (Tab.get Partition.none ps q).ctrs }) :
    ({ s.setThr c x with parts := ps } : State).thr c = x ∧ Alone s { s.setThr c x with parts := ps } c := by
  refine ⟨State.thr_setThr_self s c x hc, ?_⟩
  constructor
  · exact fun d hd => State.thr_setThr_ne s c d x hc hd
  · exact fun g k => State.sk_setThr s c x hc g k
  · exact fun b => State.blk_setThr s c x hc b
  · exact fun a => State.actv_setThr s c x hc a
  · intro a; show Tab.get 0 (s.setThr c x).mem a = _; simp
  · exact hp
  · obtain ⟨g, n⟩ := c
    cases g with
    | slice => simp [Grp.isSlice] at hc
    | blk b => rfl
    | act a => rfl

theorem begun_eq (op : Op) (s : State) (c : Cx) (hc : c.grp.isSlice = false) :
    begun op s c = s.setThr c { issued s op.h op.srcs (s.thr c) with icount := (s.thr c).icount, peer := (s.thr c).peer } := by
  simp [begun, countIssue, State.setThr_setThr s c _ _ hc, State.thr_setThr_self s c _ hc, issued, advanceQueues_eq]

/-- What performing an instruction leaves, when its effect changes the thread by f and it goes on. -/
theorem performOp_moves {s : State} {c : Cx} {op : Op} (f : Thread → Thread) (hc : c.grp.isSlice = false)
    (hb : op.body (begun op s c) c (rdSrcs s c op.srcs) = ((begun op s c).modThr c f, .seq))
    (hf : ∀ (t : Thread) (i : Dword) (p : Tab Byte), f { t with icount := i, peer := p } = { f t with icount := i, peer := p }) :
    performOp op s c = ⟨s.setThr c (onward (f (issued s op.h op.srcs (s.thr c)))), none⟩ := by
  simp only [performOp]
  rw [show ((countIssue s c op.h).modThr c fun t => advanceQueues { t with icount := t.icount - 1 } op.srcs) = begun op s c
    from rfl, hb]
  simp only [State.modThr_eq, begun_eq op s c hc, State.setThr_setThr s c _ _ hc, State.thr_setThr_self s c _ hc]
  rw [hf (issued s op.h op.srcs (s.thr c)) (s.thr c).icount (s.thr c).peer]
  have h2 := hf (issued s op.h op.srcs (s.thr c)) ((s.thr c).icount + 1) []
  rw [show ({ issued s op.h op.srcs (s.thr c) with icount := (s.thr c).icount + 1, peer := [] } : Thread) =
    issued s op.h op.srcs (s.thr c) by simp [issued, advanceQueues_eq]] at h2
  have hi := congrArg Thread.icount h2
  have hp := congrArg Thread.peer h2
  generalize f (issued s op.h op.srcs (s.thr c)) = x at hi hp ⊢
  simp only [onward, hi, hp]

/-- Nothing is left to settle after a pick whose one thread runs on. -/
theorem finishPick_running {s : State} {c : Cx} (h : (s.thr c).st = .running) : finishPick s c.grp [c.n] [] = s := by
  have : pickWaits s c.grp [c.n] = false := by
    simp only [pickWaits, List.any_cons, List.any_nil, Bool.or_false]
    rw [show (⟨c.grp, c.n⟩ : Cx) = c from rfl, h]
  simp [finishPick, this, takeEvents_nil]

/-- An effect that changes the thread by f moves it on and changes nothing else. -/
theorem issue_moves {s : State} {c : Cx} {op : Op} (f : Thread → Thread) (h : Passes s c op)
    (hb : op.body (begun op s c) c (rdSrcs s c op.srcs) = ((begun op s c).modThr c f, .seq))
    (hf : ∀ (t : Thread) (i : Dword) (p : Tab Byte), f { t with icount := i, peer := p } = { f t with icount := i, peer := p }) :
    Moves s c op.h op.srcs f (.next (issue op s)) := by
  have hc := h.stands.execute
  rw [issue_passes h, performOp_moves f hc hb hf]
  obtain ⟨ps, he, hq⟩ := countPick_eq s (s.setThr c (onward (f (issued s op.h op.srcs (s.thr c))))) c.grp [c.n]
  rw [he] at hq
  have ht := Alone.of_setThr (s := s) (c := c) (x := onward (f (issued s op.h op.srcs (s.thr c)))) hc (ps := ps)
    (fun q => by have h := hq q; simp only [State.setThr_fields] at h; exact h)
  refine ⟨_, ?_, ht⟩
  rw [he]
  exact congrArg _ (finishPick_running (by rw [ht.1]; rfl))

end Sys2Proof.Machine
end

