-- ==== Sys2Proof/Laws/Plain.lean ====
section
/-! SUPPORT. Instructions on registers alone: with its operands there, such an instruction moves its thread on
with the result in its destination, and changes nothing else. -/

namespace Sys2Proof.Machine

open Sys2Proof

/-- An instruction that only the access slice may execute. -/
def isLdq (i : Instr) : Bool :=
  match i with
  | .ldq _ _ _ => true
  | _ => false

theorem ready_passes {s : State} {c : Cx} {i : Instr} {h : Hdr} {srcs : List Src} {dsts : List (Opd × Nat)}
    {body : State → Cx → List Dword → State × Next} (hr : Ready s c h srcs dsts) (hi : isLdq i = false) :
    Passes s c (plainOp i h srcs dsts body) where
  stands := hr.stands
  operands := hr.operands
  privilege := Nat.zero_le _
  ranges := rfl
  inside := fun hn => by cases hn
  slice := fun d q f e => by
    have : i = .ldq d q f := e
    simp [this, isLdq] at hi
  pre := rfl
  interval := fun h => by cases h
  queue := queueInside_false hr.queues

theorem begun_setThr {op : Op} {s : State} {c : Cx} (hc : c.grp.isSlice = false) (t : Thread) :
    (begun op s c).setThr c t = s.setThr c t := by
  rw [begun_eq op s c hc, State.setThr_setThr s c _ _ hc]

/-- The effects that a plain instruction has on its thread leave what issuing counts. -/
def Keeps (f : Thread → Thread) : Prop :=
  ∀ (t : Thread) (i : Dword) (p : Tab Byte), f { t with icount := i, peer := p } = { f t with icount := i, peer := p }

theorem Keeps.id : Keeps fun t => t := fun _ _ _ => rfl

theorem Keeps.takes32 (d : Opd) (v : Word) : Keeps (takes32 d v) := by
  intro t i p; cases d <;> rfl

theorem Keeps.takes64 (d : Opd) (v : Dword) : Keeps (takes64 d v) := by
  intro t i p; cases d <;> rfl

theorem Keeps.takesFlag (d : Opd) (v : Bool) : Keeps (takesFlag d v) := by
  intro t i p; cases d <;> rfl

theorem Keeps.takesLate (l : Bool) (d : Opd) (v : Word) : Keeps (takesLate l d v) := by
  intro t i p; cases d <;> rfl

theorem Keeps.setP (n : Nat) (v : Bool) : Keeps fun t => t.setP n v := fun _ _ _ => rfl

theorem Keeps.lateReg (l : Bool) (n : Nat) (v : Word) : Keeps fun t => t.lateReg l n v := fun _ _ _ => rfl

theorem Keeps.comp {f g : Thread → Thread} (hf : Keeps f) (hg : Keeps g) : Keeps fun t => f (g t) := by
  intro t i p; show f (g _) = _; rw [hg, hf]

/-- z writes nothing: the thread is written back as it stands. -/
theorem State.setThr_thr {s : State} {c : Cx} (hc : c.grp.isSlice = false) (x : Thread) :
    (s.setThr c x).setThr c ((s.setThr c x).thr c) = s.setThr c x := by
  rw [State.setThr_setThr s c _ _ hc, State.thr_setThr_self s c _ hc]

theorem begun_modThr_id {op : Op} {s : State} {c : Cx} (hc : c.grp.isSlice = false) :
    (begun op s c).modThr c (fun t => t) = begun op s c := by
  rw [begun_eq op s c hc, State.modThr_eq, State.setThr_thr hc]

theorem begun_same {op : Op} {s : State} {c : Cx} (hc : c.grp.isSlice = false) (n : Next) :
    (begun op s c, n) = ((begun op s c).modThr c fun t => t, n) := by rw [begun_modThr_id hc]

theorem put32_eq {op : Op} {s : State} {c : Cx} {d : Opd} (v : Word) (hc : c.grp.isSlice = false) (hd : isS d = false) :
    put32 (begun op s c) c d v = ((begun op s c).modThr c (takes32 d v), .seq) := by
  cases d with
  | s n => simp [isS] at hd
  | g n => simp [put32, isS, wr32]; rfl
  | _ => exact begun_same hc _

theorem put64_eq {op : Op} {s : State} {c : Cx} {d : Opd} (v : Dword) (hc : c.grp.isSlice = false) (hd : isS d = false) :
    put64 (begun op s c) c d v = ((begun op s c).modThr c (takes64 d v), .seq) := by
  cases d with
  | s n => simp [isS] at hd
  | g n => simp [put64, isS, wr64]; rfl
  | _ => exact begun_same hc _

theorem putFlag_eq {op : Op} {s : State} {c : Cx} {d : Opd} (v : Bool) (hc : c.grp.isSlice = false) (hd : isS d = false) :
    putFlag (begun op s c) c d v = ((begun op s c).modThr c (takesFlag d v), .seq) := by
  cases d with
  | s n => simp [isS] at hd
  | g n => exact put32_eq (d := .g n) _ hc rfl
  | p n => rfl
  | _ => exact begun_same hc _

/-- A late result (R81): written at once, or owed to a register that is empty until it lands. -/
theorem putLate_eq {op : Op} {s : State} {c : Cx} {d : Opd} (v : Word) (hc : c.grp.isSlice = false) (hd : isS d = false) :
    putLate (begun op s c) c d v = ((begun op s c).modThr c (takesLate s.lag d v), .seq) := by
  have hl : (begun op s c).lag = s.lag := by rw [begun_eq op s c hc]; simp
  cases d with
  | s n => simp [isS] at hd
  | g n => simp only [putLate, wrLate, hl]; rfl
  | _ => exact begun_same hc _

/-- R121, R81: an instruction whose result is one value for its destination. -/
theorem plain_moves {s : State} {c : Cx} {i : Instr} {h : Hdr} {srcs : List Src} {dsts : List (Opd × Nat)}
    {body : State → Cx → List Dword → State × Next} (f : Thread → Thread) (hr : Ready s c h srcs dsts) (hi : isLdq i = false)
    (hk : Keeps f)
    (hb : body (begun (plainOp i h srcs dsts body) s c) c (rdSrcs s c srcs) =
      ((begun (plainOp i h srcs dsts body) s c).modThr c f, .seq)) :
    Moves s c h srcs f (.next (issue (plainOp i h srcs dsts body) s)) :=
  issue_moves (op := plainOp i h srcs dsts body) f (ready_passes hr hi) hb hk

/-! ### What an effect reads is as it was before the issue -/

theorem begun_thr {op : Op} {s : State} {c : Cx} (hc : c.grp.isSlice = false) :
    (begun op s c).thr c = { issued s op.h op.srcs (s.thr c) with icount := (s.thr c).icount, peer := (s.thr c).peer } := by
  rw [begun_eq op s c hc, State.thr_setThr_self s c _ hc]

theorem begun_rdP {op : Op} {s : State} {c : Cx} (hc : c.grp.isSlice = false) (o : Opd) :
    rdP (begun op s c) c o = rdP s c o := by
  cases o <;> simp [rdP, begun_thr hc, issued, advanceQueues_eq]

theorem begun_reg {op : Op} {s : State} {c : Cx} (hc : c.grp.isSlice = false) (n : Nat) :
    ((begun op s c).thr c).reg n = (s.thr c).reg n := by
  simp [begun_thr hc, issued, advanceQueues_eq, Thread.reg]

theorem begun_p {op : Op} {s : State} {c : Cx} (hc : c.grp.isSlice = false) : ((begun op s c).thr c).p = (s.thr c).p := by
  simp [begun_thr hc, issued, advanceQueues_eq]

theorem begun_rndOf {op : Op} {s : State} {c : Cx} (hc : c.grp.isSlice = false) :
    rndOf (begun op s c) c = rndOf s c := by
  funext e
  have hw : wid (begun op s c) c = wid s c := by
    rw [begun_eq op s c hc]
    simp only [wid, Grp.block_setThr s c _ hc, State.setThr_fields]
    rw [State.blk_setThr s c _ hc]
  have hl : c.grp.launch (begun op s c) = c.grp.launch s := by
    rw [begun_eq op s c hc, Grp.launch_setThr s c _ hc]
  simp [rndOf, hw, hl, begun_thr hc, issued, advanceQueues_eq]

/-- The values of a FMT 0 instruction's sources. -/
theorem rdSrcs_f0 (s : State) (c : Cx) (f : F0) (na nb nc : Nat) : rdSrcs s c (f0Srcs f na nb nc) =
    [if na = 2 then rd64 s c f.a else (valA s c f).zeroExtend 64, if nb = 2 then rd64 s c f.b else (valB s c f).zeroExtend 64,
      if nc = 2 then rd64 s c f.c else (valC s c f).zeroExtend 64] := by
  have h1 : aheadOf (f0Srcs f na nb nc) 1 f.b = aheadOf (f0Srcs f 1 1 1) 1 f.b := by
    simp only [aheadOf, f0Srcs, List.take_succ_cons, List.take_zero, List.filter_cons, List.filter_nil]
    split <;> rfl
  have h2 : aheadOf (f0Srcs f na nb nc) 2 f.c = aheadOf (f0Srcs f 1 1 1) 2 f.c := by
    simp only [aheadOf, f0Srcs, List.take_succ_cons, List.take_zero, List.filter_cons, List.filter_nil]
    split <;> split <;> rfl
  have h0 : aheadOf (f0Srcs f na nb nc) 0 f.a = 0 := rfl
  simp only [valA, valB, valC, ← h1, ← h2]
  simp only [rdSrcs, f0Srcs, List.length_cons, List.length_nil, List.range_succ, List.range_zero, List.nil_append,
    List.map_cons, List.map_nil, List.cons_append]
  rfl

/-! ### The shapes of instruction -/

theorem op32_moves {s : State} {c : Cx} {i : Instr} {h : Hdr} {f : F0} (v : Word → Word → Word → Word)
    (hr : Ready s c h (f0Srcs f 1 1 1) [(f.d, 1)]) (hi : isLdq i = false) (hd : isS f.d = false) :
    Moves s c h (f0Srcs f 1 1 1) (takes32 f.d (v (valA s c f) (valB s c f) (valC s c f))) (.next (issue (op32 i h f v) s)) := by
  refine plain_moves _ hr hi (Keeps.takes32 _ _) ?_
  rw [put32_eq _ hr.stands.execute hd]
  simp [rdSrcs_f0]

theorem opRnd_moves {s : State} {c : Cx} {i : Instr} {h : Hdr} {f : F0} (v : (Nat → Nat) → Word → Word → Word → Word)
    (hr : Ready s c h (f0Srcs f 1 1 1) [(f.d, 1)]) (hi : isLdq i = false) (hd : isS f.d = false) :
    Moves s c h (f0Srcs f 1 1 1) (takes32 f.d (v (rndOf s c) (valA s c f) (valB s c f) (valC s c f)))
      (.next (issue (opRnd i h f v) s)) := by
  refine plain_moves _ hr hi (Keeps.takes32 _ _) ?_
  rw [put32_eq _ hr.stands.execute hd, begun_rndOf hr.stands.execute]
  simp [rdSrcs_f0]

theorem opRnd64_moves {s : State} {c : Cx} {i : Instr} {h : Hdr} {f : F0} (v : (Nat → Nat) → Dword → Dword → Dword → Dword)
    (hr : Ready s c h (f0Srcs f 2 2 2) [(f.d, 2)]) (hi : isLdq i = false) (hd : isS f.d = false) :
    Moves s c h (f0Srcs f 2 2 2) (takes64 f.d (v (rndOf s c) (rd64 s c f.a) (rd64 s c f.b) (rd64 s c f.c)))
      (.next (issue (opRnd64 i h f v) s)) := by
  refine plain_moves _ hr hi (Keeps.takes64 _ _) ?_
  rw [put64_eq _ hr.stands.execute hd, begun_rndOf hr.stands.execute]
  simp [rdSrcs_f0]

/-- B of a 64-bit instruction: a pair, or a zero-extended word. -/
theorem op64_moves {s : State} {c : Cx} {i : Instr} {h : Hdr} {f : F0} {nb : Nat} (v : Dword → Dword → Dword)
    (hr : Ready s c h (f0Srcs f 2 nb 1) [(f.d, 2)]) (hi : isLdq i = false) (hd : isS f.d = false) :
    Moves s c h (f0Srcs f 2 nb 1) (takes64 f.d (v (rd64 s c f.a) (if nb = 2 then rd64 s c f.b else (valB s c f).zeroExtend 64)))
      (.next (issue (op64 i h f nb v) s)) := by
  refine plain_moves _ hr hi (Keeps.takes64 _ _) ?_
  rw [put64_eq _ hr.stands.execute hd]
  simp [rdSrcs_f0]

theorem opLate_moves {s : State} {c : Cx} {i : Instr} {h : Hdr} {f : F0} (v : Word → Word → Word)
    (hr : Ready s c h (f0Srcs f 1 1 1) [(f.d, 1)]) (hi : isLdq i = false) (hd : isS f.d = false) :
    Moves s c h (f0Srcs f 1 1 1) (takesLate s.lag f.d (v (valA s c f) (valB s c f))) (.next (issue (opLate i h f v) s)) := by
  refine plain_moves _ hr hi (Keeps.takesLate _ _ _) ?_
  rw [putLate_eq _ hr.stands.execute hd]
  simp [rdSrcs_f0]

theorem opFlag_moves {s : State} {c : Cx} {i : Instr} {h : Hdr} {f : F0} {n : Nat} (v : Dword → Dword → Bool)
    (hr : Ready s c h (f0Srcs f n n 1) [(f.d, 1)]) (hi : isLdq i = false) (hd : isS f.d = false) :
    Moves s c h (f0Srcs f n n 1) (takesFlag f.d (v (if n = 2 then rd64 s c f.a else (valA s c f).zeroExtend 64)
      (if n = 2 then rd64 s c f.b else (valB s c f).zeroExtend 64))) (.next (issue (opFlag i h f n v) s)) := by
  refine plain_moves _ hr hi (Keeps.takesFlag _ _) ?_
  rw [putFlag_eq _ hr.stands.execute hd]
  simp [rdSrcs_f0]

theorem opCarry_moves {s : State} {c : Cx} {i : Instr} {h : Hdr} {f : F0} {co : BitVec 4}
    (v : Word → Word → Bool → Word × Bool)
    (hr : Ready s c h (f0Srcs f 1 1 1) [(f.d, 1), (.p co, 1)]) (hi : isLdq i = false) (hd : isS f.d = false) :
    let r := v (valA s c f) (immS f (valB s c f)) (rdP s c f.c)
    Moves s c h (f0Srcs f 1 1 1) (fun t => (takes32 f.d r.1 t).setP co.toNat r.2) (.next (issue (opCarry i h f co v) s)) := by
  refine plain_moves _ hr hi (Keeps.comp (Keeps.setP _ _) (Keeps.takes32 _ _)) ?_
  have hc := hr.stands.execute
  simp only [hd, begun_rdP hc, Bool.false_and, Bool.false_eq_true, if_false]
  simp [rdSrcs_f0]
  generalize v _ _ _ = r
  cases hfd : f.d with
  | s n => rw [hfd] at hd; cases hd
  | _ => simp [wrP, wr32, takes32, begun_eq _ s c hc, State.setThr_setThr s c _ _ hc, State.thr_setThr_self s c _ hc]

theorem predOp_moves {s : State} {c : Cx} {i : Instr} {h : Hdr} {f : F0} (v : Bool → Bool → Bool)
    (hr : Ready s c h (f0Srcs f 1 1 1) [(f.d, 1)]) (hi : isLdq i = false) (hd : isS f.d = false) :
    Moves s c h (f0Srcs f 1 1 1) (takesFlag f.d (v (rdP s c f.a) (rdP s c f.b))) (.next (issue (predOp i h f v) s)) := by
  refine plain_moves _ hr hi (Keeps.takesFlag _ _) ?_
  rw [putFlag_eq _ hr.stands.execute hd, begun_rdP hr.stands.execute, begun_rdP hr.stands.execute]

end Sys2Proof.Machine
end

