-- ==== Sys2Proof/Laws/Rendezvous.lean ====
section
/-! SUPPORT. Rendezvous: the last thread of a skein to arrive completes it, and what completing one does to each
participant. -/

namespace Sys2Proof.Machine

open Sys2Proof

/-! ### The live threads of a group after a thread's update -/

theorem Tab.find_of_get {α : Type} {d x : α} {m : Tab α} {k : Nat} (h : Tab.get d m k = x) (hx : x ≠ d) :
    (k, x) ∈ m := by
  induction m with
  | nil => exact absurd h.symm hx
  | cons e m ih =>
    obtain ⟨j, y⟩ := e
    rw [Tab.get_cons] at h
    split at h
    · subst_vars; exact List.mem_cons_self
    · exact List.mem_cons_of_mem _ (ih h)

theorem Tab.above_lt {α : Type} {m : Tab α} {b : Nat} (h : Tab.above b m) {e : Nat × α} (he : e ∈ m) : b ≤ e.1 := by
  induction m generalizing b with
  | nil => cases he
  | cons f m ih =>
    rcases List.mem_cons.1 he with rfl | he
    · exact h.1
    · have := ih h.2 he; have := h.1; omega

/-- Updating a listed key of an ordered table changes no list of keys by a property both values have. -/
theorem Tab.keys_put {α : Type} {m : Tab α} {b k : Nat} {x y : α} (p : α → Bool) (h : Tab.above b m) (hy : (k, y) ∈ m)
    (py : p y = true) (px : p x = true) :
    ((Tab.put m k x).filter fun e => p e.2).map (·.1) = (m.filter fun e => p e.2).map (·.1) := by
  induction m generalizing b with
  | nil => cases hy
  | cons e m ih =>
    obtain ⟨j, z⟩ := e
    simp only [Tab.put, Tab.insert]
    rcases List.mem_cons.1 hy with he | he
    · cases he
      simp [px, py]
    · have hj := Tab.above_lt h.2 he
      have : ¬ k < j := by simp at hj; omega
      have h2 : ¬ j = k := by simp at hj; omega
      rw [if_neg this, if_neg h2]
      have := ih h.2 he
      simp only [Tab.put] at this
      simp only [List.filter_cons]
      split <;> simp [this]

theorem live_eq (s : State) (g : Grp) : s.live g = ((threadsOf s g).filter fun e => e.2.st != .gone).map (·.1) := by
  cases g <;> rfl

theorem thr_eq (s : State) (c : Cx) (hc : c.grp.isSlice = false) : s.thr c = Tab.get Thread.none (threadsOf s c.grp) c.n := by
  obtain ⟨g, n⟩ := c
  cases g with
  | slice => cases hc
  | _ => rfl

theorem threadsOf_setThr (s : State) (c : Cx) (t : Thread) (hc : c.grp.isSlice = false) :
    threadsOf (s.setThr c t) c.grp = Tab.put (threadsOf s c.grp) c.n t := by
  obtain ⟨g, n⟩ := c
  cases g with
  | slice => cases hc
  | blk b => simp [threadsOf, State.setThr]
  | act a => simp [threadsOf, State.setThr]

theorem live_setThr {s : State} {c : Cx} {t : Thread} (hc : c.grp.isSlice = false) (ho : Tab.above 0 (threadsOf s c.grp))
    (hl : (s.thr c).st ≠ .gone) (ht : t.st ≠ .gone) : (s.setThr c t).live c.grp = s.live c.grp := by
  rw [live_eq, live_eq, threadsOf_setThr s c t hc]
  refine Tab.keys_put (y := s.thr c) (fun t => t.st != .gone) ho (Tab.find_of_get (thr_eq s c hc).symm ?_) (by simpa using hl)
    (by simpa using ht)
  intro h; rw [h] at hl; exact hl rfl

theorem above_put {α : Type} {m : Tab α} {b k : Nat} (x : α) (hb : b ≤ k) (h : Tab.above b m) : Tab.above b (Tab.put m k x) :=
  Tab.above_insert k x hb h

theorem live_nodup {s : State} {g : Grp} (ho : Tab.above 0 (threadsOf s g)) : (s.live g).Nodup := by
  rw [live_eq]
  generalize 0 = b at ho
  generalize threadsOf s g = m at ho
  induction m generalizing b with
  | nil => exact List.nodup_nil
  | cons e m ih =>
    have hn := ih _ ho.2
    rw [List.filter_cons]
    split
    · rw [List.map_cons, List.nodup_cons]
      refine ⟨fun hm => ?_, hn⟩
      obtain ⟨x, hx, he⟩ := List.mem_map.1 hm
      have := Tab.above_lt ho.2 (List.mem_filter.1 hx).1
      omega
    · exact hn

theorem mem_live {s : State} {c : Cx} (hc : c.grp.isSlice = false) (hl : (s.thr c).st ≠ .gone) : c.n ∈ s.live c.grp := by
  rw [live_eq]
  refine List.mem_map.2 ⟨(c.n, s.thr c), List.mem_filter.2 ⟨Tab.find_of_get (thr_eq s c hc).symm ?_, by simpa using hl⟩, rfl⟩
  intro h; rw [h] at hl; exact hl rfl

/-! ### A running thread is left as it is by everything that releases waiting ones -/

/-- A thread that waits at nothing. -/
def Still (s : State) (c : Cx) (x : Thread) : Prop := s.thr c = x ∧ x.st = .running

theorem Still.modThr {s : State} {c d : Cx} {x : Thread} {f : Thread → Thread} (h : Still s c x)
    (hd : d.grp.isSlice = false) (hw : (s.thr d).st ≠ .running) : Still (s.modThr d f) c x := by
  have : c ≠ d := fun e => hw (by rw [← e, h.1, h.2])
  exact ⟨by rw [State.modThr_eq, State.thr_setThr_ne s d c _ hd this, h.1], h.2⟩

theorem Still.of_thr {s t : State} {c : Cx} {x : Thread} (h : Still s c x) (ht : t.thr c = s.thr c) : Still t c x :=
  ⟨ht.trans h.1, h.2⟩

theorem Still.foldl {α : Type} {f : State → α → State} {c : Cx} {x : Thread}
    (hf : ∀ s a, Still s c x → Still (f s a) c x) (l : List α) : ∀ s, Still s c x → Still (l.foldl f s) c x := by
  induction l with
  | nil => exact fun _ h => h
  | cons a l ih => exact fun s h => ih _ (hf s a h)

theorem thr_progress (s : State) (b : Nat) (c : Cx) : (progress s b).thr c = s.thr c := by
  obtain ⟨g, n⟩ := c
  unfold progress
  cases g with
  | act a => simp [State.thr]
  | blk b' => by_cases h : b = b' <;> simp [State.thr, h, State.blk_setBlk_ne]
  | slice b' k => by_cases h : b = b' <;> simp [State.thr, h, State.blk_setBlk_ne]

theorem thr_setSk (s : State) (g : Grp) (k : Nat) (x : Skein) (c : Cx) (hc : c.grp.isSlice = false) :
    (s.setSk g k x).thr c = s.thr c := by
  obtain ⟨g', n⟩ := c
  cases g' with
  | slice => cases hc
  | act a =>
    cases g with
    | act a' => by_cases h : a' = a <;> simp [State.setSk, State.thr, h, State.actv_setAct_ne]
    | _ => simp [State.setSk, State.thr]
  | blk b =>
    cases g with
    | act a' => simp [State.setSk, State.thr]
    | blk b' => by_cases h : b' = b <;> simp [State.setSk, State.thr, h, State.blk_setBlk_ne]
    | slice b' k' => by_cases h : b' = b <;> simp [State.setSk, State.thr, h, State.blk_setBlk_ne]

theorem still_settleJoin {s : State} {c : Cx} {x : Thread} (g : Grp) (k j : Nat) (hg : g.isSlice = false) (h : Still s c x)
    (hc : c.grp.isSlice = false) : Still (settleJoin s g k j) c x := by
  simp only [settleJoin]
  split
  · exact h
  · split
    · exact h
    · refine Still.of_thr (Still.foldl (fun s a hs => ?_) _ _ (h.of_thr (by rw [State.modSk_eq, thr_setSk _ _ _ _ _ hc])))
        (thr_progress _ _ _)
      split
      · rename_i he; exact hs.modThr hg (by rw [he]; simp)
      · exact hs

/-- Dropping copies of a cluster changes the fabric and no other part of the state. -/
theorem dropCline_fab (s : State) (core loc : Nat) : ∃ f, s.dropCline core loc = { s with fab := f } := ⟨_, rfl⟩

theorem foldl_fab {α : Type} {f : State → α → State} (hf : ∀ s a, ∃ x, f s a = { s with fab := x }) (l : List α) (s : State) :
    ∃ x, l.foldl f s = { s with fab := x } := by
  induction l generalizing s with
  | nil => exact ⟨s.fab, rfl⟩
  | cons a l ih =>
    obtain ⟨x, hx⟩ := hf s a
    obtain ⟨y, hy⟩ := ih (f s a)
    exact ⟨y, by rw [List.foldl_cons, hy, hx]⟩

theorem dropSelfInv_fab (s : State) (c : Cx) (sc : Scope) : ∃ f, dropSelfInv s c sc = { s with fab := f } := by
  have key : ∀ (cl : Nat) (l : List (Nat × CLine)) (g : Tab CLine → Tab CLine) (s : State),
      ∃ f, (let t := l.foldl (fun s e => s.dropCline (4 * cl) (e.1 % 2 ^ 64 * 128)) s
        ({ t with fab := { t.fab with clines := g t.fab.clines } } : State)) = { s with fab := f } := by
    intro cl l g s
    obtain ⟨x, hx⟩ := foldl_fab (f := fun s (e : Nat × CLine) => s.dropCline (4 * cl) (e.1 % 2 ^ 64 * 128))
      (fun s e => dropCline_fab _ _ _) l s
    simp only [hx]
    exact ⟨_, rfl⟩
  unfold dropSelfInv dropMarked
  split
  · exact key _ _ (fun t => t.map _) s
  · exact ⟨s.fab, rfl⟩

theorem thr_dropSelfInv (s : State) (d : Cx) (sc : Scope) (c : Cx) : (dropSelfInv s d sc).thr c = s.thr c := by
  obtain ⟨f, hf⟩ := dropSelfInv_fab s d sc
  rw [hf]; rfl

theorem still_releaseAt {s : State} {c : Cx} {x : Thread} (g : Grp) (w : Wait) (hg : g.isSlice = false) (h : Still s c x) :
    Still (releaseAt s g w) c x := by
  refine Still.foldl (fun s a hs => ?_) _ _ h
  split
  · rename_i he
    exact (hs.of_thr (thr_dropSelfInv _ _ _ _)).modThr hg (by rw [thr_dropSelfInv, he]; simp)
  · exact hs

theorem thr_releaseSaved (s : State) (b : Nat) (w : Wait) (c : Cx) : (releaseSaved s b w).thr c = s.thr c := by
  obtain ⟨g, n⟩ := c
  unfold releaseSaved
  split
  · rfl
  · cases g with
    | act a => simp [State.thr]
    | blk b' => by_cases h : b = b' <;> simp [State.thr, h, State.blk_setBlk_ne]
    | slice b' k => by_cases h : b = b' <;> simp [State.thr, h, State.blk_setBlk_ne]

theorem still_settleBar {s : State} {c : Cx} {x : Thread} (g : Grp) (hg : g.isSlice = false) (h : Still s c x) :
    Still (settleBar s g) c x := by
  unfold settleBar
  split
  · exact (still_releaseAt g .bar hg h).of_thr (thr_progress _ _ _)
  · exact h

theorem still_settleBarg {s : State} {c : Cx} {x : Thread} (g : Grp) (h : Still s c x) : Still (settleBarg s g) c x := by
  simp only [settleBarg]
  split
  · refine Still.foldl (fun s b hs => ?_) _ _ h
    exact ((still_releaseAt (.blk b) .barg rfl hs).of_thr (thr_releaseSaved _ _ _ _)).of_thr (thr_progress _ _ _)
  · exact h

/-- What follows the rendezvous of a skein leaves its running threads as they are. -/
theorem still_settle {s : State} {c : Cx} {x : Thread} (g : Grp) (k : Nat) (hg : g.isSlice = false) (hc : c.grp.isSlice = false)
    (h : Still (settleRdv s g k).1 c x) : Still (settle s g k).1 c x := by
  simp only [settle]
  refine still_settleBarg g (still_settleBar g hg ?_)
  exact Still.foldl (fun s j hs => still_settleJoin g k j hg hs hc) _ _ h

/-! ### The rendezvous of a whole skein -/

theorem eraseDups_const {α : Type} [BEq α] [LawfulBEq α] {l : List α} {p : α} (hl : l ≠ []) (h : ∀ x ∈ l, x = p) :
    l.eraseDups = [p] := by
  cases l with
  | nil => exact absurd rfl hl
  | cons a l =>
    have ha := h a List.mem_cons_self
    subst ha
    have : (l.filter fun b => !b == a) = [] := by
      rw [List.filter_eq_nil_iff]
      intro x hx
      simp [h x (List.mem_cons_of_mem _ hx)]
    rw [List.eraseDups_cons, this]; rfl

/-- Every live thread of a skein waits in a rendezvous at one PC. -/
structure AllMet (s : State) (g : Grp) (k : Nat) (pc : Dword) : Prop where
  some : s.liveSk g k ≠ []
  waits : ∀ m ∈ s.liveSk g k, ∃ r, (s.thr ⟨g, m⟩).st = .waiting (.rdv r)
  at_ : ∀ m ∈ s.liveSk g k, (s.thr ⟨g, m⟩).pc = pc

theorem settleRdv_met {s : State} {g : Grp} {k : Nat} {pc : Dword} (h : AllMet s g k pc) :
    settleRdv s g k = match completeRdv s g k (s.liveSk g k) with
      | (s', none) => (progress s' (g.block s'), [])
      | (s', some e) => ((s.liveSk g k).foldl (fun s n => s.modThr ⟨g, n⟩ fun t => { t with st := .running }) s',
          (s.liveSk g k).map fun n => (n, e)) := by
  have hl : ((s.liveSk g k).all fun n => lendsRdv (s.thr ⟨g, n⟩)) = true := by
    rw [List.all_eq_true]
    intro m hm
    obtain ⟨r, hr⟩ := h.waits m hm
    simp [lendsRdv, hr]
  have hf : ((s.liveSk g k).filterMap fun n =>
      if (rdvOf (s.thr ⟨g, n⟩)).isSome then some (s.thr ⟨g, n⟩).pc else none) = (s.liveSk g k).map fun _ => pc := by
    rw [← List.filterMap_eq_map]
    refine List.filterMap_congr fun m hm => ?_
    obtain ⟨r, hr⟩ := h.waits m hm
    simp [rdvOf, hr, h.at_ m hm]
  have hp : rdvPcs s g k = [pc] := by
    simp only [rdvPcs, hf]
    rw [eraseDups_const (p := pc) (by simpa using h.some) (by simp)]
    rfl
  have ha : rdvAt s g k pc = s.liveSk g k := by
    rw [rdvAt, List.filter_eq_self]
    intro m hm
    obtain ⟨r, hr⟩ := h.waits m hm
    simp [rdvOf, hr, h.at_ m hm]
  simp only [settleRdv, hl, if_true, hp, List.map_cons, List.map_nil, ha, List.foldl_cons, List.foldl_nil]
  split <;> simp_all

/-- Updates of the threads of a list, each its own. -/
theorem thr_foldl_modThr {g : Grp} (hg : g.isSlice = false) (F : Nat → Thread → Thread) (l : List Nat) (hl : l.Nodup)
    (s : State) (m : Nat) : (l.foldl (fun s n => s.modThr ⟨g, n⟩ (F n)) s).thr ⟨g, m⟩ =
      if m ∈ l then F m (s.thr ⟨g, m⟩) else s.thr ⟨g, m⟩ := by
  induction l generalizing s with
  | nil => simp
  | cons n l ih =>
    rw [List.nodup_cons] at hl
    rw [List.foldl_cons, ih hl.2]
    by_cases hm : m = n
    · subst hm
      simp [hl.1, State.thr_setThr_self s ⟨g, m⟩ _ hg]
    · simp [hm, State.thr_setThr_ne s ⟨g, n⟩ ⟨g, m⟩ _ hg (by simpa using hm)]

theorem foldl_modThr_congr {g : Grp} {f : State → Nat → State} {F : Nat → Thread → Thread} {cyc : Nat} (l : List Nat)
    (hf : ∀ s : State, s.cycle = cyc → ∀ n ∈ l, f s n = s.modThr ⟨g, n⟩ (F n)) (s : State) (hs : s.cycle = cyc) :
    l.foldl f s = l.foldl (fun s n => s.modThr ⟨g, n⟩ (F n)) s := by
  induction l generalizing s with
  | nil => rfl
  | cons n l ih =>
    rw [List.foldl_cons, List.foldl_cons, hf s hs n List.mem_cons_self]
    exact ih (fun s h m hm => hf s h m (List.mem_cons_of_mem _ hm)) _ (by simp [hs])

/-! ### What settling leaves of skeins and memory -/

/-- Memory is the same, and of each skein all but its rejoin registers. -/
def Quiet (s t : State) : Prop :=
  t.mem = s.mem ∧ ∀ g k, t.sk g k = { s.sk g k with enrolled := (t.sk g k).enrolled, arrived := (t.sk g k).arrived }

theorem Quiet.refl (s : State) : Quiet s s := ⟨rfl, fun _ _ => rfl⟩

theorem Quiet.trans {s t u : State} (h : Quiet s t) (k : Quiet t u) : Quiet s u :=
  ⟨k.1.trans h.1, fun g n => by rw [k.2 g n, h.2 g n]⟩

theorem Quiet.of_modThr {s : State} {c : Cx} (f : Thread → Thread) (hc : c.grp.isSlice = false) : Quiet s (s.modThr c f) :=
  ⟨by simp, fun g k => by rw [State.modThr_eq, State.sk_setThr _ _ _ hc]⟩

theorem Quiet.of_foldl {α : Type} {f : State → α → State} (hf : ∀ s a, Quiet s (f s a)) (l : List α) :
    ∀ s, Quiet s (l.foldl f s) := by
  induction l with
  | nil => exact Quiet.refl
  | cons a l ih => exact fun s => (hf s a).trans (ih _)

theorem Quiet.of_setBlk {s : State} {b : Nat} {x : Block} (h : x.body.skeins = (s.blk b).body.skeins) : Quiet s (s.setBlk b x) := by
  refine ⟨by simp, fun g k => ?_⟩
  cases g with
  | act a => simp [State.sk]
  | blk b' =>
    by_cases hb : b = b'
    · subst hb; simp [State.sk, h]
    · simp [State.sk, State.blk_setBlk_ne _ _ _ hb]
  | slice b' k' =>
    by_cases hb : b = b'
    · subst hb; simp [State.sk, h]
    · simp [State.sk, State.blk_setBlk_ne _ _ _ hb]

theorem Quiet.of_progress (s : State) (b : Nat) : Quiet s (progress s b) := Quiet.of_setBlk rfl

theorem sk_setSk (s : State) (g : Grp) (k : Nat) (x : Skein) : (s.setSk g k x).sk g k = x ∨ ∃ b j, g = .slice b j := by
  cases g with
  | act a => simp [State.setSk, State.sk]
  | blk b => simp [State.setSk, State.sk]
  | slice b j => exact Or.inr ⟨b, j, rfl⟩

theorem Quiet.of_setSk {s : State} {g : Grp} {k : Nat} {x : Skein} (hg : g.isSlice = false)
    (h : ∀ e a, { x with enrolled := e, arrived := a } = { s.sk g k with enrolled := e, arrived := a }) :
    Quiet s (s.setSk g k x) := by
  have hx : x = { s.sk g k with enrolled := x.enrolled, arrived := x.arrived } := h x.enrolled x.arrived
  refine ⟨by simp, fun g' k' => ?_⟩
  cases g with
  | slice => cases hg
  | act a =>
    cases g' with
    | act a' =>
      by_cases ha : a = a'
      · subst ha; simpa [State.setSk, State.sk] using hx
      · simp [State.setSk, State.sk, State.actv_setAct_ne _ _ _ ha]
    | _ => simp [State.setSk, State.sk]
  | blk b =>
    have key : ∀ b' k', Tab.get Skein.start ((s.setSk (.blk b) k x).blk b').body.skeins k' =
        { Tab.get Skein.start (s.blk b').body.skeins k' with
          enrolled := (Tab.get Skein.start ((s.setSk (.blk b) k x).blk b').body.skeins k').enrolled
          arrived := (Tab.get Skein.start ((s.setSk (.blk b) k x).blk b').body.skeins k').arrived } := by
      intro b' k'
      by_cases hb : b = b'
      · subst hb
        by_cases hk : k = k'
        · subst hk; simpa [State.setSk, State.sk] using hx
        · simp [State.setSk, Tab.get_put_ne _ _ _ hk]
      · simp [State.setSk, State.blk_setBlk_ne _ _ _ hb]
    cases g' with
    | act a' => simp [State.setSk, State.sk]
    | blk b' => exact key b' k'
    | slice b' j => exact key b' j

theorem Quiet.of_settleJoin (s : State) (g : Grp) (k j : Nat) (hg : g.isSlice = false) : Quiet s (settleJoin s g k j) := by
  simp only [settleJoin]
  split
  · exact Quiet.refl s
  · split
    · exact Quiet.refl s
    · refine (Quiet.trans ?_ (Quiet.of_foldl (fun s n => ?_) _ _)).trans (Quiet.of_progress _ _)
      · exact Quiet.of_setSk hg fun _ _ => rfl
      · split
        · exact Quiet.of_modThr _ hg
        · exact Quiet.refl _

theorem Quiet.of_dropSelfInv (s : State) (c : Cx) (sc : Scope) : Quiet s (dropSelfInv s c sc) := by
  obtain ⟨f, hf⟩ := dropSelfInv_fab s c sc
  rw [hf]
  exact ⟨rfl, fun _ _ => rfl⟩

theorem Quiet.of_releaseAt (s : State) (g : Grp) (w : Wait) (hg : g.isSlice = false) : Quiet s (releaseAt s g w) := by
  unfold releaseAt
  refine Quiet.of_foldl (fun s n => ?_) _ _
  split
  · exact (Quiet.of_dropSelfInv _ _ _).trans (Quiet.of_modThr _ hg)
  · exact Quiet.refl _

theorem Quiet.of_releaseSaved (s : State) (b : Nat) (w : Wait) : Quiet s (releaseSaved s b w) := by
  unfold releaseSaved
  split
  · exact Quiet.refl s
  · exact Quiet.of_setBlk rfl

theorem Quiet.of_settleBar (s : State) (g : Grp) (hg : g.isSlice = false) : Quiet s (settleBar s g) := by
  unfold settleBar
  split
  · exact (Quiet.of_releaseAt _ g .bar hg).trans (Quiet.of_progress _ _)
  · exact Quiet.refl _

theorem Quiet.of_settleBarg (s : State) (g : Grp) : Quiet s (settleBarg s g) := by
  simp only [settleBarg]
  split
  · exact Quiet.of_foldl (fun s b => ((Quiet.of_releaseAt s (.blk b) .barg rfl).trans (Quiet.of_releaseSaved _ _ _)).trans
      (Quiet.of_progress _ _)) _ _
  · exact Quiet.refl _

theorem Quiet.settle_rest (s : State) (g : Grp) (k : Nat) (hg : g.isSlice = false) :
    Quiet (settleRdv s g k).1 (settle s g k).1 :=
  ((Quiet.of_foldl (fun s j => Quiet.of_settleJoin s g k j hg) (List.range 8) (settleRdv s g k).1).trans
    (Quiet.of_settleBar _ g hg)).trans (Quiet.of_settleBarg _ g)

/-! ### An instruction that waits, and the last to arrive -/

/-- What performing an instruction leaves, when it changes its thread by f, issues and waits. -/
theorem performOp_waits {s : State} {c : Cx} {op : Op} {w : Wait} (f : Thread → Thread) (hc : c.grp.isSlice = false)
    (hw : decide (w = Wait.pressure ∨ w = Wait.retry .heldLine) = false)
    (hb : op.body (begun op s c) c (rdSrcs s c op.srcs) = ((begun op s c).modThr c f, .wait w)) (hf : Keeps f) :
    performOp op s c = ⟨s.setThr c (standsAt s w (f (issued s op.h op.srcs (s.thr c)))), none⟩ := by
  simp only [performOp]
  rw [show ((countIssue s c op.h).modThr c fun t => advanceQueues { t with icount := t.icount - 1 } op.srcs) = begun op s c
    from rfl, hb]
  simp only [State.modThr_eq, begun_eq op s c hc, State.setThr_setThr s c _ _ hc, State.thr_setThr_self s c _ hc]
  rw [hf (issued s op.h op.srcs (s.thr c)) (s.thr c).icount (s.thr c).peer]
  have h2 := hf (issued s op.h op.srcs (s.thr c)) ((s.thr c).icount + 1) []
  rw [show ({ issued s op.h op.srcs (s.thr c) with icount := (s.thr c).icount + 1, peer := [] } : Thread) =
    issued s op.h op.srcs (s.thr c) by simp [issued, advanceQueues_eq]] at h2
  have hi := congrArg Thread.icount h2
  have hp := congrArg Thread.peer h2
  generalize f (issued s op.h op.srcs (s.thr c)) = x at hi hp ⊢
  obtain ⟨⟩ := x
  simp only at hi hp
  subst hi hp
  simp only [beginWait, standsAt, hw, Bool.false_or]

/-- An instruction that issues and waits: what is left to settle is the pick's. -/
theorem issue_waits {s : State} {c : Cx} {op : Op} {w : Wait} (f : Thread → Thread) (h : Passes s c op)
    (hw : decide (w = Wait.pressure ∨ w = Wait.retry .heldLine) = false)
    (hb : op.body (begun op s c) c (rdSrcs s c op.srcs) = ((begun op s c).modThr c f, .wait w)) (hf : Keeps f) :
    ∃ t, issue op s = finishPick t c.grp [c.n] [] ∧ t.thr c = standsAt s w (f (issued s op.h op.srcs (s.thr c))) ∧ Alone s t c ∧
      t.cycle = s.cycle ∧ ((Tab.above 0 (threadsOf s c.grp)) → t.live c.grp = s.live c.grp) := by
  have hc := h.stands.execute
  rw [issue_passes h, performOp_waits f hc hw hb hf]
  obtain ⟨ps, he, hq⟩ := countPick_eq s (s.setThr c (standsAt s w (f (issued s op.h op.srcs (s.thr c))))) c.grp [c.n]
  rw [he] at hq
  have ht := Alone.of_setThr (s := s) (c := c) (x := standsAt s w (f (issued s op.h op.srcs (s.thr c)))) hc (ps := ps)
    (fun q => by have h := hq q; simp only [State.setThr_fields] at h; exact h)
  refine ⟨_, by rw [he], ht.1, ht.2, by simp, fun ho => ?_⟩
  have hl : (s.setThr c (standsAt s w (f (issued s op.h op.srcs (s.thr c))))).live c.grp = s.live c.grp := by
    refine live_setThr hc ho (by rw [h.stands.running]; simp) ?_
    simp only [standsAt]; split <;> simp
  exact hl

/-- Emptying destinations leaves what issuing counts. -/
theorem Keeps.emptied (dsts : List (Opd × Nat)) : Keeps (Sys2Proof.emptied dsts) := by
  induction dsts with
  | nil => exact fun _ _ _ => rfl
  | cons x r ih =>
    intro t i p
    have : emptyDst { t with icount := i, peer := p } x = { emptyDst t x with icount := i, peer := p } := by
      obtain ⟨o, n⟩ := x; cases o <;> rfl
    show Sys2Proof.emptied r (emptyDst _ x) = _
    rw [this, ih]; rfl

theorem emptied_pc (dsts : List (Opd × Nat)) (t : Thread) : (emptied dsts t).pc = t.pc := by
  induction dsts generalizing t with
  | nil => rfl
  | cons x r ih =>
    have : (emptyDst t x).pc = t.pc := by obtain ⟨o, n⟩ := x; cases o <;> rfl
    show (emptied r (emptyDst t x)).pc = _
    rw [ih, this]

theorem standsAt_st (s : State) (w : Wait) (t : Thread) : (standsAt s w t).st = .waiting w := by
  simp only [standsAt]; split <;> rfl

theorem standsAt_pc (s : State) (w : Wait) (t : Thread) : (standsAt s w t).pc = t.pc := by
  simp only [standsAt]; split <;> rfl

theorem issued_pc (s : State) (h : Hdr) (l : List Src) (t : Thread) : (issued s h l t).pc = t.pc := by
  simp [issued, advanceQueues_eq]

theorem above_of_pairwise {α : Type} {m : Tab α} (h : (m.map (·.1)).Pairwise (· < ·)) {b : Nat}
    (hb : ∀ e ∈ m, b ≤ e.1) : Tab.above b m := by
  induction m generalizing b with
  | nil => trivial
  | cons e m ih =>
    rw [List.map_cons, List.pairwise_cons] at h
    exact ⟨hb e List.mem_cons_self, ih h.2 fun f hf => h.1 _ (List.mem_map_of_mem hf)⟩

theorem last_above {s : State} {c : Cx} (h : Last s c) : Tab.above 0 (threadsOf s c.grp) :=
  above_of_pairwise h.order fun _ _ => Nat.zero_le _

theorem last_met {s t : State} {c : Cx} {op : Op} {r : Rdv} (hl : Last s c) (hr : Stands s c op.h)
    {dsts : List (Opd × Nat)} (h1 : t.thr c = standsAt s (.rdv r) (emptied dsts (issued s op.h op.srcs (s.thr c))))
    (h2 : Alone s t c) (h3 : t.live c.grp = s.live c.grp) : AllMet t c.grp c.skein (s.thr c).pc := by
  have hk : t.liveSk c.grp c.skein = s.liveSk c.grp c.skein := by simp only [State.liveSk, h3]
  have hm : c.n ∈ s.liveSk c.grp c.skein := by
    simp only [State.liveSk, List.mem_filter]
    exact ⟨mem_live hr.execute (by rw [hr.running]; simp), by simp [Cx.skein]⟩
  have ho : ∀ m, m ≠ c.n → t.thr ⟨c.grp, m⟩ = s.thr ⟨c.grp, m⟩ := fun m hne =>
    h2.others _ fun e => hne (by rw [← e])
  refine ⟨fun e => ?_, fun m hm => ?_, fun m hm => ?_⟩
  · rw [hk] at e; rw [e] at hm; cases hm
  · rw [hk] at hm
    by_cases he : m = c.n
    · subst he; exact ⟨r, by rw [show (⟨c.grp, c.n⟩ : Cx) = c from rfl, h1, standsAt_st]⟩
    · rw [ho m he]; exact hl.waits m hm he
  · rw [hk] at hm
    by_cases he : m = c.n
    · subst he; rw [show (⟨c.grp, c.n⟩ : Cx) = c from rfl, h1, standsAt_pc, emptied_pc, issued_pc]
    · rw [ho m he]; exact hl.at_ m hm

/-- The last thread to arrive completes the rendezvous: where completing it raises no event and leaves every
participant running, so does the step. -/
theorem issue_completes {s : State} {c : Cx} {op : Op} {r : Rdv} {dsts : List (Opd × Nat)} (h : Passes s c op) (hl : Last s c)
    (hb : op.body (begun op s c) c (rdSrcs s c op.srcs) = ((begun op s c).modThr c (emptied dsts), .wait (.rdv r)))
    (x : Nat → Thread)
    (hx : ∀ t : State, t.thr c = standsAt s (.rdv r) (emptied dsts (issued s op.h op.srcs (s.thr c))) → Alone s t c → t.cycle = s.cycle →
      t.liveSk c.grp c.skein = s.liveSk c.grp c.skein →
      (completeRdv t c.grp c.skein (t.liveSk c.grp c.skein)).2 = none ∧
      ∀ m ∈ s.liveSk c.grp c.skein,
        Still (completeRdv t c.grp c.skein (t.liveSk c.grp c.skein)).1 ⟨c.grp, m⟩ (x m)) :
    (∀ m ∈ s.liveSk c.grp c.skein, (issue op s).thr ⟨c.grp, m⟩ = x m) ∧
    ∃ t : State, t.thr c = standsAt s (.rdv r) (emptied dsts (issued s op.h op.srcs (s.thr c))) ∧ Alone s t c ∧
      t.liveSk c.grp c.skein = s.liveSk c.grp c.skein ∧ t.cycle = s.cycle ∧
      Quiet (completeRdv t c.grp c.skein (t.liveSk c.grp c.skein)).1 (issue op s) := by
  obtain ⟨t, ht, h1, h2, h3, h4⟩ := issue_waits _ h (by simp) hb (Keeps.emptied dsts)
  have h5 := h4 (last_above hl)
  have hk : t.liveSk c.grp c.skein = s.liveSk c.grp c.skein := by simp only [State.liveSk, h5]
  obtain ⟨he, hst⟩ := hx t h1 h2 h3 hk
  have hm := last_met hl h.stands h1 h2 h5
  have hs := settleRdv_met hm
  rw [show completeRdv t c.grp c.skein (t.liveSk c.grp c.skein) =
    ((completeRdv t c.grp c.skein (t.liveSk c.grp c.skein)).1, none) from Prod.ext rfl he] at hs
  simp only at hs
  have hp : pickWaits t c.grp [c.n] = true := by
    simp only [pickWaits, List.any_cons, List.any_nil, Bool.or_false]
    rw [show (⟨c.grp, c.n⟩ : Cx) = c from rfl, h1, standsAt_st]
  have hg := h.stands.execute
  have hset : (settle t c.grp c.skein).2 = [] := by simp only [settle, hs]
  have hst2 : ∀ m ∈ s.liveSk c.grp c.skein, Still (settle t c.grp c.skein).1 ⟨c.grp, m⟩ (x m) := by
    intro m hmem
    refine still_settle _ _ hg hg ?_
    rw [hs]
    exact (hst m hmem).of_thr (thr_progress _ _ _)
  have hfin : finishPick t c.grp [c.n] [] = (settle t c.grp c.skein).1 := by
    have : settlePick t c.grp [c.n] = ((settle t c.grp c.skein).1, []) := by
      have h0 : ([c.n].map (· / 64)).eraseDups = [c.skein] := rfl
      simp only [settlePick, h0, List.foldl_cons, List.foldl_nil, hset, List.append_nil]
    simp only [finishPick, hp, hg, Bool.not_false, Bool.and_self, if_true, this, takeEvents_nil]
  rw [ht, hfin]
  refine ⟨fun m hmem => (hst2 m hmem).1, t, h1, h2, hk, h3, ?_⟩
  refine Quiet.trans ?_ (Quiet.settle_rest t c.grp c.skein hg)
  rw [hs]
  exact Quiet.of_progress _ _

/-! ### Results -/

theorem arrived_eq {s t : State} {c : Cx} {h : Hdr} {srcs : List Src} {dsts : List (Opd × Nat)} {r : Rdv}
    (h1 : t.thr c = standsAt s (.rdv r) (emptied dsts (issued s h srcs (s.thr c)))) (h2 : Alone s t c)
    (m : Nat) : t.thr ⟨c.grp, m⟩ = arrived s c h srcs dsts r m := by
  unfold arrived
  split
  · rename_i e; subst e; exact h1
  · rename_i e; exact h2.others _ fun x => e (by rw [← x])

/-- A rendezvous instruction completes with the result F, where completing it is F for each participant. -/
theorem meets_of {s : State} {c : Cx} {i : Instr} {h : Hdr} {srcs : List Src} {dsts : List (Opd × Nat)} {r : Rdv}
    {F : Nat → Thread → Thread} {mk : State → Cx → List Dword → Rdv}
    (hr : Ready s c h srcs dsts) (hi : isLdq i = false) (hl : Last s c)
    (hb : ∀ op, mk (begun op s c) c (rdSrcs s c srcs) = r)
    (hx : ∀ t : State, (∀ m, t.thr ⟨c.grp, m⟩ = arrived s c h srcs dsts r m) → t.cycle = s.cycle →
      t.liveSk c.grp c.skein = s.liveSk c.grp c.skein →
      completeRdv t c.grp c.skein (t.liveSk c.grp c.skein) =
        ((s.liveSk c.grp c.skein).foldl (fun s' n => s'.modThr ⟨c.grp, n⟩ fun x => passOn s.cycle (F n x)) t, none)) :
    Meets s c h srcs dsts r F (.next (issue (meetOp i h srcs dsts mk) s)) := by
  have hg := hr.stands.execute
  have hnd : (s.liveSk c.grp c.skein).Nodup := (live_nodup (last_above hl)).filter _
  have key := issue_completes (op := meetOp i h srcs dsts mk) (r := r) (dsts := dsts) (ready_passes hr hi) hl
    (Prod.ext rfl (congrArg (fun r => Next.wait (.rdv r)) (hb _)))
    (fun m => passOn s.cycle (F m (arrived s c h srcs dsts r m))) (fun t h1 h2 h3 h4 => by
      rw [hx t (arrived_eq h1 h2) h3 h4]
      refine ⟨rfl, fun m hm => ⟨?_, rfl⟩⟩
      rw [thr_foldl_modThr hg _ _ hnd, if_pos hm, arrived_eq h1 h2]
      rfl)
  refine ⟨_, rfl, key.1, ?_⟩
  obtain ⟨t, h1, h2, h4, h3, hq⟩ := key.2
  rw [hx t (arrived_eq h1 h2) h3 h4] at hq
  intro a
  rw [hq.1, ← h2.bytes]
  rw [(Quiet.of_foldl (f := fun s' n => s'.modThr ⟨c.grp, n⟩ fun x => passOn s.cycle (F n x))
    (fun s' n => Quiet.of_modThr _ hg) _ t).1]

end Sys2Proof.Machine
end

