-- ==== Sys2Proof/Laws/Leads.lean ====
section
/-! SUPPORT. Instructions whose effect reaches beyond their thread: the step's next state is the effect's, but for
the thread's own going on. -/

namespace Sys2Proof.Machine

open Sys2Proof

theorem begun_starting (op : Op) (s : State) (c : Cx) (hc : c.grp.isSlice = false) :
    begun op s c = starting s c op.h op.srcs := begun_eq op s c hc

/-- An effect that goes on at the next slot. -/
theorem issue_seq {s u : State} {c : Cx} {op : Op} (h : Passes s c op)
    (hb : op.body (begun op s c) c (rdSrcs s c op.srcs) = (u, .seq)) :
    Leads u c (nextPc (u.thr c).pc) (.next (issue op s)) := by
  have hc := h.stands.execute
  have hp : performOp op s c = ⟨u.setThr c (performedAt (nextPc (u.thr c).pc) (u.thr c)), none⟩ := by
    simp only [performOp]
    rw [show ((countIssue s c op.h).modThr c fun t => advanceQueues { t with icount := t.icount - 1 } op.srcs) = begun op s c
      from rfl, hb]
    rfl
  rw [issue_passes h, hp]
  obtain ⟨ps, he, hq⟩ := countPick_eq s (u.setThr c (performedAt (nextPc (u.thr c).pc) (u.thr c))) c.grp [c.n]
  rw [he] at hq
  have ht := Alone.of_setThr (s := u) (c := c) (x := performedAt (nextPc (u.thr c).pc) (u.thr c)) hc (ps := ps)
    (fun q => by have h := hq q; simp only [State.setThr_fields] at h; exact h)
  refine ⟨_, ?_, ht⟩
  rw [he]
  exact congrArg _ (finishPick_running (by rw [ht.1]; rfl))

/-- An effect that goes on at a PC of its own. -/
theorem issue_goto {s u : State} {c : Cx} {op : Op} {pc : Dword} (h : Passes s c op)
    (hb : op.body (begun op s c) c (rdSrcs s c op.srcs) = (u, .goto pc)) :
    Leads u c pc (.next (issue op s)) := by
  have hc := h.stands.execute
  have hp : performOp op s c = ⟨u.setThr c (performedAt pc (u.thr c)), none⟩ := by
    simp only [performOp]
    rw [show ((countIssue s c op.h).modThr c fun t => advanceQueues { t with icount := t.icount - 1 } op.srcs) = begun op s c
      from rfl, hb]
    rfl
  rw [issue_passes h, hp]
  obtain ⟨ps, he, hq⟩ := countPick_eq s (u.setThr c (performedAt pc (u.thr c))) c.grp [c.n]
  rw [he] at hq
  have ht := Alone.of_setThr (s := u) (c := c) (x := performedAt pc (u.thr c)) hc (ps := ps)
    (fun q => by have h := hq q; simp only [State.setThr_fields] at h; exact h)
  refine ⟨_, ?_, ht⟩
  rw [he]
  exact congrArg _ (finishPick_running (by rw [ht.1]; rfl))

/-- A wait that nothing settles. -/
def quietWait (w : Wait) : Bool :=
  match w with
  | .tl _ _ _ | .win _ _ _ _ _ | .phase _ _ | .nap _ | .op _ => true
  | .rdv _ | .join _ | .bar | .barg | .barw | .interval _ | .pressure | .retry _ => false

/-- An effect after which the thread waits. -/
theorem issue_holds {s u : State} {c : Cx} {op : Op} {w : Wait} (h : Passes s c op) (hw : quietWait w = true)
    (hb : op.body (begun op s c) c (rdSrcs s c op.srcs) = (u, .wait w)) : Holds u c w (.next (issue op s)) := by
  have hc := h.stands.execute
  obtain ⟨x, hx, h1, h2, h3, h4, h5⟩ : ∃ x : Thread, performOp op s c = ⟨u.setThr c x, none⟩ ∧ x.st = .waiting w ∧
      x.pc = (u.thr c).pc ∧ x.g = (u.thr c).g ∧ x.p = (u.thr c).p ∧ x.icount = (u.thr c).icount + 1 := by
    refine ⟨beginWait s w ((u.thr c).icount + 1) { u.thr c with icount := (u.thr c).icount + 1, peer := [] }, ?_, ?_⟩
    · simp only [performOp]
      rw [show ((countIssue s c op.h).modThr c fun t => advanceQueues { t with icount := t.icount - 1 } op.srcs) = begun op s c
        from rfl, hb]
      rfl
    · simp only [beginWait]; split <;> simp
  rw [issue_passes h, hx]
  obtain ⟨ps, he, hq⟩ := countPick_eq s (u.setThr c x) c.grp [c.n]
  rw [he] at hq
  have ht := Alone.of_setThr (s := u) (c := c) (x := x) hc (ps := ps)
    (fun q => by have h := hq q; simp only [State.setThr_fields] at h; exact h)
  refine ⟨_, ?_, by rw [ht.1, h1], by rw [ht.1, h2], by rw [ht.1, h3], by rw [ht.1, h4], by rw [ht.1, h5], ht.2⟩
  rw [he]
  have : pickWaits { u.setThr c x with parts := ps } c.grp [c.n] = false := by
    simp only [pickWaits, List.any_cons, List.any_nil, Bool.or_false]
    rw [show (⟨c.grp, c.n⟩ : Cx) = c from rfl, ht.1, h1]
    cases w <;> first | rfl | cases hw
  simp only [finishPick, this, takeEvents_nil, Bool.false_and, Bool.false_eq_true, if_false]

/-- Reaching no service space, an instruction that may reach memory is its issue. -/
theorem guarded_next {s : State} {f : State → State} (h0 : s.svc = false) (h1 : (f s).svc = false) :
    guarded f s = .next (f s) := by
  have : ({ s with svc := false } : State) = s := by rw [← h0]
  simp only [guarded, this, h1, Bool.false_eq_true, if_false]

theorem Leads.svc {u : State} {c : Cx} {pc : Dword} {s : State} (h : Leads u c pc (.next s)) : s.svc = u.svc := by
  obtain ⟨t, ht, -, ha⟩ := h
  cases ht
  rw [ha.rest]

/-- An effect that goes on, of an instruction that may reach memory. -/
theorem guarded_leads {s u : State} {c : Cx} {pc : Dword} {f : State → State} (h : Leads u c pc (.next (f s)))
    (h0 : s.svc = false) (h1 : u.svc = false) : Leads u c pc (guarded f s) := by
  rw [guarded_next h0 (by rw [Leads.svc h, h1])]
  exact h

end Sys2Proof.Machine
end

