-- ==== Sys2Proof/Laws/Memory.lean ====
section
/-! SUPPORT. Memory keeps its canonical form: one lemma for each operation that changes a byte of it, and the state
after reset. Each `mem :=` of the model is one of these, or a filter (Tab.wf_filter). -/

namespace Sys2Proof.Machine

open Sys2Proof

theorem Memory.wf_nil : Memory.wf [] = true := rfl

theorem State.reset_wf : Memory.wf State.reset.mem = true := rfl

theorem State.store_wf {s : State} (pa : Nat) (bs : List Byte) (h : Memory.wf s.mem = true) :
    Memory.wf (s.store pa bs).mem = true :=
  Tab.wf_setRun pa bs h

theorem State.storeAt_wf {s : State} (pa : Nat) (l : List (Nat × Byte)) (h : Memory.wf s.mem = true) :
    Memory.wf (s.storeAt pa l).mem = true := by
  induction l generalizing s with
  | nil => exact h
  | cons e r ih => exact ih (s := { s with mem := Tab.set 0 s.mem (pa + e.1) e.2 }) (Tab.wf_set _ _ h)

theorem dropCells_wf {m : Memory} (gone : Nat → Bool) (h : Memory.wf m = true) : Memory.wf (dropCells m gone) = true :=
  Tab.wf_filter _ h

theorem zeroLines_wf {m : Memory} (fr : Nat) (lost : Nat → Bool) (h : Memory.wf m = true) :
    Memory.wf (zeroLines m fr lost) = true :=
  dropCells_wf _ h

theorem moveCells_wf {m : Memory} (a b n : Nat) (h : Memory.wf m = true) : Memory.wf (moveCells m a b n) = true := by
  unfold moveCells
  have key : ∀ (l : List (Nat × Byte)) (t : Memory), (∀ e ∈ l, e.2 ≠ 0) → Memory.wf t = true →
      Memory.wf (l.foldl (fun m e => Tab.put m (b + (e.1 - a)) e.2) t) = true := by
    intro l
    induction l with
    | nil => exact fun _ _ ht => ht
    | cons e r ih =>
      intro t hl ht
      exact ih _ (fun x hx => hl x (List.mem_cons_of_mem _ hx)) (Tab.wf_insert _ (hl e List.mem_cons_self) ht)
  exact key _ _ (fun e he => ((Tab.wf_iff 0 m).1 h).2 e (List.mem_of_mem_filter he)) (Tab.wf_filter _ h)

theorem placeMemory_wf {m : Memory} (line : Nat) (h : Memory.wf m = true) : Memory.wf (placeMemory m line) = true :=
  Tab.wf_setRun _ _ (Tab.wf_setRun _ _ (Tab.wf_setRun _ _ (Tab.wf_setRun _ _ h)))

theorem withFetchWord_wf {s : State} (nbits w : Nat) (h : Memory.wf s.mem = true) :
    Memory.wf (s.withFetchWord nbits w).mem = true :=
  placeMemory_wf _ h

/-- The bytes a store leaves: its own at its address, and every other as before. -/
theorem State.store_get (s : State) (pa : Nat) (bs : List Byte) (a : Nat) :
    Tab.get 0 (s.store pa bs).mem a = if pa ≤ a ∧ a < pa + bs.length then bs.getD (a - pa) 0 else Tab.get 0 s.mem a := by
  split
  · rename_i h
    obtain ⟨i, rfl⟩ := Nat.exists_eq_add_of_le h.1
    have hi : i < bs.length := by omega
    rw [Nat.add_sub_cancel_left, List.getD_eq_getElem?_getD, List.getElem?_eq_getElem hi]
    exact Tab.get_setRun_in 0 s.mem pa i bs hi
  · exact Tab.get_setRun_out 0 s.mem pa a bs (by omega)

/-- Reading back the bytes stored. -/
theorem State.store_bytes (s : State) (pa : Nat) (bs : List Byte) : (s.store pa bs).bytes pa bs.length = bs := by
  unfold State.bytes Tab.getRun
  apply List.ext_getElem
  · simp
  · intro i h1 h2
    rw [List.getElem_map, List.getElem_range]
    exact Tab.get_setRun_in 0 s.mem pa i bs h2

end Sys2Proof.Machine
end

