-- ==== Sys2Proof/Tests/Slice0.lean ====
section
/-! SUPPORT. Tests: terms that are no encodings, words written out from the encoding, single instructions on a small
state, and for each statement with hypotheses a state and operands that meet them. -/

open Sys2Proof Sys2Proof.Machine

set_option Elab.async false

namespace Sys2Proof.Tests

/-! ### Terms that are no encodings: one for each check of WellFormed -/

/-- Operands of three registers of which one is out of kind. -/
abbrev abc (d a b c : Opd) : F0 := { d := d, a := a, b := b, c := c, e := 0, ib := false, imm := 0 }
/-- A with an immediate in B's place. -/
abbrev ai (d a : Opd) (n : BitVec 16) : F0 := { d := d, a := a, b := .z, c := .z, e := 0, ib := true, imm := n }
abbrev H : Hdr := plainHdr
abbrev RN : Rnd := ⟨.rn, false, false⟩
/-- A memory operand [a + off] of 2^size bytes. -/
abbrev mo (a : Opd) (size : BitVec 3) (off : BitVec 24) : F2 :=
  { a := a, b := .z, ea := false, ed := false, ty := 0, scope := .block, order := .relaxed, size := size, resp := 0
    hint := .normal, off := off }
/-- An atomic's operands. -/
abbrev ao (d a b c : Opd) (size : BitVec 3) : FA :=
  { d := d, a := a, b := b, c := c, e := 0, scope := .block, order := .relaxed, size := size, resp := 0, hint := .normal, imm := 0 }

-- R121: a predicate is no integer source, and C of IADD is unused
theorem test_wf_source_kind : (Instr.iadd H (abc (.g 1) (.p 2) (.g 3) .z)).wf = false := by decide
theorem test_wf_destination_kind : (Instr.iadd H (abc (.p 1) (.g 2) (.g 3) .z)).wf = false := by decide
theorem test_wf_unused_operand : (Instr.iadd H (abc (.g 1) (.g 2) (.g 3) (.g 4))).wf = false := by decide
-- R122: with IB the B field is z, without it IMM16 is zero
theorem test_wf_immediate_and_register : (Instr.iadd H { ai (.g 1) (.g 2) 5 with b := .g 3 }).wf = false := by decide
theorem test_wf_immediate_unused : (Instr.iadd H { abc (.g 1) (.g 2) (.g 3) .z with imm := 5 }).wf = false := by decide
theorem test_wf_no_immediate_form : (Instr.popc H (ai (.g 1) (.g 2) 5)).wf = false := by decide
-- R73: pairs are named by even registers
theorem test_wf_odd_pair : (Instr.iadd64 H (abc (.g 1) (.g 2) (.g 4) .z)).wf = false := by decide
theorem test_wf_odd_s_pair : (Instr.iadd64 H (abc (.g 2) (.s 3) (.g 4) .z)).wf = false := by decide
-- R140, R144, R145
theorem test_wf_carry_in : (Instr.iaddc H 1 (abc (.g 1) (.g 2) (.g 3) (.g 4))).wf = false := by decide
theorem test_wf_flag_destination : (Instr.iset H .eq (abc .z (.g 2) (.g 3) .z)).wf = false := by decide
theorem test_wf_isel_predicate : (Instr.isel H (abc (.g 1) (.g 2) (.g 3) .z)).wf = false := by decide
theorem test_wf_mov_counter : (Instr.mov H false (abc (.g 1) (.tc 2) .z .z)).wf = false := by decide
theorem test_wf_movs_between_files : (Instr.movs H false (abc (.g 1) (.g 2) .z .z)).wf = false := by decide
theorem test_wf_movi_pair : (Instr.movi H true (.g 3) 1).wf = false := by decide
theorem test_wf_lea_immediate : (Instr.lea H 0 false (ai (.g 2) (.g 4) 1)).wf = false := by decide
-- R152 to R172
theorem test_wf_ftz_of_halves : (Instr.hadd2 H { RN with ftz := true } (abc (.g 1) (.g 2) (.g 3) .z)).wf = false := by decide
theorem test_wf_fclass_mask : (Instr.fclass H .f32 { abc (.g 1) (.g 2) .z .z with imm := 1 }).wf = false := by decide
theorem test_wf_fclass_mask_range : (Instr.fclass H .f32 { abc (.p 1) (.g 2) .z .z with imm := 1024 }).wf = false := by decide
theorem test_wf_cvt_same : (Instr.cvt H RN .f32 .f32 (abc (.g 1) (.g 2) .z .z)).wf = false := by decide
theorem test_wf_cvt_integers : (Instr.cvt H RN .s32 .u64 (abc (.g 1) (.g 2) .z .z)).wf = false := by decide
theorem test_wf_cvt_narrow : (Instr.cvt H RN .e4m3 .f32 (abc (.g 1) (.g 2) .z .z)).wf = false := by decide
theorem test_wf_cvtpk_place : (Instr.cvtpk H RN .f16 .f32 1 (abc (.g 1) (.g 2) (.g 3) (.g 4))).wf = false := by decide
theorem test_wf_cvtpk_source : (Instr.cvtpk H RN .e4m3 .f16 0 (abc (.g 1) (.g 2) (.g 3) (.g 4))).wf = false := by decide
theorem test_wf_cvtupk_element : (Instr.cvtupk H .f32 .e4m3 4 (abc (.g 1) (.g 2) .z .z)).wf = false := by decide
theorem test_wf_cvtupk_integer : (Instr.cvtupk H .s32 .f16 0 (abc (.g 1) (.g 2) .z .z)).wf = false := by decide
theorem test_wf_scalex_index : (Instr.scalex H RN false 1 (abc (.g 1) (.g 2) (.g 3) .z)).wf = false := by decide
theorem test_wf_scalex_element : (Instr.scalex H RN true 3 (abc (.g 1) (.g 2) (.g 3) .z)).wf = false := by decide
-- R146 to R150
theorem test_wf_shfl_width : (Instr.shfl H .idx 7 1 (abc (.g 1) (.g 2) (.g 3) .z)).wf = false := by decide
theorem test_wf_vote_elect : (Instr.vote H .elect (abc (.p 1) (.p 2) .z .z)).wf = false := by decide
theorem test_wf_ballot_pair : (Instr.ballot H (abc (.g 1) (.p 2) .z .z)).wf = false := by decide
theorem test_wf_scan_uniform : (Instr.scan H .add false (abc (.s 1) (.g 2) .z .z)).wf = false := by decide
theorem test_wf_pmov_p0 : (Instr.pmov H true { abc .z (.g 2) .z .z with imm := 1 }).wf = false := by decide
theorem test_wf_pand_register : (Instr.pand H false false (abc (.p 1) (.g 2) (.p 3) .z)).wf = false := by decide
-- R78, R100, R101
abbrev so (s : Sop) (d a b : BitVec 7) : SubOp := { sop := s, d := d, a := a, b := some b, smod := 0 }
theorem test_wf_pair_destinations : (Instr.pair H (so .iadd 4 1 2) (so .fmul 8 3 1)).wf = false := by decide
theorem test_wf_pair_sources : (Instr.pair H (so .iadd 4 1 2) (so .fmul 9 3 5)).wf = false := by decide
theorem test_wf_pair_banks : (Instr.pair H (so .iadd 4 0 4) (so .fmul 9 8 4)).wf = false := by decide
theorem test_wf_pair_functions :
    (Instr.pair H { so .rcp 4 1 0 with b := none } { so .rsq 9 1 0 with b := none }).wf = false := by decide
theorem test_wf_pair_rounding : (Instr.pair H (so .iadd 4 1 2) { so .fmul 9 3 1 with smod := 5 }).wf = false := by decide
theorem test_wf_pair_single_source : (Instr.pair H (so .iabs 4 1 2) (so .fmul 9 3 1)).wf = false := by decide
-- R124 to R127, R136
theorem test_wf_branch_operand : (Instr.bra H { j := 0, enr := false, uni := false, a := .g 2, disp := 1 }).wf = false := by decide
theorem test_wf_branch_rejoin : (Instr.bra H { j := 3, enr := false, uni := false, a := .z, disp := 1 }).wf = false := by decide
theorem test_wf_brx_displacement : (Instr.brx H false { j := 0, enr := false, uni := false, a := .g 2, disp := 1 }).wf = false := by decide
theorem test_wf_call_link : (Instr.call H { j := 0, enr := false, uni := false, a := .g 3, disp := 1 }).wf = false := by decide
theorem test_wf_callx_target : (Instr.callx H (.g 2) { j := 0, enr := false, uni := false, a := .g 5, disp := 0 }).wf = false := by decide
theorem test_wf_ret_odd : (Instr.ret H (.g 5)).wf = false := by decide
theorem test_wf_yield_zero : (Instr.yield H 0 0).wf = false := by decide
theorem test_wf_waittl_odd : (Instr.waittl H 0 (.g 5) false .block 0).wf = false := by decide
theorem test_wf_sread_width : (Instr.sread H (.g 3) false .wid).wf = false := by decide
theorem test_wf_swrite_kind : (Instr.swrite H (.p 3) false .gtsel).wf = false := by decide
-- R77, R210 to R226
theorem test_wf_size : (Instr.ld H (.g 8) (mo (.g 2) 6 0)).wf = false := by decide
theorem test_wf_group : (Instr.ld H (.g 2) (mo (.g 2) 4 0)).wf = false := by decide
theorem test_wf_load_order : (Instr.ld H (.g 8) { mo (.g 2) 2 0 with order := .release }).wf = false := by decide
theorem test_wf_store_order : (Instr.st H (.g 8) { mo (.g 2) 2 0 with order := .acquire }).wf = false := by decide
theorem test_wf_base_odd : (Instr.st H (.g 8) (mo (.g 3) 2 0)).wf = false := by decide
theorem test_wf_scratch_type : (Instr.lds H (.g 8) { mo (.g 3) 2 0 with ty := 1 }).wf = false := by decide
theorem test_wf_scratch_scope : (Instr.sts H (.g 8) { mo (.g 3) 2 0 with scope := .wafer }).wf = false := by decide
theorem test_wf_queue_base : (Instr.ldq H 0 (mo (.g 2) 2 0)).wf = false := by decide
theorem test_wf_queue_size : (Instr.ldq H 0 (mo (.s 2) 3 0)).wf = false := by decide
theorem test_wf_hint_destination : (Instr.pref H (.g 1) (mo (.g 2) 0 0)).wf = false := by decide
theorem test_wf_reside_type : (Instr.reside H .z { mo (.g 2) 0 0 with ty := 1 }).wf = false := by decide
theorem test_wf_fetchpg_size : (Instr.fetchpg H (.g 2) (mo (.g 4) 1 0)).wf = false := by decide
theorem test_wf_atomic_size : (Instr.atom H .inc (ao (.g 2) (.g 4) (.g 6) .z 3)).wf = false := by decide
theorem test_wf_atomic_group : (Instr.atom H .add (ao (.g 3) (.g 4) (.g 6) .z 3)).wf = false := by decide
theorem test_wf_atoms_scope : (Instr.atoms H .add { ao (.g 2) (.g 4) (.g 6) .z 2 with scope := .field }).wf = false := by decide
theorem test_wf_cas_size : (Instr.cas H (ao (.g 2) (.g 4) (.g 6) (.g 8) 4)).wf = false := by decide
theorem test_wf_cas128_group : (Instr.cas128 H (ao (.g 2) (.g 4) (.g 8) (.g 12) 4)).wf = false := by decide
theorem test_wf_red_destination : (Instr.red H .add (ao (.g 2) (.g 4) (.g 6) .z 2)).wf = false := by decide
theorem test_wf_red_order : (Instr.red H .add { ao .z (.g 4) (.g 6) .z 2 with order := .acquire }).wf = false := by decide
theorem test_wf_fence_order : (Instr.fence H .z (mo .z 0 0)).wf = false := by decide
theorem test_wf_fence_kind : (Instr.fence H .z { mo .z 0 0 with order := .acquire, ty := 1 }).wf = false := by decide
theorem test_wf_qfence_offset : (Instr.qfence H .z (mo .z 0 1)).wf = false := by decide
theorem test_wf_cinv_hint : (Instr.cinv H .z { mo (.g 2) 0 0 with hint := .evictLast }).wf = false := by decide
theorem test_wf_cwb_order : (Instr.cwb H .z { mo (.g 2) 0 0 with order := .acquire }).wf = false := by decide
-- R227 to R236, R311
theorem test_wf_snap_destination : (Instr.snap H .block false .z (.g 2) (.g 4)).wf = false := by decide
theorem test_wf_accept_pair : (Instr.accept H (.s 2) (.g 4) 0).wf = false := by decide
theorem test_wf_snapq_selector : (Instr.snapq H (.g 2) 7).wf = false := by decide
theorem test_wf_put_address : (Instr.put H false false (.g 2) (.g 3) (.g 4) (.g 6) 0).wf = false := by decide
theorem test_wf_waitw_odd : (Instr.waitw H false (.g 2) (.s 5) (.g 6) 0).wf = false := by decide
theorem test_wf_wread_both : (Instr.wread H true true (.g 2) 0).wf = false := by decide
theorem test_wf_launch_odd : (Instr.launch H (.g 2) (.g 5) 0).wf = false := by decide
theorem test_wf_postc_odd : (Instr.postc H (.g 3) (.g 4) 0).wf = false := by decide
-- R239 to R257, R264 to R274, R341
theorem test_wf_xdef_address : (Instr.xdef H (.g 2) .z 0).wf = false := by decide
theorem test_wf_talloc_operand : (Instr.talloc H .plain .z (.g 2) 0).wf = false := by decide
theorem test_wf_tstat_tile : (Instr.tstat H (.g 2) 0 64).wf = false := by decide
theorem test_wf_tstat_context : (Instr.tstat H (.g 2) 2 8).wf = false := by decide
theorem test_wf_tload_box : (Instr.tload H false .plain (.g 2) (.g 4) .z 0 0 0 0).wf = false := by decide
theorem test_wf_tload_index : (Instr.tload H false .plain (.g 2) (.g 8) .z 0 0 3 0).wf = false := by decide
theorem test_wf_arrive_zero : (Instr.arrive H (.g 2) (.g 4) 0).wf = false := by decide
theorem test_wf_mlda_scale_tile : (Instr.mlda H (.g 2) false 0 3 0 false).wf = false := by decide
theorem test_wf_msta_format : (Instr.msta H (.g 2) 0 (.g 4) .rn false false 0 0 0 .s8 false).wf = false := by decide
theorem test_wf_msta_scaled : (Instr.msta H (.g 2) 0 (.g 4) .rn false true 0 0 1 .f32 false).wf = false := by decide
theorem test_wf_mread_destination : (Instr.mread H .z 0 (.g 4) 0).wf = false := by decide
theorem test_wf_mma_address : (Instr.mma H .z 0).wf = false := by decide
-- R303 to R308
theorem test_wf_cpset_word : (Instr.cpset H (.g 2) (.g 3) (.g 4) 0 0).wf = false := by decide
theorem test_wf_tlbinv_all : (Instr.tlbinv H true (.g 2) (.g 4) .z (.g 6)).wf = false := by decide
theorem test_wf_asidbind_slot : (Instr.asidbind H false false (.g 2) (.g 4) (.g 6) 0).wf = false := by decide
theorem test_wf_asidbind_both : (Instr.asidbind H true true (.g 2) (.g 4) .z 1).wf = false := by decide
theorem test_wf_croll_context : (Instr.croll H false (.g 2) .z .z).wf = false := by decide
theorem test_wf_halt_block : (Instr.halt H (.g 2) (.g 4) (.g 5)).wf = false := by decide

/-! ### Words, written out from R68, R72, R76 and R92 -/

-- JOIN j2: OP 0x008, FMT 3 at bit 19, J 2 at bit 24; A 0xFF (R126)
theorem test_word_join : decodeTableWord 96 (slotOf 0x02180008 0x000000FF 0) = some (.join H 2) := by decide
-- MOVI g5, 0x12345678: OP 0x06D, FMT 1, D 5; A 0xFF; IMM32
theorem test_word_movi : decodeTableWord 96 (slotOf 0x0508006D 0x000000FF 0x12345678) = some (.movi H false (.g 5) 0x12345678) := by
  decide
-- IADD g1, g2, -1: OP 0x040; B 0xFF, C 0xFF, OPX bit 64 set; IMM16 0xFFFF at 95:80 (R122)
theorem test_word_iadd_immediate : decodeTableWord 96 (slotOf 0x01000040 0x00FFFF02 0xFFFF0001) =
    some (.iadd H (ai (.g 1) (.g 2) 0xFFFF)) := by decide
-- FADD.rz.sat.ftz g1, g2, g3: OP 0x0C0; RM 1 at 61:59, SAT 62, FTZ 63
theorem test_word_fadd : decodeTableWord 96 (slotOf 0x010000C0 0xC8FF0302 0) =
    some (.fadd H ⟨.rz, true, true⟩ (abc (.g 1) (.g 2) (.g 3) .z)) := by decide
-- RCP g1, g2: OP 0x148
theorem test_word_rcp : decodeTableWord 96 (slotOf 0x01000148 0x00FFFF02 0) = some (.rcp H (abc (.g 1) (.g 2) .z .z)) := by decide
-- BALLOT g2, p3: OP 0x182, A 0b1100_0011
theorem test_word_ballot : decodeTableWord 96 (slotOf 0x02000182 0x00FFFFC3 0) = some (.ballot H (abc (.g 2) (.p 3) .z .z)) := by decide
-- STS.b4 [g3 + 8], g4: OP 0x1C3, FMT 2; SIZE 2 at 58:56; OFF24 8 at 95:72
theorem test_word_sts : decodeTableWord 96 (slotOf 0x041001C3 0x0200FF03 0x00000800) = some (.sts H (.g 4) (mo (.g 3) 2 8)) := by decide
-- CAS g1, [g2], g3, g4 of 4 bytes: OP 0x1CA, FMT 0; SIZE 2 at 69:67
theorem test_word_cas : decodeTableWord 96 (slotOf 0x010001CA 0x00040302 0x00000010) =
    some (.cas H (ao (.g 1) (.g 2) (.g 3) (.g 4) 2)) := by decide
-- SNAPQ g2, 3: OP 0x243, FMT 5; A, B, C 0xFF; selector in IMM32
theorem test_word_snapq : decodeTableWord 96 (slotOf 0x02280243 0x00FFFFFF 3) = some (.snapq H (.g 2) 3) := by decide
-- WREAD of the sent counter of window 5 to g2: OP 0x247; CNT at bit 57
theorem test_word_wread : decodeTableWord 96 (slotOf 0x02280247 0x02FFFFFF 5) = some (.wread H true false (.g 2) 5) := by decide
-- TFREE tt5: OP 0x283, D 0xFF
theorem test_word_tfree : decodeTableWord 96 (slotOf 0xFF280283 0x00FFFFFF 5) = some (.tfree H 5) := by decide
-- MMA g30, 0x40: OP 0x2C0, FMT 6; A 30
theorem test_word_mma : decodeTableWord 96 (slotOf 0x003002C0 0x0000001E 0x40) = some (.mma H (.g 30) 0x40) := by decide
-- CKPT g9: OP 0x306, FMT 5
theorem test_word_ckpt : decodeTableWord 96 (slotOf 0x09280306 0x00FFFFFF 0) = some (.ckpt H (.g 9)) := by decide
-- R102: an opcode that is not assigned, FMT 7, header bits 23:22, a reserved specifier, RM 5
theorem test_word_no_opcode : decodeTableWord 96 (slotOf 0xFF00003F 0x00FFFFFF 0) = none := by decide
theorem test_word_no_format : decodeTableWord 96 (slotOf 0xFF380000 0x00FFFFFF 0) = none := by decide
theorem test_word_reserved_header : decodeTableWord 96 (slotOf 0xFF400000 0x00FFFFFF 0) = none := by decide
theorem test_word_reserved_specifier : decodeTableWord 96 (slotOf 0x010000C0 0x00FF03F0 0) = none := by decide
theorem test_word_rounding_mode : decodeTableWord 96 (slotOf 0x010000C0 0x28FF0302 0) = none := by decide

/-! ### A small state: block 0 of one thread, and its variants -/

/-- The state that a launch and its dispatch leave, with the pick of its one thread. -/
def base : State := { placeWord State.reset 0 with pick := { grp := .blk 0, thrs := [0] } }
/-- Its thread. -/
abbrev c0 : Cx := ⟨.blk 0, 0⟩
/-- The same with other slot words, packet words, a change of the thread, or of the block's body. -/
def slotWith (f : CSlot → CSlot) (s : State) : State := s.setCslot 0 0 (f placeSlot)
def launchWith (f : Launch → Launch) (s : State) : State := s.modLaunch 0 f
def thrWith (f : Thread → Thread) (s : State) : State := s.modThr c0 f
def bodyWith (f : Body → Body) (s : State) : State := s.modBlk 0 fun b => { b with body := f b.body }
/-- Rollback mode: DRAIN is clear in word 0 of the slot (R290). -/
def rolling (s : State) : State := slotWith (fun k => { k with w0 := k.w0 &&& ~~~ (BitVec.ofNat 64 (2 ^ 21)) }) s
/-- Privilege 2, or 0. -/
def priv2 (s : State) : State := slotWith (fun k => { k with w0 := (k.w0 &&& ~~~ (BitVec.ofNat 64 (3 * 2 ^ 17))) ||| .ofNat 64 (2 ^ 18) }) s
def priv0 (s : State) : State := slotWith (fun k => { k with w0 := k.w0 &&& ~~~ (BitVec.ofNat 64 (3 * 2 ^ 17)) }) s
/-- Two threads, of which the second waits in a rendezvous. -/
def two (r : Rdv) (s : State) : State := bodyWith (fun b => { b with
  threads := b.threads ++ [(1, { Thread.start 0 with st := .waiting (.rdv r) })] }) s

def standsB (s : State) (c : Cx) (h : Hdr) : Bool :=
  decide (s.pick = { grp := c.grp, thrs := [c.n] }) && (decide (c.grp.isSlice = false) && (decide ((s.thr c).st = .running) &&
    (decide ((s.thr c).stop = none) && (decide (boundaryEv s c = none) && (decide (predOwed (s.thr c) h.gp.toNat = false) &&
      decide (guardOf h (s.thr c).p = true))))))

theorem standsB_stands {s : State} {c : Cx} {h : Hdr} (x : standsB s c h = true) : Stands s c h := by
  simp only [standsB, Bool.and_eq_true, decide_eq_true_eq] at x
  obtain ⟨a, b, d, e, f, g, i⟩ := x
  exact ⟨a, b, d, e, f, g, i⟩

def notQueue : Opd → Bool
  | .q _ => false
  | _ => true

def readyB (s : State) (c : Cx) (h : Hdr) (srcs : List Src) (dsts : List (Opd × Nat)) : Bool :=
  standsB s c h && (decide (((srcs.map fun x => (x.o, x.n)) ++ dsts).any (aboveG (c.grp.regs s)) = false) &&
    (decide (emptySrcs s c srcs = []) && (decide (srcs.any (fun x => opdOwed (s.thr c) x.o) = false) &&
      (decide (dsts.any (dstEmpty (s.thr c)) = false) && srcs.all fun x => notQueue x.o))))

theorem readyB_ready {s : State} {c : Cx} {h : Hdr} {srcs : List Src} {dsts : List (Opd × Nat)}
    (x : readyB s c h srcs dsts = true) : Ready s c h srcs dsts := by
  simp only [readyB, Bool.and_eq_true, List.all_eq_true, decide_eq_true_eq] at x
  obtain ⟨a, b, d, e, f, g⟩ := x
  refine ⟨standsB_stands a, ⟨b, d, e, f⟩, fun _ x hx q hq => ?_⟩
  have := g x hx
  rw [hq] at this
  cases this

def rdvOf : Status → Bool
  | .waiting (.rdv _) => true
  | _ => false

def lastB (s : State) (c : Cx) : Bool :=
  decide (((threadsOf s c.grp).map (·.1)).Pairwise (· < ·)) &&
    (s.liveSk c.grp c.skein).all fun m => (m == c.n || rdvOf (s.thr ⟨c.grp, m⟩).st) && (s.thr ⟨c.grp, m⟩).pc == (s.thr c).pc

theorem lastB_last {s : State} {c : Cx} (x : lastB s c = true) : Last s c := by
  simp only [lastB, Bool.and_eq_true, decide_eq_true_eq, List.all_eq_true, Bool.or_eq_true, beq_iff_eq] at x
  refine ⟨x.1, fun m hm hn => ?_, fun m hm => (x.2 m hm).2⟩
  rcases (x.2 m hm).1 with h | h
  · exact absurd h hn
  · revert h; cases (s.thr ⟨c.grp, m⟩).st with
    | waiting w => cases w <;> first | exact fun _ => ⟨_, rfl⟩ | (intro h; cases h)
    | _ => intro h; cases h

def othersB (s : State) (c : Cx) (r : Nat → Rdv) : Bool :=
  (s.liveSk c.grp c.skein).all fun m => m == c.n || (s.thr ⟨c.grp, m⟩).st == .waiting (.rdv (r m))

theorem othersB_others {s : State} {c : Cx} {r : Nat → Rdv} (x : othersB s c r = true) : Others s c r := by
  simp only [othersB, List.all_eq_true, Bool.or_eq_true, beq_iff_eq] at x
  exact fun m hm hn => (x m hm).resolve_left hn

/-! ### Witnesses: for each statement with hypotheses, a state and operands that meet them -/

theorem witness_IntegerResults : intValue (.iadd H (ai (.g 1) (.g 2) 0x8000)) = some (H, ai (.g 1) (.g 2) 0x8000, fun a b _ => a + sImm (ai (.g 1) (.g 2) 0x8000) b) ∧
    Ready base c0 H (f0Srcs (ai (.g 1) (.g 2) 0x8000) 1 1 1) [(.g 1, 1)] ∧ isS (.g 1) = false :=
  ⟨rfl, readyB_ready (by decide +kernel), rfl⟩
-- R84: a destination z discards the result
theorem witness_IntegerResults_z : Ready base c0 H (f0Srcs (abc .z (.g 127) (.s 63) .z) 1 1 1) [(.z, 1)] ∧ isS .z = false :=
  ⟨readyB_ready (by decide +kernel), rfl⟩
-- R139: pairs
theorem witness_IntegerResults_pairs : (∃ v, wideValue (.imul64 H (abc (.g 126) (.g 2) (.g 4) .z)) = some (H, abc (.g 126) (.g 2) (.g 4) .z, v)) ∧
    Ready base c0 H (f0Srcs (abc (.g 126) (.g 2) (.g 4) .z) 2 2 1) [(.g 126, 2)] := ⟨⟨_, rfl⟩, readyB_ready (by decide +kernel)⟩
theorem witness_CarryChain : Ready base c0 H (f0Srcs (abc (.g 1) (.g 2) (.g 3) (.p 15)) 1 1 1) [(.g 1, 1), (.p 15, 1)] ∧ isS (.g 1) = false :=
  ⟨readyB_ready (by decide +kernel), rfl⟩
theorem witness_Divisions : (∃ v, divValue (.irems H (ai (.g 0) (.g 2) 0)) = some (H, ai (.g 0) (.g 2) 0, v)) ∧
    Ready base c0 H (f0Srcs (ai (.g 0) (.g 2) 0) 1 1 1) [(.g 0, 1)] := ⟨⟨_, rfl⟩, readyB_ready (by decide +kernel)⟩
theorem witness_Shifts : (∃ v, shiftValue (.sar H true (ai (.g 1) (.g 2) 32)) = some (H, true, ai (.g 1) (.g 2) 32, v)) ∧
    Ready base c0 H (f0Srcs (ai (.g 1) (.g 2) 32) 1 1 1) [(.g 1, 1)] := ⟨⟨_, rfl⟩, readyB_ready (by decide +kernel)⟩
theorem witness_Shifts_pairs : (∃ v, shiftValue64 (.shr64 H false (ai (.g 2) (.g 2) 64)) = some (H, false, ai (.g 2) (.g 2) 64, v)) ∧
    Ready base c0 H (f0Srcs (ai (.g 2) (.g 2) 64) 2 1 1) [(.g 2, 2)] := ⟨⟨_, rfl⟩, readyB_ready (by decide +kernel)⟩
theorem witness_CompareAndSelect :
    Ready base c0 H (f0Srcs (abc (.p 1) (.g 2) (.g 4) .z) 1 1 1) [(.p 1, 1)] ∧
    Ready base c0 H (f0Srcs (abc (.p 1) (.g 2) (.g 4) .z) 2 2 1) [(.p 1, 1)] ∧
    Ready base c0 H (f0Srcs (abc (.g 1) (.g 2) (.g 4) (.p 0)) 1 1 1) [(.g 1, 1)] :=
  ⟨readyB_ready (by decide +kernel), readyB_ready (by decide +kernel), readyB_ready (by decide +kernel)⟩
theorem witness_MovesAndAddresses :
    Ready base c0 H (f0Srcs (abc (.g 2) (.g 4) .z .z) 2 1 1) [(.g 2, 2)] ∧ (∀ n, Opd.g 4 ≠ .tc n) ∧
    Ready base c0 H [] [(.g 2, 2)] ∧ Ready base c0 H (f0Srcs (abc (.g 2) (.s 62) (.g 1) .z) 2 1 1) [(.g 2, 2)] :=
  ⟨readyB_ready (by decide +kernel), by simp, readyB_ready (by decide +kernel), readyB_ready (by decide +kernel)⟩
theorem witness_MovesAndAddresses_counter :
    Ready base c0 H (f0Srcs (abc (.g 2) (.tc 7) .z .z) 2 1 1) [(.g 2, 2)] ∧ (c0.grp.cslot base).eng 7 = true :=
  ⟨readyB_ready (by decide +kernel), by decide +kernel⟩
theorem witness_FloatTestsAndConversions :
    Ready base c0 H (f0Srcs (abc (.p 1) (.g 2) (.g 4) .z) 1 1 1) [(.p 1, 1)] ∧
    Ready base c0 H (f0Srcs (abc (.p 1) (.g 2) (.g 4) .z) 2 2 1) [(.p 1, 1)] ∧
    Ready base c0 H (f0Srcs { abc (.p 1) (.g 2) .z .z with imm := 1023 } 2 1 1) [(.p 1, 1)] ∧
    (∃ v, doubleValue (.dfma H RN (abc (.g 2) (.g 2) (.g 4) (.g 6))) = some (H, abc (.g 2) (.g 2) (.g 4) (.g 6), v)) ∧
    Ready base c0 H (f0Srcs (abc (.g 2) (.g 2) (.g 4) (.g 6)) 2 2 2) [(.g 2, 2)] ∧
    Ready base c0 H (f0Srcs (abc (.g 2) (.g 4) .z .z) (if Elem.f32.wide then 2 else 1) 1 1) [(.g 2, if Elem.f64.wide then 2 else 1)] :=
  ⟨readyB_ready (by decide +kernel), readyB_ready (by decide +kernel), readyB_ready (by decide +kernel), ⟨_, rfl⟩,
    readyB_ready (by decide +kernel), readyB_ready (by decide +kernel)⟩
theorem witness_FloatResults :
    (∃ v, floatValue (.ffma H RN (abc (.g 1) (.g 2) (.g 3) (.g 4))) = some (H, abc (.g 1) (.g 2) (.g 3) (.g 4), v)) ∧
    (∃ v, lateValue (.rcp H (abc (.g 1) (.g 2) .z .z)) = some (H, abc (.g 1) (.g 2) .z .z, v)) ∧
    Ready base c0 H (f0Srcs (abc (.g 1) (.g 2) (.g 3) (.g 4)) 1 1 1) [(.g 1, 1)] ∧
    Ready base c0 H (f0Srcs (abc (.g 1) (.g 2) .z .z) 1 1 1) [(.g 1, 1)] :=
  ⟨⟨_, rfl⟩, ⟨_, rfl⟩, readyB_ready (by decide +kernel), readyB_ready (by decide +kernel)⟩
theorem witness_PredicateResults :
    Ready base c0 H (f0Srcs (abc (.p 15) (.p 0) (.p 1) .z) 1 1 1) [(.p 15, 1)] ∧
    Ready base c0 H (f0Srcs { abc .z (.g 2) .z .z with imm := 0xFFFF } 1 1 1) [(.z, 1)] ∧
    (∀ n, 0 < n → n < 16 → predOwed (base.thr c0) n = false) ∧
    (let s := thrWith (fun t => { t with owed := [⟨143, 0⟩] }) base
     Ready s c0 H (f0Srcs { abc .z (.g 2) .z .z with imm := 0x8000 } 1 1 1) [(.z, 1)] ∧
       ({ abc .z (.g 2) .z .z with imm := 0x8000 } : F0).imm.getLsbD 15 = true ∧ predOwed (s.thr c0) 15 = true) :=
  ⟨readyB_ready (by decide +kernel), readyB_ready (by decide +kernel),
    fun n a b => (by decide +kernel : ∀ n, n < 16 → 0 < n → predOwed (base.thr c0) n = false) n b a,
    readyB_ready (by decide +kernel), by decide, by decide +kernel⟩
theorem witness_PairResult :
    let x : SubOp := { sop := .fdiv, d := 127, a := 0, b := some 2, smod := 0 }
    let y : SubOp := { sop := .iadd, d := 0, a := 127, b := none, smod := 0 }
    Ready base c0 H (subSrcs x ++ subSrcs y) [(.g x.d, 1), (.g y.d, 1)] := readyB_ready (by decide +kernel)

/-- Two threads whose second waits with the rendezvous r. -/
def duo (r : Rdv) : State := two r base

theorem witness_VotesAndShuffles_vote : let f := abc (.p 3) (.p 0) .z .z
    Last (duo (.vote f.d .any false)) c0 ∧ Ready (duo (.vote f.d .any false)) c0 H (f0Srcs f 1 1 1) [(f.d, 1)] ∧
    rdP (duo (.vote f.d .any false)) c0 f.a = true ∧ Others (duo (.vote f.d .any false)) c0 (fun m => .vote f.d .any (m == 0)) :=
  ⟨lastB_last (by decide +kernel), readyB_ready (by decide +kernel), by decide +kernel, othersB_others (by decide +kernel)⟩
theorem witness_VotesAndShuffles_ballot : let f := abc (.g 2) (.p 0) .z .z
    Last (duo (.ballot f.d true)) c0 ∧ Ready (duo (.ballot f.d true)) c0 H (f0Srcs f 1 1 1) [(f.d, 2)] ∧ isS f.d = false ∧
    rdP (duo (.ballot f.d true)) c0 f.a = true ∧ Others (duo (.ballot f.d true)) c0 (fun _ => .ballot f.d true) :=
  ⟨lastB_last (by decide +kernel), readyB_ready (by decide +kernel), rfl, by decide +kernel, othersB_others (by decide +kernel)⟩
theorem witness_VotesAndShuffles_match : let f := abc (.g 2) (.g 4) .z .z
    Last (duo (.matchL f.d 7)) c0 ∧ Ready (duo (.matchL f.d 7)) c0 H (f0Srcs f (if true then 2 else 1) 1 1) [(f.d, 2)] ∧
    rd64 (duo (.matchL f.d 7)) c0 f.a = 0 ∧ Others (duo (.matchL f.d 7)) c0 (fun m => .matchL f.d (if m = 0 then 0 else 7)) :=
  ⟨lastB_last (by decide +kernel), readyB_ready (by decide +kernel), by decide +kernel, othersB_others (by decide +kernel)⟩
theorem witness_VotesAndShuffles_uniform : let f := abc (.s 62) (.p 0) .z .z
    let k := abc (.s 0) (.g 4) .z .z
    (Last (duo (.ballot f.d true)) c0 ∧ Ready (duo (.ballot f.d true)) c0 H (f0Srcs f 1 1 1) [(f.d, 2)] ∧
      rdP (duo (.ballot f.d true)) c0 f.a = true ∧ Others (duo (.ballot f.d true)) c0 (fun _ => .ballot f.d true)) ∧
    Last (duo (.matchL k.d 0)) c0 ∧ Ready (duo (.matchL k.d 0)) c0 H (f0Srcs k (if true then 2 else 1) 1 1) [(k.d, 2)] ∧
    rd64 (duo (.matchL k.d 0)) c0 k.a = 0 ∧ Others (duo (.matchL k.d 0)) c0 (fun _ => .matchL k.d 0) :=
  ⟨⟨lastB_last (by decide +kernel), readyB_ready (by decide +kernel), by decide +kernel, othersB_others (by decide +kernel)⟩,
    lastB_last (by decide +kernel), readyB_ready (by decide +kernel), by decide +kernel, othersB_others (by decide +kernel)⟩
theorem witness_VotesAndShuffles_shfl : let f := ai (.g 2) (.g 4) 1
    Last (duo (.shfl f.d .idx 6 1 9 1)) c0 ∧ Ready (duo (.shfl f.d .idx 6 1 9 1)) c0 H (f0Srcs f 1 1 1) [(f.d, 1), (.p 1, 1)] ∧
    valA (duo (.shfl f.d .idx 6 1 9 1)) c0 f = 0 ∧ zImm f (valB (duo (.shfl f.d .idx 6 1 9 1)) c0 f) = 1 ∧
    Others (duo (.shfl f.d .idx 6 1 9 1)) c0 (fun m => .shfl f.d .idx 6 1 (if m = 0 then 0 else 9) 1) :=
  ⟨lastB_last (by decide +kernel), readyB_ready (by decide +kernel), by decide +kernel, by decide +kernel,
    othersB_others (by decide +kernel)⟩
theorem witness_SkeinRegisters :
    (Last (duo (.umask false)) c0 ∧ Ready (duo (.umask false)) c0 H [] [] ∧ Others (duo (.umask false)) c0 (fun _ => .umask false)) ∧
    (Last (duo (.special .hvec 5)) c0 ∧ Ready (duo (.special .hvec 5)) c0 H [⟨.g 2, 2, false⟩] [] ∧ rd64 (duo (.special .hvec 5)) c0 (.g 2) = 0 ∧
      Others (duo (.special .hvec 5)) c0 (fun m => .special .hvec (if m = 0 then 0 else 5))) ∧
    (Last (duo (.special .upend 15)) c0 ∧ Ready (duo (.special .upend 15)) c0 H [⟨.g 2, 1, false⟩] [] ∧
      Others (duo (.special .upend 15)) c0 (fun m => .special .upend (if m = 0 then 0 else 15))) :=
  ⟨⟨lastB_last (by decide +kernel), readyB_ready (by decide +kernel), othersB_others (by decide +kernel)⟩,
    ⟨lastB_last (by decide +kernel), readyB_ready (by decide +kernel), by decide +kernel, othersB_others (by decide +kernel)⟩,
    lastB_last (by decide +kernel), readyB_ready (by decide +kernel), othersB_others (by decide +kernel)⟩
/-- FMT 3 operands. -/
abbrev f3 (a : Opd) (disp : BitVec 32) : F3 := { j := 0, enr := true, uni := false, a := a, disp := disp }

theorem checked_of {s : State} {c : Cx} {h : Hdr} {srcs : List Src} {tgt : Dword} (a : s.svc = false)
    (b : (checkTarget (starting s c h srcs) c tgt).1.svc = false) (d : (checkTarget (starting s c h srcs) c tgt).2 = none) :
    Checked s (checkTarget (starting s c h srcs) c tgt).1 c h srcs tgt := ⟨⟨a, b⟩, Prod.ext rfl d⟩

def exOk {ε α : Type} : Except ε α → Bool
  | .ok _ => true
  | .error _ => false

theorem exOk_ok {σ ε α : Type} {x : σ × Except ε α} (h : exOk x.2 = true) : ∃ u v, x = (u, .ok v) := by
  obtain ⟨u, x⟩ := x
  cases x with
  | ok v => exact ⟨u, v, rfl⟩
  | error e => cases h

-- slot 0 of the line at address 0 has its TGT bit set, and slot 1 has not
theorem witness_ControlTransfers_branch : Ready base c0 H [] [] ∧
    ∃ u, Checked base u c0 H [] (branchTarget (base.thr c0).pc (f3 .z 0).disp) :=
  ⟨readyB_ready (by decide +kernel), _, checked_of (by decide +kernel) (by decide +kernel) (by decide +kernel)⟩
theorem witness_ControlTransfers_indirect : Ready base c0 H [⟨.g 2, 1, false⟩] [] ∧ Ready base c0 H [⟨.g 2, 2, false⟩] [] ∧
    (∃ u, Checked base u c0 H [⟨.g 2, 1, false⟩] (brxTarget base c0 true (f3 (.g 2) 0))) ∧
    (∃ u, Checked base u c0 H [⟨.g 2, 2, false⟩] (brxTarget base c0 false (f3 (.g 2) 0))) ∧
    ∃ u, Checked base u c0 H [⟨.g 2, 2, false⟩] (rd64 base c0 (.g 2)) :=
  ⟨readyB_ready (by decide +kernel), readyB_ready (by decide +kernel),
    ⟨_, checked_of (by decide +kernel) (by decide +kernel) (by decide +kernel)⟩,
    ⟨_, checked_of (by decide +kernel) (by decide +kernel) (by decide +kernel)⟩,
    _, checked_of (by decide +kernel) (by decide +kernel) (by decide +kernel)⟩
theorem witness_ControlTransfers_call : Ready base c0 H [] [(.g 126, 2)] ∧ isS (.g 126) = false ∧
    Ready base c0 H [⟨.g 2, 2, false⟩] [(.g 0, 2)] := ⟨readyB_ready (by decide +kernel), rfl, readyB_ready (by decide +kernel)⟩
-- R59: a PC names slots 0 to 4 of its line
theorem witness_ControlTransfers_check : namesSlot 5 = false ∧ namesSlot 4 = true ∧ ∃ u l, fetchLine base c0 (lineOf 4) = (u, .ok l) :=
  ⟨by decide, by decide, exOk_ok (by decide +kernel)⟩
theorem witness_ControlTransfers_uniform : let r : Rdv := .sreg (.s 62) true 1 8 (some 0) none
    Last (duo r) c0 ∧ Others (duo r) c0 (fun m => .sreg (.s 62) true (nextPc ((duo r).thr c0).pc) (if m = 0 then 0 else 8) (some 0) none) ∧
    Ready (duo r) c0 H [] [(.s 62, 2)] ∧ (∃ u, Checked (duo r) u c0 H [] 0) ∧ branchTarget ((duo r).thr c0).pc (f3 (.s 62) 0).disp = 0 ∧
    Ready (duo r) c0 H [⟨.g 2, 2, false⟩] [(.s 62, 2)] ∧ (∃ u, Checked (duo r) u c0 H [⟨.g 2, 2, false⟩] 0) ∧ rd64 (duo r) c0 (.g 2) = 0 :=
  ⟨lastB_last (by decide +kernel), othersB_others (by decide +kernel), readyB_ready (by decide +kernel),
    ⟨_, checked_of (by decide +kernel) (by decide +kernel) (by decide +kernel)⟩, by decide +kernel, readyB_ready (by decide +kernel),
    ⟨_, checked_of (by decide +kernel) (by decide +kernel) (by decide +kernel)⟩, by decide +kernel⟩

theorem witness_RejoinYieldAndWaits : Ready base c0 H [] [] ∧ Tab.get 0 (base.sk (.blk 0) 0).enrolled 15 = 0 ∧
    (Ready base c0 H [⟨.g 2, 1, false⟩] [] ∧ min 65535 ((rd32 base c0 0 (.g 2)).toNat + (0 : BitVec 16).toNat) = 0 ∧
      min 65535 ((rd32 base c0 0 (.g 2)).toNat + (0xFFFF : BitVec 16).toNat) ≠ 0) ∧
    Ready base c0 H [⟨.g 2, 2, false⟩] [] ∧ (c0.grp.cslot base).eng 7 = true ∧
    (rd64 base c0 (.g 2) + (0 : BitVec 32).zeroExtend 64).toNat ≤ completedOf base c0 7 ∧
    completedOf base c0 7 < (rd64 base c0 (.g 2) + (1 : BitVec 32).zeroExtend 64).toNat :=
  ⟨readyB_ready (by decide +kernel), by decide +kernel, ⟨readyB_ready (by decide +kernel), by decide +kernel, by decide +kernel⟩,
    readyB_ready (by decide +kernel), by decide +kernel, by decide +kernel, by decide +kernel⟩
/-- The same two threads, both enrolled in J0, of which the second has arrived there. -/
def joined : State := (bodyWith (fun b => { b with
  threads := b.threads ++ [(1, { Thread.start 8 with st := .waiting (.join 0) })]
  skeins := [(0, { Skein.start with enrolled := [(0, 3)], arrived := [(0, 2)] })] }) base)
theorem witness_RejoinYieldAndWaits_join : Ready joined c0 H [] [] ∧
    (((threadsOf joined c0.grp).map (·.1)).Pairwise (· < ·) ∧ (Tab.get 0 (joined.sk c0.grp c0.skein).enrolled 0).getLsbD c0.lane = true ∧
    ∀ m ∈ joined.liveSk c0.grp c0.skein, m ≠ c0.n → (joined.thr ⟨c0.grp, m⟩).st = .waiting (.join 0) ∧
      (Tab.get 0 (joined.sk c0.grp c0.skein).arrived 0).getLsbD (m % 64) = true) :=
  ⟨readyB_ready (by decide +kernel), by decide +kernel⟩
theorem witness_EndsAndReturns : Ready base c0 H [] [] ∧ c0.grp.isAct = false ∧ base.liveSk c0.grp c0.skein = [0] ∧
    namesSlot (base.thr c0).epc = true ∧
    (let s := thrWith (fun t => { t with epc := 5 }) base
     Ready s c0 H [] [] ∧ namesSlot (s.thr c0).epc = false) :=
  ⟨readyB_ready (by decide +kernel), rfl, by decide +kernel, by decide +kernel, readyB_ready (by decide +kernel), by decide +kernel⟩
/-- Two threads of which the second waits as given, its launch of one gang of its blocks, or resident. -/
def barring (w : Wait) (f : Launch → Launch) : State := launchWith f (bodyWith (fun b => { b with
  threads := b.threads ++ [(1, { Thread.start 8 with st := .waiting w })] }) base)
def setWord0 (n : Nat) (l : Launch) : Launch := { l with pkt := l.pkt.set 0 (l.word 0 ||| .ofNat 64 n) }
def setWord1 (n : Nat) (l : Launch) : Launch := { l with pkt := l.pkt.set 1 (l.word 1 ||| .ofNat 64 n) }
theorem witness_Barriers_bar : let s := barring .bar id
    Ready s c0 H [] [] ∧ heldBy s c0 = false ∧ ((threadsOf s c0.grp).map (·.1)).Pairwise (· < ·) ∧
    ∀ m ∈ s.live c0.grp, m ≠ c0.n → (s.thr ⟨c0.grp, m⟩).st = .waiting .bar :=
  ⟨readyB_ready (by decide +kernel), by decide +kernel⟩
theorem witness_Barriers_barg : let s := barring .barg (setWord1 (2 * 2 ^ 45))
    Ready s c0 H [] [] ∧ heldBy s c0 = false ∧ (s.blk 0).st ≠ .absent ∧ (c0.grp.launch s).k ≠ 0 ∧ c0.grp.rollback s = false ∧
    (s.blocks.map (·.1)).Pairwise (· < ·) ∧
    (∀ g ∈ gangOf s 0, ((threadsOf s (.blk g)).map (·.1)).Pairwise (· < ·) ∧
        ∀ m ∈ s.live (.blk g), (⟨.blk g, m⟩ : Cx) ≠ c0 → (s.thr ⟨.blk g, m⟩).st = .waiting .barg) :=
  ⟨readyB_ready (by decide +kernel), by decide +kernel⟩
theorem witness_Barriers_barw : let s := launchWith (setWord0 (2 ^ 5)) base
    Ready s c0 H [] [] ∧ heldBy s c0 = false ∧ c0.grp.isAct = false ∧ (c0.grp.launch s).resident = true ∧ c0.grp.rollback s = false ∧
    Calm s c0 :=
  ⟨readyB_ready (by decide +kernel), by decide +kernel, by decide +kernel, by decide +kernel, by decide +kernel, by decide +kernel, by decide +kernel,
    fun j h => by revert j; decide +kernel⟩
theorem witness_SpecialReads : (∀ r : SReg, Ready base c0 H [] [(.g 126, if r.wide then 2 else 1)]) ∧ (c0.grp.launch base).logOn = 0 :=
  ⟨fun r => readyB_ready (by cases r <;> decide +kernel), by decide +kernel⟩
theorem witness_SpecialWrites : (∀ r : SReg, Ready base c0 H [⟨.g 126, if r.wide then 2 else 1, false⟩] []) ∧
    1 ≤ (c0.grp.cslot base).priv ∧ gateForeign base c0 = false ∧
    (∀ r : SReg, Ready (priv0 base) c0 H [⟨.g 126, if r.wide then 2 else 1, false⟩] []) ∧ (c0.grp.cslot (priv0 base)).priv = 0 :=
  ⟨fun r => readyB_ready (by cases r <;> decide +kernel), by decide +kernel, by decide +kernel,
    fun r => readyB_ready (by cases r <;> decide +kernel), by decide +kernel⟩
/-- A handler: SR.HVEC at slot 0 of the second line, whose slot 1 has its TGT bit set, and a thread-local window of 64 bytes. -/
def handled : State := (launchWith (fun l => { l with pkt := (l.pkt.set 7 0x2000).set 8 (l.word 8 ||| 64) })
  (bodyWith (fun b => { b with skeins := [(0, { Skein.start with hvec := 64 })] }) base)).store 0x4007C [2]
theorem pair_of {α β : Type} {x : α × β} {b : β} (h : x.2 = b) : x = (x.1, b) := Prod.ext rfl h
def trapEv : Ev := { code := 0x106, arg := 7, addr := 0, synd := 0 }
theorem witness_TrapsAndBreakpoints_handler : Ready handled c0 H [] [] ∧ handled.svc = false ∧ c0.grp.rollback handled = false ∧
    handlerRefuses handled c0 = none ∧ ∃ v, takeTrap (afterTrap handled c0 H) c0 trapEv 1 = (v, .handler) ∧ v.svc = false :=
  ⟨readyB_ready (by decide +kernel), by decide +kernel, by decide +kernel, by decide +kernel, _, pair_of (by decide +kernel), by decide +kernel⟩
theorem witness_TrapsAndBreakpoints_stop : Ready base c0 H [] [] ∧ base.svc = false ∧ c0.grp.rollback base = false ∧
    (base.sk c0.grp c0.skein).hvec = 0 ∧ (base.blk 0).halted = false ∧ (base.ctx (c0.grp.ctx base)).bken = false :=
  ⟨readyB_ready (by decide +kernel), by decide +kernel⟩
theorem witness_TrapsAndBreakpoints_breakpoint : let s := base.modCtx 1 fun x => { x with bken := true }
    Ready s c0 H [] [] ∧ (s.ctx (c0.grp.ctx s)).bken = true ∧ (s.thr c0).skipBp = false :=
  ⟨readyB_ready (by decide +kernel), by decide +kernel⟩

-- R75: IADDC into s63 and p15, the lower lane's value kept; a pair into s62
theorem witness_UniformResults : let f := abc (.s 63) (.g 2) (.g 3) (.p 0)
    let r : Rdv := .sreg (.s 63) false 9 1 none (some (15, true))
    Last (duo r) c0 ∧ Computes (duo r) c0 (.iaddc H 15 f) H (.s 63) (f0Srcs f 1 1 1) [(.s 63, 1), (.p 15, 1)] false 1 (some (15, false)) ∧
    Ready (duo r) c0 H (f0Srcs f 1 1 1) [(.s 63, 1), (.p 15, 1)] ∧
    Others (duo r) c0 (fun m => .sreg (.s 63) false (if m = 0 then 1 else 9) (nextPc ((duo r).thr c0).pc) none (some (15, m != 0))) :=
  ⟨lastB_last (by decide +kernel), .iaddc _ _ _ 1 (by decide +kernel), readyB_ready (by decide +kernel), othersB_others (by decide +kernel)⟩
theorem witness_UniformResults_pair : let f := abc (.s 62) (.g 2) (.g 4) .z
    let r : Rdv := .sreg (.s 62) true 9 1 none none
    Last (duo r) c0 ∧ (∃ v, Computes (duo r) c0 (.iadd64 H f) H (.s 62) (f0Srcs f 2 2 1) [(.s 62, 2)] true v none) ∧
    Ready (duo r) c0 H (f0Srcs f 2 2 1) [(.s 62, 2)] ∧
    Others (duo r) c0 (fun _ => .sreg (.s 62) true 9 (nextPc ((duo r).thr c0).pc) none none) :=
  ⟨lastB_last (by decide +kernel), ⟨_, .wide _ _ (abc (.s 62) (.g 2) (.g 4) .z) _ rfl⟩, readyB_ready (by decide +kernel), othersB_others (by decide +kernel)⟩
theorem witness_ReductionsAndScans : let f := abc (.g 2) (.g 4) .z .z
    let r : Rdv := .redux f.d .add 3
    let q : Rdv := .scan f.d .add true 3
    (Last (duo r) c0 ∧ isS f.d = false ∧ Ready (duo r) c0 H (f0Srcs f 1 1 1) [(f.d, 1)] ∧ valA (duo r) c0 f = 0 ∧
      Others (duo r) c0 (fun m => .redux f.d .add (if m = 0 then 0 else 3))) ∧
    (Last (duo q) c0 ∧ Ready (duo q) c0 H (f0Srcs f 1 1 1) [(f.d, 1)] ∧ valA (duo q) c0 f = 0 ∧
      Others (duo q) c0 (fun m => .scan f.d .add true (if m = 0 then 0 else 3))) :=
  ⟨⟨lastB_last (by decide +kernel), rfl, readyB_ready (by decide +kernel), by decide +kernel, othersB_others (by decide +kernel)⟩,
    lastB_last (by decide +kernel), readyB_ready (by decide +kernel), by decide +kernel, othersB_others (by decide +kernel)⟩
theorem witness_ReductionsAndScans_uniform : let f := abc (.s 0) (.g 4) .z .z
    let r : Rdv := .redux f.d .max 3
    Last (duo r) c0 ∧ f.d = .s 0 ∧ Ready (duo r) c0 H (f0Srcs f 1 1 1) [(f.d, 1)] ∧ valA (duo r) c0 f = 0 ∧
    Others (duo r) c0 (fun m => .redux f.d .max (if m = 0 then 0 else 3)) :=
  ⟨lastB_last (by decide +kernel), rfl, readyB_ready (by decide +kernel), by decide +kernel, othersB_others (by decide +kernel)⟩

/-- A memory operand in the page at address 0 of [g2 + off], of 2^size bytes, with g2 a pair that holds 0. -/
abbrev at_ (size : BitVec 3) (off : BitVec 24) : F2 := mo (.g 2) size off
/-- The page's translation is held, as the walk leaves it. -/
def leaf0 : TlbEnt := { leaf := 0x4011E, lvl := 3, epa := 0x30000 }
def mapped : State := { base with tlb := [(tlbKey 1 0, leaf0)] }
-- the last 4 bytes of the page, and the last 128 of the page after it, which nothing maps
theorem witness_Loads : Ready base c0 H (ldSrcs (at_ 2 0xFFFC) 2) [(.g 127, groupRegs (width 2))] ∧ base.svc = false ∧
    watchAt base c0 (ea base c0 (at_ 2 0xFFFC) (ldSrcs (at_ 2 0xFFFC) 2)) (width 2) true false = none ∧
    (∃ u bs, u.svc = false ∧ loadAt (starting base c0 H (ldSrcs (at_ 2 0xFFFC) 2)) (threadAgent base c0)
      (ea base c0 (at_ 2 0xFFFC) (ldSrcs (at_ 2 0xFFFC) 2)) (width 2) 0 true = (u, .bytes bs)) ∧
    (∃ u e, u.svc = false ∧ loadAt (starting base c0 H (ldSrcs (at_ 2 0xFFFE) 2)) (threadAgent base c0)
      (ea base c0 (at_ 2 0xFFFE) (ldSrcs (at_ 2 0xFFFE) 2)) (width 2) 0 true = (u, .ev e)) :=
  ⟨readyB_ready (by decide +kernel), by decide +kernel, by decide +kernel,
    ⟨_, [0, 0, 0, 0], by decide +kernel, pair_of (by decide +kernel)⟩,
    _, { code := 513, arg := 0, addr := 65536, synd := 2097423 }, by decide +kernel, pair_of (by decide +kernel)⟩
/-- The second page is there with KIND 3: it is not resident. -/
def paged : State := base.store 0x30008 [0x1F, 0, 0, 0, 0, 0, 0, 0]
/-- It is a page of window 0, a data window of 64 bytes. -/
def peered : State := (base.store 0x30008 (toBytes 8 (2 + 4 + 8 + 256 + 2 * 2 ^ 10 + 2 ^ 16 * (48 * 2 ^ 30)))).setWin 0 0
  { Win.none with w0 := 1, w5 := 0x10000 }
theorem witness_Loads_absent : let s := paged
    Ready s c0 H (ldSrcs (at_ 2 0xFFFE) 2) [(.g 1, groupRegs (width 2))] ∧
    watchAt s c0 (ea s c0 (at_ 2 0xFFFE) (ldSrcs (at_ 2 0xFFFE) 2)) (width 2) true false = none ∧
    (loadAt (starting s c0 H (ldSrcs (at_ 2 0xFFFE) 2)) (threadAgent s c0) (ea s c0 (at_ 2 0xFFFE) (ldSrcs (at_ 2 0xFFFE) 2)) (width 2) 0 true).2 =
      .absent := ⟨readyB_ready (by decide +kernel), by decide +kernel, by decide +kernel⟩
theorem witness_Loads_far : let s := peered
    Ready s c0 H (ldSrcs (at_ 2 0x10000) 2) [(.g 1, groupRegs (width 2))] ∧
    ∃ bs fs, (loadAt (starting s c0 H (ldSrcs (at_ 2 0x10000) 2)) (threadAgent s c0) (ea s c0 (at_ 2 0x10000) (ldSrcs (at_ 2 0x10000) 2))
      (width 2) 0 true).2 = .far bs fs := ⟨readyB_ready (by decide +kernel), [0, 0, 0, 0], [⟨0, 4, 0, 0⟩], by decide +kernel⟩
theorem witness_Stores : Ready base c0 H (stSrcs (.g 124) (at_ 4 0xFFF0) 2) [] ∧ base.svc = false ∧ heldBy base c0 = false ∧
    c0.grp.rollback base = false ∧
    watchAt base c0 (ea base c0 (at_ 4 0xFFF0) (stSrcs (.g 124) (at_ 4 0xFFF0) 2)) (width 4) false true = none ∧
    (∃ u, u.svc = false ∧ storeTo (starting base c0 H (stSrcs (.g 124) (at_ 4 0xFFF0) 2)) (actAgent base c0)
      (ea base c0 (at_ 4 0xFFF0) (stSrcs (.g 124) (at_ 4 0xFFF0) 2)) 0 true true (bytesOf (width 4) (rdGroup base c0 (.g 124) 4)) = (u, .done)) ∧
    (∃ u e, u.svc = false ∧ storeTo (starting base c0 H (stSrcs (.g 124) (at_ 4 0xFFF1) 2)) (actAgent base c0)
      (ea base c0 (at_ 4 0xFFF1) (stSrcs (.g 124) (at_ 4 0xFFF1) 2)) 0 true true (bytesOf (width 4) (rdGroup base c0 (.g 124) 4)) = (u, .ev e)) :=
  ⟨readyB_ready (by decide +kernel), by decide +kernel, by decide +kernel, by decide +kernel, by decide +kernel,
    ⟨_, by decide +kernel, pair_of (by decide +kernel)⟩,
    _, { code := 513, arg := 0, addr := 65536, synd := 2097423 }, by decide +kernel, pair_of (by decide +kernel)⟩
theorem witness_Stores_elsewhere : let f := at_ 2 0x10000
    Ready paged c0 H (stSrcs (.g 1) f 2) [] ∧ Ready peered c0 H (stSrcs (.g 1) f 2) [] ∧
    (storeTo (starting paged c0 H (stSrcs (.g 1) f 2)) (actAgent paged c0) (ea paged c0 f (stSrcs (.g 1) f 2)) 0 true true
      (bytesOf (width 2) (rdGroup paged c0 (.g 1) 1))).2 = .absent ∧
    (storeTo (starting peered c0 H (stSrcs (.g 1) f 2)) (actAgent peered c0) (ea peered c0 f (stSrcs (.g 1) f 2)) 0 true true
      (bytesOf (width 2) (rdGroup peered c0 (.g 1) 1))).2 = .far [⟨0, 4, 0, 0⟩] :=
  ⟨readyB_ready (by decide +kernel), readyB_ready (by decide +kernel), by decide +kernel, by decide +kernel⟩

/-- The same page of class 0. -/
def leafZero : TlbEnt := { leaf := 0x4001E, lvl := 3, epa := 0x30000 }
def mappedZero : State := { base with tlb := [(tlbKey 1 0, leafZero)] }
-- the last line of the page; of class 0, with dirty bytes in the cluster's copy and with none
theorem witness_PageAccesses_read : Mapped mapped (threadAgent mapped c0) Acc.read 0xFF80 128 leaf0 0x4FF80 ∧
    (∀ b, (threadAgent mapped c0).blk = some b → (mapped.blk b).prov = []) ∧ leafCc leaf0.leaf ≠ 0 ∧
    (threadAgent mapped c0).cluster = some 0 :=
  ⟨⟨by decide +kernel, by decide +kernel, by decide +kernel, by decide +kernel, by decide +kernel, by decide +kernel, by decide +kernel,
    by decide +kernel, by decide +kernel⟩, fun b _ => by
      have : (threadAgent mapped c0).blk = none := by decide +kernel
      simp_all, by decide +kernel, by decide +kernel⟩
/-- The cluster's copy of line 0 of the page of class 0 has its last byte dirty. -/
def soiled : State := { mappedZero with fab := { mappedZero.fab with
  clines := [(clineKey 0 (lineAt 1 0), { CLine.none with st := 2, dirty := 2 ^ 127, data := some (List.replicate 127 0 ++ [9]) })] } }
theorem witness_PageAccesses_dirty : Mapped soiled (threadAgent soiled c0) Acc.read 127 1 leafZero 0x4007F ∧
    (soiled.copyAt 0 (locOf (threadAgent soiled c0) 127)).dirty ≠ 0 ∧ (threadAgent soiled c0).blk = none ∧
    Direct soiled (locOf (threadAgent soiled c0) 127 / 128 * 128) (0x4007F / 128 * 128) (leafMk leafZero.leaf) ∧
    ((mappedZero.copyAt 0 (locOf (threadAgent mappedZero c0) 127)).dirty = 0 ∧ Clean mappedZero (threadAgent mappedZero c0) 127 3 leafZero) :=
  ⟨⟨by decide +kernel, by decide +kernel, by decide +kernel, by decide +kernel, by decide +kernel, by decide +kernel, by decide +kernel,
    by decide +kernel, by decide +kernel⟩, by decide +kernel, by decide +kernel, ⟨by decide +kernel, by decide +kernel⟩, by decide +kernel,
    fun _ _ cl h => by
      have : (threadAgent mappedZero c0).cluster = some 0 := by decide +kernel
      rw [this] at h; cases h; decide +kernel⟩
theorem witness_PageAccesses_write : Mapped mapped (threadAgent mapped c0) Acc.write 0xFFFF 1 leaf0 0x4FFFF ∧
    (threadAgent mapped c0).blk = none ∧ Direct mapped (locOf (threadAgent mapped c0) 0xFFFF) 0x4FFFF (leafMk leaf0.leaf) ∧
    leafCc leaf0.leaf ≠ 0 :=
  ⟨⟨by decide +kernel, by decide +kernel, by decide +kernel, by decide +kernel, by decide +kernel, by decide +kernel, by decide +kernel,
    by decide +kernel, by decide +kernel⟩, by decide +kernel, ⟨by decide +kernel, by decide +kernel⟩, by decide +kernel⟩
theorem witness_PageAccesses_class0 : Mapped mappedZero (threadAgent mappedZero c0) Acc.write 0xFFFF 1 leafZero 0x4FFFF ∧
    (threadAgent mappedZero c0).blk = none ∧
    Direct mappedZero (locOf (threadAgent mappedZero c0) 0xFFFF) 0x4FFFF (leafMk leafZero.leaf) ∧ leafCc leafZero.leaf = 0 :=
  ⟨⟨by decide +kernel, by decide +kernel, by decide +kernel, by decide +kernel, by decide +kernel, by decide +kernel, by decide +kernel,
    by decide +kernel, by decide +kernel⟩, by decide +kernel, ⟨by decide +kernel, by decide +kernel⟩, by decide +kernel⟩
theorem witness_PageAccesses_provisional : let s := rolling mapped
    Mapped s (threadAgent s c0) Acc.write 0xFFFF 1 leaf0 0x4FFFF ∧ (threadAgent s c0).blk = some 0 ∧
    provFits s 0 [⟨0xFFFF, 1, (threadAgent s c0).asids.getD 0 0, 0x4FFFF, leaf0.leaf, none⟩] = true :=
  ⟨⟨by decide +kernel, by decide +kernel, by decide +kernel, by decide +kernel, by decide +kernel, by decide +kernel, by decide +kernel,
    by decide +kernel, by decide +kernel⟩, by decide +kernel, by decide +kernel⟩
theorem witness_StoreFrame : let f := at_ 2 0xFFFC
    Ready mapped c0 H (stSrcs (.g 1) f 2) [] ∧ mapped.svc = false ∧ watchAt mapped c0 (ea mapped c0 f (stSrcs (.g 1) f 2)) (width f.size) false true = none ∧
    heldBy mapped c0 = false ∧ c0.grp.rollback mapped = false ∧
    Mapped mapped (threadAgent mapped c0) Acc.write (ea mapped c0 f (stSrcs (.g 1) f 2)) (width f.size) leaf0 0x4FFFC ∧
    Direct mapped (locOf (threadAgent mapped c0) (ea mapped c0 f (stSrcs (.g 1) f 2))) 0x4FFFC (leafMk leaf0.leaf) ∧ leafCc leaf0.leaf ≠ 0 :=
  ⟨readyB_ready (by decide +kernel), by decide +kernel, by decide +kernel, by decide +kernel, by decide +kernel,
    ⟨by decide +kernel, by decide +kernel, by decide +kernel, by decide +kernel, by decide +kernel, by decide +kernel, by decide +kernel,
    by decide +kernel, by decide +kernel⟩, ⟨by decide +kernel, by decide +kernel⟩, by decide +kernel⟩

/-- An atomic's operands at [g2 + imm]. -/
abbrev fa (d : Opd) (imm : BitVec 16) : FA := { ao d (.g 2) (.g 4) .z 2 with imm := imm }
theorem witness_Atomics : let f := fa (.g 1) 0x7FFC
    atomicOf (.atom H .add f) = some (H, f, .aop .add, false) ∧ (Instr.atom H .add f).wf = true ∧
    Ready mapped c0 H (atomSrcs f (.aop .add)) (atomDsts f false) ∧ eaAtom mapped c0 f (.aop .add) % width f.size = 0 ∧
    watchAt mapped c0 (eaAtom mapped c0 f (.aop .add)) (width f.size) true true = none ∧ heldBy mapped c0 = false ∧ c0.grp.rollback mapped = false ∧
    (c0.grp.launch mapped).logOn = 0 ∧
    Mapped mapped (threadAgent mapped c0) { r := true, w := true, x := false, remoteOk := (AtomKind.aop .add).remoteOk (width f.size) false }
      (eaAtom mapped c0 f (.aop .add)) (width f.size) leaf0 0x47FFC ∧
    Direct mapped (locOf (threadAgent mapped c0) (eaAtom mapped c0 f (.aop .add))) 0x47FFC (leafMk leaf0.leaf) :=
  ⟨rfl, by decide +kernel, readyB_ready (by decide +kernel), by decide +kernel, by decide +kernel, by decide +kernel, by decide +kernel, by decide +kernel,
    ⟨by decide +kernel, by decide +kernel, by decide +kernel, by decide +kernel, by decide +kernel, by decide +kernel, by decide +kernel,
    by decide +kernel, by decide +kernel⟩, ⟨by decide +kernel, by decide +kernel⟩⟩
theorem witness_Atomics_red : let f := fa .z 0
    atomicOf (.red H .add f) = some (H, f, .aop .add, true) ∧ (Instr.red H .add f).wf = true ∧
    Ready mapped c0 H (atomSrcs f (.aop .add)) (atomDsts f true) ∧ eaAtom mapped c0 f (.aop .add) = 0 :=
  ⟨rfl, by decide +kernel, readyB_ready (by decide +kernel), by decide +kernel⟩
theorem witness_Atomics_cas : let f : FA := { ao (.g 124) (.g 2) (.g 4) (.g 8) 4 with imm := 16 }
    atomicOf (.cas128 H f) = some (H, f, .cas, false) ∧ (Instr.cas128 H f).wf = true ∧
    Ready mapped c0 H (atomSrcs f .cas) (atomDsts f false) ∧ eaAtom mapped c0 f .cas % width f.size = 0 :=
  ⟨rfl, by decide +kernel, readyB_ready (by decide +kernel), by decide +kernel⟩
theorem witness_Atomics_alignment : let f := fa (.g 1) 2
    Ready base c0 H (atomSrcs f (.aop .add)) (atomDsts f false) ∧ base.svc = false ∧ eaAtom base c0 f (.aop .add) % width f.size ≠ 0 :=
  ⟨readyB_ready (by decide +kernel), by decide +kernel, by decide +kernel⟩

/-- A launch of 1024 bytes of scratchpad for each block, tiles of producer skein 0, and the matrix engine (R312). -/
def scr : State := launchWith (fun l => setWord0 (2 ^ 15) (setWord1 (16 * 2 ^ 48) l)) base
theorem witness_ScratchpadAccesses : let f := { mo (.g 2) 2 1020 with order := .acqRel }
    Ready scr c0 H (ldSrcs f 1) [(.g 1, groupRegs (width f.size))] ∧ InScratch scr c0.grp (eaScratch scr c0 f (ldSrcs f 1)) (width f.size) ∧
    Ready scr c0 H (stSrcs (.g 1) f 1) [] ∧ InScratch scr c0.grp (eaScratch scr c0 f (stSrcs (.g 1) f 1)) (width f.size) ∧
    heldBy scr c0 = false ∧ (c0.grp.launch scr).logOn = 0 :=
  ⟨readyB_ready (by decide +kernel), ⟨by decide +kernel, by decide +kernel, trivial⟩, readyB_ready (by decide +kernel), ⟨by decide +kernel, by decide +kernel, trivial⟩,
    by decide +kernel, by decide +kernel⟩
theorem witness_ScratchpadAccesses_atoms : let f := { ao (.g 2) (.g 2) (.g 4) .z 3 with imm := 1016 }
    let srcs : List Src := [⟨f.a, 1, f.e.getLsbD 0⟩, ⟨f.b, groupRegs (width f.size), f.e.getLsbD 1⟩]
    Ready scr c0 H srcs [(f.d, groupRegs (width f.size))] ∧
    InScratch scr c0.grp (((rdSrcs scr c0 srcs).getD 0 0).lo + f.imm.signExtend 32).toNat (width f.size) :=
  ⟨readyB_ready (by decide +kernel), ⟨by decide +kernel, by decide +kernel, trivial⟩⟩
theorem witness_ScratchpadAccesses_checks : let f (n : BitVec 24) := mo (.g 2) 2 n
    Ready scr c0 H (ldSrcs (f 1021) 1) [(.g 1, 1)] ∧ eaScratch scr c0 (f 1021) (ldSrcs (f 1021) 1) % width 2 ≠ 0 ∧
    Ready scr c0 H (ldSrcs (f 1024) 1) [(.g 1, 1)] ∧ eaScratch scr c0 (f 1024) (ldSrcs (f 1024) 1) % width 2 = 0 ∧
    scratchLen scr c0.grp < eaScratch scr c0 (f 1024) (ldSrcs (f 1024) 1) + width 2 :=
  ⟨readyB_ready (by decide +kernel), by decide +kernel, readyB_ready (by decide +kernel), by decide +kernel, by decide +kernel⟩

theorem witness_FencesAndMaintenance : let f := at_ 0 0xFF80
    base.svc = false ∧ Ready base c0 H [] [] ∧ heldBy base c0 = false ∧ c0.grp.rollback base = false ∧ Ready base c0 H [⟨f.a, 2, f.ea⟩] [] ∧
    (∀ e ∈ base.ctxs, e.2.levels = []) ∧
    (let s1 := starting base c0 H [⟨f.a, 2, f.ea⟩]
     let lines := spanLines f (rd64 base c0 f.a)
     (∃ u, maintain s1 c0 true lines = (u, none)) ∧ ∃ u, maintain s1 c0 false lines = (u, none)) :=
  ⟨by decide +kernel, readyB_ready (by decide +kernel), by decide +kernel, by decide +kernel, readyB_ready (by decide +kernel), by decide +kernel,
    ⟨_, pair_of (by decide +kernel)⟩, _, pair_of (by decide +kernel)⟩

theorem some_of {σ α : Type} {x : σ × Option α} (h : x.2.isSome = true) : ∃ u e, x = (u, some e) := by
  obtain ⟨u, x⟩ := x
  cases x with
  | some e => exact ⟨u, e, rfl⟩
  | none => cases h
-- a write of the thread held at a home; and a line of an open level of a context without shadow lines
theorem witness_FencesAndMaintenance_waits : let f := at_ 0 0
    (let s := { base with held := [{ pa := 0, loc := 0, bytes := [], owner := 1, level := 1, field := 0, ctx := 1, blk := some 0, thr := 0 }] }
     Ready s c0 H [] [] ∧ heldBy s c0 = true ∧ c0.grp.rollback s = false) ∧
    (let s := soiled.modCtx 1 fun x => { x with levels := [{ scope := .wafer, ranges := [⟨1, 0, 128⟩] }] }
     s.svc = false ∧ Ready s c0 H [⟨f.a, 2, f.ea⟩] [] ∧
       ∃ u e, maintain (starting s c0 H [⟨f.a, 2, f.ea⟩]) c0 true (spanLines f (rd64 s c0 f.a)) = (u, some e)) :=
  ⟨⟨readyB_ready (by decide +kernel), by decide +kernel⟩, by decide +kernel, readyB_ready (by decide +kernel), some_of (by decide +kernel)⟩

theorem comes_of {s : State} {c : Cx} (a : s.pick = { grp := c.grp, thrs := [c.n] }) (b : c.grp.isSlice = false)
    (d : (s.thr c).st = .running) (e : (s.thr c).stop = none) : Comes s c := ⟨a, b, d, e⟩
/-- A thread of changed state. -/
def worn (f : Thread → Thread) : State := thrWith f base
theorem witness_IssueChecks_before : (∃ v, intValue (.iadd H (abc (.g 1) (.g 2) (.g 3) .z)) = some (H, abc (.g 1) (.g 2) (.g 3) .z, v)) ∧
    (let s := base.modCtx 1 fun x => { x with dbg := [(3, { addr := 0, w1 := 1 })] }
     Comes s c0 ∧ (s.thr c0).skipBp = false ∧ breakpointAt s (c0.grp.ctx s) (s.thr c0).pc = some 3) ∧
    (let s := worn fun t => { t with yc := 0 }
     Comes s c0 ∧ breakpointAt s (c0.grp.ctx s) (s.thr c0).pc = none ∧ (s.thr c0).yc = 0) :=
  ⟨⟨_, rfl⟩, ⟨comes_of (by decide +kernel) rfl (by decide +kernel) (by decide +kernel), by decide +kernel⟩,
    comes_of (by decide +kernel) rfl (by decide +kernel) (by decide +kernel), by decide +kernel⟩
theorem witness_IssueChecks_guard : let f := abc (.g 1) (.g 2) (.g 3) .z
    let h : Hdr := { H with gp := 1 }
    (let s := worn fun t => { t with owed := [⟨129, 0⟩] }
     Comes s c0 ∧ boundaryEv s c0 = none ∧ predOwed (s.thr c0) h.gp.toNat = true) ∧
    Comes base c0 ∧ boundaryEv base c0 = none ∧ predOwed (base.thr c0) h.gp.toNat = false ∧
    (namedRegs (abc (.g 127) (.g 64) (.g 3) .z)).any (aboveG (c0.grp.regs (base.modBlk 0 fun b => { b with regs := 64 }))) = true ∧ (namedRegs f).any (aboveG (c0.grp.regs base)) = false ∧
    guardOf h (base.thr c0).p = false ∧ guardOf H (base.thr c0).p = true :=
  ⟨⟨comes_of (by decide +kernel) rfl (by decide +kernel) (by decide +kernel), by decide +kernel⟩,
    comes_of (by decide +kernel) rfl (by decide +kernel) (by decide +kernel), by decide +kernel⟩
theorem witness_IssueChecks_empty : let f := abc (.g 1) (.g 2) (.g 3) .z
    (let s := worn fun t => { t with empty := [(2, true)] }
     Comes s c0 ∧ boundaryEv s c0 = none ∧ (∃ x ∈ emptySrcs s c0 (f0Srcs f 1 1 1), x.e = false) ∧
       emptySrcs s c0 (f0Srcs { f with e := 1 } 1 1 1) = [⟨.g 2, 1, true⟩] ∧ dstEmpty (s.thr c0) (f.d, 1) = false ∧
       (f0Srcs { f with e := 1 } 1 1 1).any (fun x => opdOwed (s.thr c0) x.o) = false) ∧
    let s := worn fun t => { t with empty := [(1, true)] }
    Comes s c0 ∧ boundaryEv s c0 = none ∧ dstEmpty (s.thr c0) (f.d, 1) = true :=
  ⟨⟨comes_of (by decide +kernel) rfl (by decide +kernel) (by decide +kernel), by decide +kernel⟩,
    comes_of (by decide +kernel) rfl (by decide +kernel) (by decide +kernel), by decide +kernel⟩
/-- Activation 0 of block 0's thread, with one result, in a space of 64 bytes. -/
def inside : State := { (thrWith (fun t => { t with st := .inAct 0 }) base) with
  pick := { grp := .act 0, thrs := [0] }
  acts := [(0, { Act.none with live := true, entered := true, begun := true, ctx := 1, res := 1, frame := 8, spLen := 64
                               threads := [(0, Thread.start 0)], callers := [(0, { retPc := 1 })] })] }
theorem witness_IssueChecks_queue : let c : Cx := ⟨.act 0, 0⟩
    let f := abc (.g 1) (.q 7) (.g 3) .z
    Comes inside c ∧ boundaryEv inside c = none ∧ predOwed (inside.thr c) H.gp.toNat = false ∧
    (namedRegs f).any (aboveG (c.grp.regs inside)) = false ∧ guardOf H (inside.thr c).p = true ∧ ∃ x ∈ f0Srcs f 1 1 1, ∃ q, x.o = .q q :=
  ⟨comes_of (by decide +kernel) rfl (by decide +kernel) (by decide +kernel), by decide +kernel, by decide +kernel, by decide +kernel, by decide +kernel,
    ⟨.q 7, 1, false⟩, by decide +kernel, 7, rfl⟩
theorem witness_ScratchpadAccesses_inside : let c : Cx := ⟨.act 0, 0⟩
    let f := mo (.g 2) 2 60
    Ready inside c H (ldSrcs f 1) [(.g 1, groupRegs (width f.size))] ∧ InScratch inside c.grp (eaScratch inside c f (ldSrcs f 1)) (width f.size) :=
  ⟨readyB_ready (by decide +kernel), ⟨by decide +kernel, by decide +kernel, ⟨by decide +kernel, by decide +kernel⟩⟩⟩
theorem witness_IssueChecks_privilege : (Stands base c0 H ∧ (c0.grp.cslot base).priv = 1) ∧
    (Stands (priv0 base) c0 H ∧ (c0.grp.cslot (priv0 base)).priv = 0) ∧
    (Ready (rolling base) c0 H [] [] ∧ Scope.wafer ≠ Scope.block ∧ c0.grp.rollback (rolling base) = true) :=
  ⟨⟨standsB_stands (by decide +kernel), by decide +kernel⟩, ⟨standsB_stands (by decide +kernel), by decide +kernel⟩,
    readyB_ready (by decide +kernel), by decide, by decide +kernel⟩
theorem exOk_is {σ ε α : Type} {x : σ × Except ε α} (h : exOk x.2 = true) : ∃ v, x = (x.1, .ok v) := by
  obtain ⟨u, x⟩ := x
  cases x with
  | ok v => exact ⟨v, rfl⟩
  | error e => cases h

/-- BF16 elements, rank 2, 64 by 64, row stride 256 (R239). -/
def td0 : BitVec 512 := .ofNat 512 (0x1000 + 2 * 2 ^ 57 + 2 * 2 ^ 60 + 64 * 2 ^ 64 + 64 * 2 ^ 96 + 256 * 2 ^ 224)
def box64 : Tile := { Tile.none with rows := 64, pitch := 256 }
def strip : Tile := { Tile.none with rows := 64, pitch := 32 }
/-- Tiles 0 and 63 EMPTY, 1 READY, 2 a READY and 3 an EMPTY scale tile; tensor identifiers 0, and 1 of a convolution; registers of a
region group from g8 with a box of 32 by 1, and operands at their ends. -/
def tiled : State := thrWith (fun t => { t with g := [(13, 32), (16, 1), (20, 960), (21, 0x200020), (22, 0x1000), (24, 1008)] })
  (bodyWith (fun y => { y with
    tiles := [(0, box64), (1, { box64 with st := .ready }), (2, { strip with st := .ready }), (3, strip), (63, box64)]
    tids := [(0, { img := td0, valid := true, code := 0 }), (1, { img := td0 ||| .ofNat 512 (2 ^ 510), valid := true, code := 0 })] }) scr)
theorem xroom (tc : Nat) (h : (c0.grp.cslot tiled).eng tc = true) (r : tiled.tcOpen (c0.grp.core tiled) (c0.grp.slot tiled) tc < 16) :
    HasRoom tiled c0 tc := ⟨h, r, by decide +kernel⟩
theorem tile_own {s : State} {c : Cx} {t : Nat} (h : t < tileCount s c.grp) : OwnTile s c t := h
theorem tensor_own {s : State} {c : Cx} {x : Nat} (h : x < tensorCount s c.grp) : OwnTensor s c x := h
abbrev fillSrcs : List Src := [⟨.g 8, 8, false⟩, ⟨.g 24, 1, false⟩]
theorem witness_TileLoads : Ready tiled c0 H fillSrcs [(.g 126, 2)] ∧ c0.grp.isAct = false ∧ HasRoom tiled c0 3 ∧
    c0.skein = (c0.grp.launch tiled).prod ∧ OwnTile tiled c0 63 ∧ OwnTensor tiled c0 0 ∧ OwnTensor tiled c0 1 ∧ (tileOf tiled c0 63).st = .empty ∧
    (OwnTile tiled c0 1 ∧ (tileOf tiled c0 1).st = .ready) ∧ (tensorOf tiled c0 0).valid = true ∧ (tensorOf tiled c0 1).valid = true ∧
    tdConv (tensorOf tiled c0 1).img = true ∧ BarrierOk tiled c0 (.g 24) ((rdSrcs tiled c0 fillSrcs).getD 1 0) ∧
    (∀ conv, tileBoxEv (tileOf tiled c0 63) td0 (boxOf tiled c0 (.g 8)) (tdSwz td0) conv = none) :=
  ⟨readyB_ready (by decide +kernel), rfl, xroom 3 (by decide +kernel) (by decide +kernel), by decide +kernel,
    tile_own (by decide +kernel), tensor_own (by decide +kernel), tensor_own (by decide +kernel), by decide +kernel,
    ⟨tile_own (by decide +kernel), by decide +kernel⟩, by decide +kernel, by decide +kernel, by decide +kernel,
    .inr ⟨by decide +kernel, by decide +kernel, trivial⟩, by decide +kernel⟩
-- a box of no elements, in g32 to g39
abbrev nothing : List Src := [⟨.g 32, 8, false⟩, ⟨.g 24, 1, false⟩]
theorem witness_TileLoads_nothing : Ready tiled c0 H nothing [(.g 126, 2)] ∧ (boxOf tiled c0 (.g 32)).box 0 = 0 ∧
    (boxOf tiled c0 (.g 8)).box 0 ≠ 0 ∧ tileBoxEv (tileOf tiled c0 63) td0 (boxOf tiled c0 (.g 32)) (tdSwz td0) false = none :=
  ⟨readyB_ready (by decide +kernel), by decide +kernel, by decide +kernel, by decide +kernel⟩
theorem witness_TileStoresAndMulticasts_nothing : Ready tiled c0 H [⟨.g 32, 8, false⟩] [(.g 0, 2)] ∧ tiled.svc = false ∧
    traceOn tiled (tiled.ctx (c0.grp.launch tiled).ctx).vf 0 = false ∧
    tileBoxEv (tileOf tiled c0 1) (tensorOf tiled c0 0).img (boxOf tiled c0 (.g 32)) (tileOf tiled c0 1).swz false = none ∧
    Ready tiled c0 H nothing [(.g 0, 2)] ∧ bufBoxEv 7 (tensorOf tiled c0 0).img (boxOf tiled c0 (.g 32)) = none ∧
    Ready tiled c0 H [⟨.g 32, 8, false⟩, ⟨.g 16, 2, false⟩, ⟨.g 24, 1, false⟩] [(.g 0, 2)] ∧
    wholeBytes (tdElem td0).bits ((boxOf tiled c0 (.g 32)).box 0) = true ∧ c0.grp.rollback tiled = false ∧
    (let s := bodyWith (fun y => { y with tiles := Tab.put y.tiles 63 { box64 with st := .filling, rx := true } }) tiled
     maskLegal s (c0.grp.block s) 1 = true ∧ mcastBlocks s (c0.grp.block s) 1 = [0] ∧ (s.blk 0).st = .resident ∧
       ((s.blk 0).body.tile 63).armed = true ∧ mcFits ((s.blk 0).body.tile 63) (tensorOf s c0 0).img (boxOf s c0 (.g 32)) = true) :=
  ⟨readyB_ready (by decide +kernel), by decide +kernel, by decide +kernel, by decide +kernel, readyB_ready (by decide +kernel), by decide +kernel,
    readyB_ready (by decide +kernel), by decide +kernel⟩
theorem witness_TileStoresAndMulticasts : Ready tiled c0 H [⟨.g 8, 8, false⟩] [(.g 0, 2)] ∧ HasRoom tiled c0 0 ∧
    (OwnTile tiled c0 1 ∧ (tileOf tiled c0 1).st = .ready ∧ (tileOf tiled c0 1).readers = 0) ∧
    tileBoxEv (tileOf tiled c0 1) (tensorOf tiled c0 0).img (boxOf tiled c0 (.g 8)) (tileOf tiled c0 1).swz false = none ∧
    (Ready tiled c0 H fillSrcs [(.g 0, 2)] ∧ (c0.grp.launch tiled).matx = true ∧ bufBoxEv 7 (tensorOf tiled c0 0).img (boxOf tiled c0 (.g 8)) = none) ∧
    (Ready tiled c0 H [⟨.g 8, 8, false⟩, ⟨.g 16, 2, false⟩, ⟨.g 24, 1, false⟩] [(.g 0, 2)] ∧
      wholeBytes (tdElem td0).bits ((boxOf tiled c0 (.g 8)).box 0) = true ∧ maskLegal tiled (c0.grp.block tiled) (rd64 tiled c0 (.g 16)).toNat = true) :=
  ⟨readyB_ready (by decide +kernel), xroom 0 (by decide +kernel) (by decide +kernel),
    ⟨tile_own (by decide +kernel), by decide +kernel, by decide +kernel⟩, by decide +kernel,
    ⟨readyB_ready (by decide +kernel), by decide +kernel, by decide +kernel⟩, readyB_ready (by decide +kernel), by decide +kernel, by decide +kernel⟩
theorem witness_TensorsAndTiles_xdef : Ready tiled c0 H [⟨.g 20, 1, false⟩] [(.g 1, 1)] ∧ OwnTensor tiled c0 255 ∧
    InScratch tiled c0.grp ((rdSrcs tiled c0 [⟨.g 20, 1, false⟩]).getD 0 0).toNat 64 ∧ Ready tiled c0 H [⟨.g 20, 1, false⟩] [] ∧ xdefCode td0 = 0 :=
  ⟨readyB_ready (by decide +kernel), tensor_own (by decide +kernel), ⟨by decide +kernel, by decide +kernel, trivial⟩, readyB_ready (by decide +kernel),
    by decide +kernel⟩
theorem witness_TensorsAndTiles_tiles : let srcs : List Src := [⟨.g 4, 1, false⟩, ⟨.g 21, 1, false⟩]
    Ready tiled c0 H srcs [] ∧ OwnTile tiled c0 63 ∧ (tileOf tiled c0 63).st = .empty ∧
    ((rdSrcs tiled c0 srcs).getD 0 0).toNat = 0 ∧ ((rdSrcs tiled c0 srcs).getD 1 0).toNat = 0x200020 ∧ 0 + 0x20 * 0x20 ≤ scratchLen tiled c0.grp ∧
    (Ready tiled c0 H [] [] ∧ OwnTile tiled c0 1 ∧ (tileOf tiled c0 1).st = .ready ∧ (tileOf tiled c0 1).readers = 0 ∧ tiled.svc = false ∧
      traceOn tiled (tiled.ctx (c0.grp.launch tiled).ctx).vf 0 = false) ∧
    Ready tiled c0 H [] [(.g 0, 2)] ∧ OwnTile tiled c0 0 ∧ (c0.grp.cslot tiled).eng 7 = true ∧ OwnTensor tiled c0 255 :=
  ⟨readyB_ready (by decide +kernel), tile_own (by decide +kernel), by decide +kernel, by decide +kernel, by decide +kernel, by decide +kernel,
    ⟨readyB_ready (by decide +kernel), tile_own (by decide +kernel), by decide +kernel⟩, readyB_ready (by decide +kernel),
    tile_own (by decide +kernel), by decide +kernel, tensor_own (by decide +kernel)⟩
theorem witness_TransactionBarriers : let one : List Src := [⟨.g 24, 1, false⟩]
    let two : List Src := [⟨.g 24, 1, false⟩, ⟨.g 4, 1, false⟩]
    let w := ofBytes ((List.range 16).map fun i => scratchByte tiled c0.grp (((rdSrcs tiled c0 one).getD 0 0).toNat + i))
    InScratch tiled c0.grp ((rdSrcs tiled c0 one).getD 0 0).toNat 16 ∧ Ready tiled c0 H two [] ∧ Ready tiled c0 H one [(.g 1, 1)] ∧
    Ready tiled c0 H two [(.g 1, 1)] ∧ heldBy tiled c0 = false ∧ w % 16 ≠ (((rdSrcs tiled c0 two).getD 1 0).toNat + (15 : BitVec 4).toNat) % 16 ∧
    w % 16 = (((rdSrcs tiled c0 two).getD 1 0).toNat + (0 : BitVec 4).toNat) % 16 :=
  ⟨⟨by decide +kernel, by decide +kernel, trivial⟩, readyB_ready (by decide +kernel), readyB_ready (by decide +kernel), readyB_ready (by decide +kernel),
    by decide +kernel, by decide +kernel, by decide +kernel⟩
theorem witness_TransactionBarriers_step : 15 < 16 ∧ 2 ^ 12 - 1 < 2 ^ 12 ∧ 2 ^ 16 - 1 < 2 ^ 16 ∧ 2 ^ 32 - 1 < 2 ^ 32 ∧ 2 ^ 48 - 1 < 2 ^ 48 := by
  decide
/-- The parameter block of a 64 by 64 MMA of K 1 in the last 64 bytes of the scratchpad. -/
def mmaState : State := bodyWith (fun y => { y with
  scratch := Tab.setRun 0 [] 960 (toBytes 64 (64 * 2 ^ 8 + 64 * 2 ^ 16 + 2 ^ 24 + 2 ^ 32 + 64 * 2 ^ 48)) }) tiled
theorem witness_MatrixInstructions : (c0.grp.launch tiled).matx = true ∧ Ready tiled c0 H [] [(.g 0, 2)] ∧ HasRoom tiled c0 (4 + true.toNat) ∧
    OwnTile tiled c0 1 ∧ (tileOf tiled c0 1).st = .ready ∧ (OwnTile tiled c0 2 ∧ (tileOf tiled c0 2).st = .ready) ∧
    mldOk 3 (tileOf tiled c0 1) (some (tileOf tiled c0 2)) = true ∧ mldOk (4 + 3) (tileOf tiled c0 1) none = true ∧
    (Ready tiled c0 H [⟨.g 4, 1, false⟩] [(.g 0, 2)] ∧ OwnTile tiled c0 63 ∧ (tileOf tiled c0 63).st = .empty ∧
      (OwnTile tiled c0 3 ∧ (tileOf tiled c0 3).st = .empty) ∧
      mstaOk (tileOf tiled c0 63) (some (tileOf tiled c0 3)) (mstaCount 0) (mstaCount 0) .f32 0 = true) ∧
    (accBusy (tiled.blk (c0.grp.block tiled)).body 7 = false ∧ Ready tiled c0 H [⟨.g 4, 1, false⟩] [(.g 1, 1)] ∧
      Ready tiled c0 H [⟨.g 4, 1, false⟩, ⟨.g 8, 1, false⟩] []) :=
  ⟨by decide +kernel, readyB_ready (by decide +kernel), xroom 5 (by decide +kernel) (by decide +kernel), tile_own (by decide +kernel),
    by decide +kernel, ⟨tile_own (by decide +kernel), by decide +kernel⟩, by decide +kernel, by decide +kernel,
    ⟨readyB_ready (by decide +kernel), tile_own (by decide +kernel), by decide +kernel, ⟨tile_own (by decide +kernel), by decide +kernel⟩,
      by decide +kernel⟩, by decide +kernel, readyB_ready (by decide +kernel), readyB_ready (by decide +kernel)⟩
theorem witness_MatrixInstructions_mma : let at_ := (((rdSrcs mmaState c0 [⟨.g 4, 1, false⟩]).getD 0 0).lo + 960).toNat
    Ready mmaState c0 H [⟨.g 4, 1, false⟩] [] ∧ InScratch mmaState c0.grp at_ 64 ∧ HasRoom mmaState c0 (4 + pbCtx (pbAt mmaState c0 at_)) ∧
    pbCondition (mmaState.blk (c0.grp.block mmaState)).body (min (c0.grp.cslot mmaState).xCnt (c0.grp.launch mmaState).xids) (pbAt mmaState c0 at_) = 0 :=
  ⟨readyB_ready (by decide +kernel), ⟨by decide +kernel, by decide +kernel, trivial⟩, ⟨by decide +kernel, by decide +kernel, by decide +kernel⟩, by decide +kernel⟩
theorem witness_PageFetchesAndRingSums_fetch : let f := at_ 0 0xFFFF
    Ready base c0 H [⟨f.a, 2, f.ea⟩] [(.g 0, 2)] ∧ (c0.grp.cslot base).eng 7 = true ∧ heldBy base c0 = false ∧ base.svc = false ∧
    ∃ u ps, u.svc = false ∧ resolve (starting base c0 H [⟨f.a, 2, f.ea⟩]) (threadAgent base c0) Acc.read (rd64 base c0 f.a + f.off.signExtend 64).toNat 1 = (u, .ok ps) :=
  ⟨readyB_ready (by decide +kernel), by decide +kernel, by decide +kernel, by decide +kernel, by
    obtain ⟨ps, h⟩ := exOk_is (x := resolve (starting base c0 H [⟨(at_ 0 0xFFFF).a, 2, (at_ 0 0xFFFF).ea⟩]) (threadAgent base c0) Acc.read
      (rd64 base c0 (at_ 0 0xFFFF).a + (at_ 0 0xFFFF).off.signExtend 64).toNat 1) (by decide +kernel)
    exact ⟨_, ps, by decide +kernel, h⟩⟩
/-- A ring of one stop, the cluster itself, of one packet, at address 0x1000. -/
def ringed : State := tiled.store 0x41000 [1, 0, 0, 0, 1]
def ringBytes0 : List Byte := [1, 0, 0, 0, 1] ++ List.replicate 187 0
abbrev ringSrcs : List Src := [⟨.g 22, 2, false⟩, ⟨.g 4, 1, false⟩]
theorem issueRead_is {x : State × ERes (List Byte)} {v : List Byte} (h : (match x.2 with | .ok w => decide (w = v) | _ => false) = true) :
    x = (x.1, .ok v) := by
  obtain ⟨u, x⟩ := x
  cases x with
  | ok w => simp only [decide_eq_true_eq] at h; rw [h]
  | _ => cases h
theorem witness_PageFetchesAndRingSums_ring : Ready ringed c0 H ringSrcs [(.g 0, 2)] ∧ (c0.grp.cslot ringed).eng 6 = true ∧ heldBy ringed c0 = false ∧
    OwnTile ringed c0 1 ∧ OwnTile ringed c0 63 ∧ (rd64 ringed c0 (.g 22)).toNat % 64 = 0 ∧
    (∃ u, ringed.svc = false ∧ u.svc = false ∧ issueRead (starting ringed c0 H ringSrcs) c0 (rd64 ringed c0 (.g 22)).toNat 192 = (u, .ok ringBytes0)) ∧
    ringLegal ringBytes0 = true ∧ ringHere ringBytes0 (c0.grp.core ringed) = [0] ∧
    passAsk ringed (ringed.passNamed (c0.grp.ctx ringed) (rd64 ringed c0 (.g 22)).toNat ((rdSrcs ringed c0 ringSrcs).getD 1 0).lo) 0 (c0.grp.core ringed) = .join ∧
    (tileOf ringed c0 1).st = .ready ∧ (tileOf ringed c0 63).st = .empty ∧ (tileOf ringed c0 1).swz = 0 ∧ (tileOf ringed c0 63).swz = 0 ∧
    ringBytes ringBytes0 true ≤ (tileOf ringed c0 1).rows * (tileOf ringed c0 1).pitch ∧
    ringBytes ringBytes0 false ≤ (tileOf ringed c0 63).rows * (tileOf ringed c0 63).pitch :=
  ⟨readyB_ready (by decide +kernel), by decide +kernel, by decide +kernel, tile_own (by decide +kernel), tile_own (by decide +kernel),
    by decide +kernel, ⟨_, by decide +kernel, by decide +kernel, issueRead_is (by decide +kernel)⟩, by decide +kernel, by decide +kernel, by decide +kernel,
    by decide +kernel, by decide +kernel, by decide +kernel, by decide +kernel, by decide +kernel, by decide +kernel⟩
/-- Registers: g2 and g4 pairs of an address and a length, g6 an identifier, g22 the address of a packet. -/
def loaded : State := worn fun t => { t with g := [(2, 0x1000), (4, 128), (6, 1), (22, 0x1000)] }
def leveled : State := loaded.modCtx 1 fun x => { x with levels := [{ scope := .wafer, ranges := [⟨1, 0x1000, 128⟩] }] }
abbrev two2 : List Src := [⟨.g 2, 2, false⟩, ⟨.g 4, 2, false⟩]
theorem witness_SnapshotInstructions : heldBy loaded c0 = false ∧ c0.grp.rollback loaded = false ∧ Ready loaded c0 H two2 [(.g 8, 1)] ∧
    (rd64 loaded c0 (.g 2)).toNat % 128 = 0 ∧ (rd64 loaded c0 (.g 4)).toNat % 128 = 0 ∧ (rd64 loaded c0 (.g 2)).toNat < 2 ^ 57 ∧
    (rd64 loaded c0 (.g 2)).toNat % 2 ^ 55 + (rd64 loaded c0 (.g 4)).toNat ≤ 2 ^ 55 ∧
    (Ready leveled c0 H [⟨.z, 1, false⟩] [(.g 8, 1)] ∧ (((rdSrcs leveled c0 [⟨.z, 1, false⟩]).getD 0 0).lo + 1).toNat = 1 ∧
      1 ≤ (leveled.ctx (c0.grp.ctx leveled)).levels.length ∧ (((rdSrcs leveled c0 [⟨.z, 1, false⟩]).getD 0 0).lo + 0).toNat = 0 ∧
      (leveled.ctx (c0.grp.ctx leveled)).levels.length < (((rdSrcs leveled c0 [⟨.z, 1, false⟩]).getD 0 0).lo + 2).toNat) ∧
    Ready loaded c0 H [] [(.g 8, 2)] :=
  ⟨by decide +kernel, by decide +kernel, readyB_ready (by decide +kernel), by decide +kernel, by decide +kernel, by decide +kernel, by decide +kernel,
    ⟨readyB_ready (by decide +kernel), by decide +kernel⟩, readyB_ready (by decide +kernel)⟩
/-- n levels, the top of which holds m ranges. -/
def levels (n m : Nat) : State := base.modCtx 1 fun x => { x with
  levels := List.replicate (n - 1) { scope := .wafer, ranges := [⟨1, 0, 4096⟩] } ++ [{ scope := .wafer, ranges := List.replicate m ⟨1, 0, 4096⟩ }] }
def foreignOf (s : State) (x : Nat) (r : Range) : Bool := s.ctxs.any fun e => e.1 != x && e.2.levels.any fun l => l.ranges.any (Range.meets r)
-- R228, each status at its boundary: four levels, none, sixteen ranges, another context's range, outside the level below, and none of these
theorem witness_SnapshotOperations : ((levels 4 1).ctx 1).levels.length = 4 ∧ (base.ctx 1).levels.length = 0 ∧
    ((((levels 1 16).ctx 1).levels.map fun l => l.ranges.length).sum = 16 ∧ ((levels 1 16).ctx 1).levels.length ≠ 4) ∧
    foreignOf (levels 1 1) 2 ⟨1, 0, 128⟩ = true ∧ foreignOf (levels 1 1) 1 ⟨1, 0, 128⟩ = false ∧
    coveredBy ((((levels 1 1).ctx 1).levels.getD 0 emptyLevel)).ranges 1 17 4096 (4096 + 128) = false ∧
    coveredBy ((((levels 1 1).ctx 1).levels.getD 0 emptyLevel)).ranges 1 17 3968 (3968 + 128) = true := by decide +kernel
/-- A shadow of level 1 of context 1. -/
def shadowed : State := { levels 1 1 with shadows := [(shadowKey 1 1 0, { field := 0, pa := 0x50000, bytes := List.replicate 128 7 })] }
theorem witness_SnapshotOperations_reject : shadowed.shadows.filter (fun y => shadowCtx y.1 == 1 && decide (1 ≤ shadowLvl y.1)) =
      [(shadowKey 1 1 0, { field := 0, pa := 0x50000, bytes := List.replicate 128 7 })] ∧
    ∀ e ∈ shadowed.shadows, shadowCtx e.1 = 1 → 1 ≤ shadowLvl e.1 → 0x4FFFF < e.2.pa ∨ e.2.pa + e.2.bytes.length ≤ 0x4FFFF := by decide +kernel

/-- Window 1023, 0, or 5 of virtual function 0: a data window of 256 remote bytes, with bytes of its own at 0x1000. -/
def windowed (w : Nat) (f : Win → Win) : State := loaded.setWin 0 w
  (f { Win.none with w0 := .ofNat 64 (1 + 2 ^ 48), w1 := 0x1000, w2 := 128, w5 := 256 })
theorem witness_WindowInstructions_transfers : let s := windowed 0 id
    let srcs : List Src := [⟨.g 2, 2, false⟩, ⟨.g 4, 2, false⟩, ⟨.g 4, 1, false⟩]
    Ready s c0 H srcs [(.g 8, 2)] ∧ (c0.grp.cslot s).eng 7 = true ∧ heldBy s c0 = false ∧ (winOf s c0 0).kind = 1 ∧
    (rd64 s c0 (.g 4)).toNat + ((rdSrcs s c0 srcs).getD 2 0).lo.toNat ≤ (winOf s c0 0).rlen ∧ c0.grp.rollback s = false :=
  ⟨readyB_ready (by decide +kernel), by decide +kernel⟩
theorem witness_WindowInstructions_post : let s := windowed 1023 fun x => { x with w0 := x.w0 ||| 3 }
    Ready s c0 H [⟨.g 2, 2, false⟩] [(.g 8, 2)] ∧ (c0.grp.cslot s).eng 7 = true ∧ heldBy s c0 = false ∧ c0.grp.rollback s = false ∧
    (rd64 s c0 (.g 2)).toNat % 64 = 0 ∧ (winOf s c0 1023).kind = 3 ∧ c0.grp.ctx s = (s.vf (c0.grp.cslot s).vf).steward :=
  ⟨readyB_ready (by decide +kernel), by decide +kernel⟩
theorem witness_WindowInstructions_wait : let s := windowed 5 fun x => { x with landed := 0x1000 }
    let srcs (b : Opd) : List Src := [⟨.g 2, 2, false⟩, ⟨b, 1, false⟩]
    Ready s c0 H (srcs .z) [(.g 8, 1)] ∧ Ready s c0 H (srcs (.g 7)) [(.g 8, 1)] ∧ Ready s c0 H (srcs (.g 4)) [(.g 8, 1)] ∧
    winBroken { s with qps := [(0, { Qp.none with live := true, err := true })] } (c0.grp.cslot s).vf 5 = true ∧
    (let t := s
     winBroken t (c0.grp.cslot t).vf 5 = false ∧ (rd64 t c0 (.g 2)).toNat ≤ (winCounter (winOf t c0 5) false).toNat ∧
     (winCounter (winOf t c0 5) true).toNat < (rd64 t c0 (.g 2)).toNat ∧ ((rdSrcs t c0 (srcs (.g 7))).getD 1 0).lo = 0 ∧
     ((rdSrcs t c0 (srcs (.g 4))).getD 1 0).lo ≠ 0) ∧ Ready s c0 H [] [(.g 8, 2)] :=
  ⟨readyB_ready (by decide +kernel), readyB_ready (by decide +kernel), readyB_ready (by decide +kernel), by decide +kernel, by decide +kernel,
    readyB_ready (by decide +kernel)⟩

theorem noLog (s : State) (h : ∀ e ∈ s.ctxs, e.2.logMode = 0) (x : Nat) : (s.ctx x).logMode = 0 := by
  unfold State.ctx
  revert h
  generalize s.ctxs = l
  intro h
  induction l with
  | nil => rfl
  | cons e r ih =>
    obtain ⟨k, v⟩ := e
    by_cases hk : k = x
    · subst hk; have := h (k, v) (by simp); simpa [Tab.get, Tab.find] using this
    · have := ih fun e he => h e (by simp [he])
      simpa [Tab.get, Tab.find, hk] using this
/-- A launch window, 0, with one packet landed. -/
def launching : State := windowed 0 fun x => { x with w0 := .ofNat 64 (2 + 2 ^ 48), landed := 1 }
abbrev pairG22 : List Src := [⟨.g 22, 2, false⟩]
theorem witness_LaunchInstructions : heldBy launching c0 = false ∧ c0.grp.rollback launching = false ∧ launching.svc = false ∧
    Ready launching c0 H pairG22 [(.g 8, 2)] ∧ (rd64 launching c0 (.g 22)).toNat % 128 = 0 ∧ (winOf launching c0 1).kind ≠ 2 ∧ (winOf launching c0 0).kind = 2 ∧
    ∃ u, u.svc = false ∧ issueRead (starting launching c0 H pairG22) c0 (rd64 launching c0 (.g 22)).toNat 128 = (u, .ok (List.replicate 128 0)) ∧
      u.vfs = launching.vfs ∧ u.launches = launching.launches ∧ ∀ x, (u.ctx x).logMode = 0 :=
  ⟨by decide +kernel, by decide +kernel, by decide +kernel, readyB_ready (by decide +kernel), by decide +kernel, by decide +kernel, by decide +kernel,
    _, by decide +kernel, issueRead_is (by decide +kernel), by decide +kernel, by decide +kernel, noLog _ (by decide +kernel)⟩
theorem witness_LaunchInstructions_landed : Ready launching c0 H [] [(.g 8, 2)] ∧ (winOf launching c0 0).consumed.toNat < (winOf launching c0 0).landed.toNat ∧
    ((windowed 0 fun x => { x with w0 := 2 }).win 0 0).landed.toNat ≤ ((windowed 0 fun x => { x with w0 := 2 }).win 0 0).consumed.toNat ∧
    ∃ u, u.svc = false ∧ loadAt (starting launching c0 H []) (windowAgent launching (c0.grp.cslot launching).vf (winOf launching c0 0))
      ((winOf launching c0 0).lbase + 128 * ((winOf launching c0 0).consumed.toNat % ((winOf launching c0 0).len / 128))) 128 3 false =
        (u, .bytes (List.replicate 128 0)) ∧ u.vfs = launching.vfs ∧ u.launches = launching.launches ∧ ∀ x, (u.ctx x).logMode = 0 :=
  ⟨readyB_ready (by decide +kernel), by decide +kernel, by decide +kernel,
    _, by decide +kernel, pair_of (by decide +kernel), by decide +kernel, by decide +kernel, noLog _ (by decide +kernel)⟩

/-- Gate entry 255: context 1, one argument, one result, a frame of 8, entered at 0, open to virtual function 0 (R296). -/
def gated (s : State) : State := s.modPart 1 fun p => { p with gates := [(1020, .ofNat 64 (1 + 2 ^ 16 + 2 ^ 23 + 2 ^ 28 + 8 * 2 ^ 33)), (1023, 1)] }
theorem witness_Gates : let s := gated (duo (.gate 255 1 1))
    Ready s c0 H [] [] ∧ Last s c0 ∧ heldBy s c0 = false ∧ c0.grp.rollback s = false ∧ Others s c0 (fun _ => .gate 255 1 1) ∧
    (s.thr c0).empty = [] ∧
    gateCondition s c0.grp 255 1 1 (s.liveSk c0.grp c0.skein).length = 0 ∧ gateCondition s c0.grp 255 2 1 (s.liveSk c0.grp c0.skein).length = 2 :=
  ⟨readyB_ready (by decide +kernel), lastB_last (by decide +kernel), by decide +kernel, by decide +kernel, othersB_others (by decide +kernel), by decide +kernel,
    by decide +kernel, by decide +kernel⟩
theorem witness_Gates_return : let c : Cx := ⟨.act 0, 0⟩
    Ready inside c H [] [] ∧ (∀ i, i < (inside.actv 0).res → Tab.get false (inside.thr c).empty i = false) ∧
    (inside.thr ⟨.blk (inside.actv 0).blk, 0⟩).st = .inAct 0 ∧ Ready base c0 H [] [] ∧ c0.grp.isAct = false :=
  ⟨readyB_ready (by decide +kernel), by decide +kernel, by decide +kernel, readyB_ready (by decide +kernel), rfl⟩

theorem witness_CompartmentInstructions_slots : let s := priv2 base
    heldBy s c0 = false ∧ c0.grp.rollback s = false ∧ Ready s c0 H [⟨.g 2, 2, false⟩, ⟨.g 4, 1, false⟩] [(.g 8, 1)] ∧ 2 ≤ (c0.grp.cslot s).priv ∧
    Ready s c0 H [⟨.g 4, 1, false⟩] [(.g 8, 2)] :=
  ⟨by decide +kernel, by decide +kernel, readyB_ready (by decide +kernel), by decide +kernel, readyB_ready (by decide +kernel)⟩
theorem witness_CompartmentInstructions_asids : let s3 : List Src := [⟨.g 8, 2, false⟩, ⟨.g 10, 2, false⟩, ⟨.g 6, 1, false⟩]
    let s2 (b : Opd) : List Src := [⟨.g 6, 1, false⟩, ⟨b, 1, false⟩]
    heldBy loaded c0 = false ∧ c0.grp.rollback loaded = false ∧ Ready loaded c0 H s3 [(.g 8, 1)] ∧ 1 ≤ (c0.grp.cslot loaded).priv ∧
    ((loaded.asid ((rdSrcs loaded c0 s3).getD 2 0).toNat).live = true ∧ (loaded.asid 1).vf = (c0.grp.cslot loaded).vf) ∧ (loaded.asid 0).live = false ∧
    (Ready loaded c0 H (s2 (.g 6)) [(.g 8, 1)] ∧ (loaded.ctx ((rdSrcs loaded c0 (s2 (.g 6))).getD 0 0).toNat).live = true ∧
      (loaded.ctx 1).vf = (c0.grp.cslot loaded).vf ∧ (loaded.ctx 0).live = false ∧
      bindable loaded (c0.grp.cslot loaded).vf (c0.grp.cslot loaded).part ((rdSrcs loaded c0 (s2 (.g 6))).getD 1 0).toNat = true ∧
      bindable loaded (c0.grp.cslot loaded).vf (c0.grp.cslot loaded).part ((rdSrcs loaded c0 (s2 (.g 7))).getD 1 0).toNat = false) ∧
    Ready loaded c0 H [] [(.g 8, 1)] :=
  ⟨by decide +kernel, by decide +kernel, readyB_ready (by decide +kernel), by decide +kernel, by decide +kernel, by decide +kernel,
    ⟨readyB_ready (by decide +kernel), by decide +kernel⟩, readyB_ready (by decide +kernel)⟩
theorem witness_CompartmentInstructions_write : coreAlive base 9215 = false ∧ coreAlive base 0 = true ∧
    (slotBusy base 0 0 = true ∧ sameButPeriod (base.cslot 0 0) ((base.cslot 0 0).setWord 1 0) = false) ∧
    (slotBusy base 0 1 = false ∧ ((base.cslot 0 1).setWord 0 placeSlot.w0).valid = true ∧
      slotLegal base 0 1 ((base.cslot 0 1).setWord 0 placeSlot.w0) = false) ∧
    (sameButPeriod (base.cslot 0 0) ((base.cslot 0 0).setWord 0 placeSlot.w0) = true ∧ slotLegal base 0 0 ((base.cslot 0 0).setWord 0 placeSlot.w0) = true) ∧
    ((base.cslot 0 3).setWord 3 1).valid = false := by decide +kernel
abbrev crollSrcs : List Src := [⟨.g 6, 1, false⟩, ⟨.z, 1, false⟩]
abbrev haltSrcs (a : Opd) : List Src := [⟨a, 1, false⟩, ⟨.z, 2, false⟩]
theorem witness_BlockControl_croll : heldBy loaded c0 = false ∧ c0.grp.rollback loaded = false ∧ Ready loaded c0 H crollSrcs [(.g 8, 1)] ∧
    1 ≤ (c0.grp.cslot loaded).priv ∧ (loaded.ctx ((rdSrcs loaded c0 crollSrcs).getD 0 0).toNat).live = true ∧ (loaded.ctx 0).live = false ∧
    (loaded.ctx 1).vf = (c0.grp.cslot loaded).vf ∧ (slotHolding loaded 0 1).isSome = true :=
  ⟨by decide +kernel, by decide +kernel, readyB_ready (by decide +kernel), by decide +kernel⟩
/-- Context 2 is there too, without blocks. -/
def paired : State := { loaded with ctxs := loaded.ctxs ++ [(2, { Ctx.none with live := true, part := 1 })] }
theorem witness_BlockControl_halt : let s := worn fun t => { t with g := [(6, 2), (7, 3)] }
    let p := { s with ctxs := paired.ctxs }
    (Ready p c0 H (haltSrcs .z) [(.g 8, 1)] ∧ targetThere p (targetOf p c0 .z .z (rdSrcs p c0 (haltSrcs .z))).1 none = true ∧
      c0.grp.block p ∈ targetBlocks p (targetOf p c0 .z .z (rdSrcs p c0 (haltSrcs .z))).1 none ∧
      (resumeTarget (fenced p c0 H (haltSrcs .z)) 1 none).svc = false) ∧
    (Ready p c0 H (haltSrcs (.g 6)) [(.g 8, 1)] ∧ targetLevel p c0 2 ≤ (c0.grp.cslot p).priv ∧
      (targetOf p c0 (.g 6) .z (rdSrcs p c0 (haltSrcs (.g 6)))).1 = 2 ∧ targetThere p 2 none = true ∧ c0.grp.block p ∉ targetBlocks p 2 none) ∧
    (Ready p c0 H (haltSrcs (.g 7)) [(.g 8, 1)] ∧ (targetOf p c0 (.g 7) .z (rdSrcs p c0 (haltSrcs (.g 7)))).1 = 3 ∧ targetThere p 3 none = false) :=
  ⟨⟨readyB_ready (by decide +kernel), by decide +kernel⟩, ⟨readyB_ready (by decide +kernel), by decide +kernel⟩,
    readyB_ready (by decide +kernel), by decide +kernel⟩

/-- The access slice of skein 0 issues. -/
def sliced : State := { bodyWith (fun y => { y with skeins := [(0, { Skein.start with slice := { Slice.none with active := true } })] }) base with
  pick := { grp := .slice 0 0, thrs := [0] } }
abbrev ldqSrcs : List Src := [⟨.s 2, 2, false⟩, ⟨.z, 1, false⟩]
theorem witness_AccessSlice : SliceReady sliced 0 0 H (f0Srcs (abc (.s 63) (.s 2) (.s 3) .z) 1 1 1) ∧
    (Instr.iadd H (abc (.s 63) (.s 2) (.s 3) .z)).accessMay = true ∧ (Instr.iadd H (abc (.s 63) (.s 2) (.s 3) .z)).accessOpds = true ∧
    SliceReady sliced 0 0 H ldqSrcs ∧ queueFull sliced (.slice 0 0) 0 7 = false ∧
    (∃ u, u.svc = false ∧ ldqLanes (starting (quiet sliced) ⟨.slice 0 0, 64 * 0⟩ H ldqSrcs) ⟨.slice 0 0, 64 * 0⟩ (mo (.s 2) 2 0x1000)
      ((rdSrcs sliced ⟨.slice 0 0, 64 * 0⟩ ldqSrcs).getD 0 0) ((rdSrcs sliced ⟨.slice 0 0, 64 * 0⟩ ldqSrcs).getD 1 0).lo
      ((Grp.slice 0 0).launch sliced).e0 0 [] false = (u, .ok ([(0, 0)], false, []))) ∧ SliceReady sliced 0 0 H [] :=
  ⟨⟨by decide +kernel, by decide +kernel, by decide +kernel, by decide +kernel, by decide +kernel, by decide +kernel⟩, by decide +kernel, by decide +kernel,
    ⟨by decide +kernel, by decide +kernel, by decide +kernel, by decide +kernel, by decide +kernel, by decide +kernel⟩, by decide +kernel,
    ⟨_, by decide +kernel, pair_of (by decide +kernel)⟩,
    ⟨by decide +kernel, by decide +kernel, by decide +kernel, by decide +kernel, by decide +kernel, by decide +kernel⟩⟩
def blkWith (f : Block → Block) (s : State) : State := s.modBlk 0 f
/-- The block in rollback mode, its thread at a yield point, asked to park. -/
def yielded (s : State) : State := blkWith (fun k => { k with park := .period, period := 50, runTime := 50000 }) (thrWith (fun t => { t with yielded := true }) s)
theorem witness_ParksAndCheckpoints_period : let s := blkWith (fun k => { k with period := 50, runTime := 50000 }) (rolling base)
    (s.blk 0).st = .resident ∧ (s.blk 0).park = .none ∧ (s.blk 0).captured = false ∧ (s.blk 0).halted = false ∧ (Grp.blk 0).rollback s = true ∧
    1000 * (s.blk 0).period ≤ (s.blk 0).runTime := by decide +kernel
theorem witness_ParksAndCheckpoints_park : (let s := yielded (rolling base)
     parkDue s 0 = true ∧ (s.blk 0).captured = false ∧ (Grp.blk 0).rollback s = true) ∧
    (let s := blkWith (fun k => { k with park := .halt }) (yielded base)
     parkDue s 0 = true ∧ (s.blk 0).captured = false ∧ (Grp.blk 0).rollback s = false ∧ (s.blk 0).park = .halt ∧ (s.blk 0).dbgHalt = false ∧
       (s.blk 0).pending = [] ∧ (s.blk 0).crollNext = none ∧ (s.blk 0).resumeNext = false ∧ (s.cslot (s.blk 0).core (s.blk 0).slot).next = 0) ∧
    (let s := inside.modAct 0 fun x => { x with park := .halt, threads := [(0, { Thread.start 0 with yielded := true })] }
     actParkDue s 0 = true ∧ (s.actv 0).park = .halt) := by decide +kernel
theorem noHeld (s : State) (b : Nat) (h : (s.blk b).body.threads.all (fun e => (heldInstr e.2).isNone) = true) (n : Nat) :
    heldInstr (s.thr ⟨.blk b, n⟩) = none := by
  change heldInstr (Tab.get Thread.none (s.blk b).body.threads n) = none
  revert h
  generalize (s.blk b).body.threads = l
  intro h
  induction l with
  | nil => rfl
  | cons e r ih =>
    obtain ⟨k, v⟩ := e
    simp only [List.all_cons, Bool.and_eq_true] at h
    by_cases hk : k = n
    · subst hk; simpa [Tab.get, Tab.find] using h.1
    · simpa [Tab.get, Tab.find, hk] using ih h.2
def captured : State := blkWith (fun k => { k with captured := true }) (yielded (rolling base))
-- no provisional byte; or one on a page that nothing maps
theorem witness_ParksAndCheckpoints_commit : commitDue captured 0 = true ∧ (captured.blk 0).prov = [] ∧ (captured.blk 0).traces = [] ∧
    (captured.blk 0).pending = [] ∧ (captured.blk 0).park ≠ .halt ∧ (captured.blk 0).park ≠ .save ∧ (captured.blk 0).park ≠ .leave ∧ (∀ n, heldInstr (captured.thr ⟨.blk 0, n⟩) = none) ∧
    (let s := blkWith (fun k => { k with prov := [(2 ^ 55 + 0x20000, 1)] }) captured
     commitDue s 0 = true ∧ provAll s 0 (byNumber (provLines (s.blk 0).prov)) = none) :=
  ⟨by decide +kernel, by decide +kernel, by decide +kernel, by decide +kernel, by decide +kernel, by decide +kernel, by decide +kernel,
    noHeld _ _ (by decide +kernel), by decide +kernel⟩
/-- Slot 1 of core 0 gives way to context 2. -/
def leaving : State := { base with
  blocks := [], cores := [(0, { Core.none with slots := [(1, { placeSlot with next := 2 })] })]
  ctxs := base.ctxs ++ [(2, { Ctx.none with live := true, part := 1, maxsc := 1, drain := true, ckper := 50, asids := [(0, 1)],
                                            tmpl1 := placeSlot.w1, tmpl2 := placeSlot.w2 })] }
theorem witness_ParksAndCheckpoints_quantum : passesOn leaving 0 = some 1 ∧ slotLegal leaving 0 1 (fillFrom leaving (leaving.cslot 0 1).next) = true := by
  decide +kernel

theorem witness_InterruptsAndEntries : overrunDue (worn fun t => { t with yc := 0 }) ⟨nameGrp 0, 0⟩ = true ∧
    hangDue (blkWith (fun k => { k with hang := 2 ^ 32 }) base) 0 = true ∧
    deliveryDue (bodyWith (fun y => { y with skeins := [(0, { Skein.start with upend := 8, masked := false })] }) base) 0 0 = true := by decide +kernel
theorem witness_InterruptsAndEntries_vectoring : let s := worn fun t => { t with due := true }
    let c : Cx := ⟨nameGrp 0, 0⟩
    let v := vector ((quiet s).modThr c fun t => { t with pc := 0 }) c
    trapDue s c = none ∧ interruptDue s c = true ∧ vectorPc (s.thr c) = some 0 ∧ (c.grp.launch s).logOn = 0 ∧
    ∃ u, checkTarget v c (s.sk c.grp c.skein).hvec = (u, none) ∧ u.svc = false :=
  ⟨by decide +kernel, by decide +kernel, by decide +kernel, by decide +kernel, _, pair_of (by decide +kernel), by decide +kernel⟩
/-- An activation that has not entered its slot. -/
def entering (begun : Bool) : State := inside.modAct 0 fun x => { x with entered := false, begun := begun }
theorem witness_InterruptsAndEntries_entry : entrySlot (entering true) 0 = some 0 ∧ ((entering true).actv 0).begun = true ∧
    (let s := entering false
     let u := (quiet s).modAct 0 fun x => { x with
        entered := true, begun := true, slot := 0, threads := x.threads.map fun e => (e.1, { e.2 with ready := s.cycle }) }
     entrySlot s 0 = some 0 ∧ (s.actv 0).begun = false ∧ ∃ v, enterChecks u (.act 0) (u.live (.act 0)) = (v, []) ∧ v.svc = false) :=
  ⟨by decide +kernel, by decide +kernel, by decide +kernel, by decide +kernel, _, pair_of (by decide +kernel), by decide +kernel⟩

/-- The launch is offered: no block of it has started. Its partition holds no core, or all clusters of field 0. -/
def offered (f : Launch → Launch) : State := { launchWith (fun l => f { l with state := 0, placed := 0 }) base with blocks := [] }
def housed (f : Launch → Launch) : State := { offered f with
  parts := [(1, { Partition.none with live := true, fields := [(0, { PartField.none with clus := 1, clush := 1 })] })] }
theorem witness_DispatchAndEnds_refused : let s := offered id
    (s.launch 0).live = true ∧ (s.launch 0).fence = false ∧ (s.launch 0).state = 0 ∧ depsMet s (s.launch 0) = true ∧
    Machine.fenced s (s.launch 0) = false ∧ barrierFree s 0 = true ∧ admittable s (s.launch 0) = false := by decide +kernel
theorem witness_DispatchAndEnds_placed : ∃ t b, placeOn (housed id) 0 0 0 0 = some (t, b) ∧ blockAt (housed id) 0 0 = none := by
  have h : (placeOn (housed id) 0 0 0 0).isSome = true := by decide +kernel
  obtain ⟨x, hx⟩ := Option.isSome_iff_exists.mp h
  exact ⟨x.1, x.2, hx, by decide +kernel⟩
theorem witness_DispatchAndEnds_dispatched : ∃ t, dispatchTry (quiet (housed id)) 0 = some t ∧ t.svc = false := by
  have h : (dispatchTry (quiet (housed id)) 0).any (fun t => t.svc == false) = true := by decide +kernel
  cases hx : dispatchTry (quiet (housed id)) 0 with
  | none => rw [hx] at h; cases h
  | some t => rw [hx] at h; exact ⟨t, rfl, by simpa using h⟩
def word0 (n : Nat) (l : Launch) : Launch := { l with pkt := l.pkt.set 0 (.ofNat 64 n) }
theorem witness_DispatchAndEnds_fence : let s := offered (word0 1)
    (s.launch 0).live = true ∧ (s.launch 0).fence = true ∧ (s.launch 0).state = 0 ∧ depsMet s (s.launch 0) = true := by decide +kernel
theorem witness_DispatchAndEnds_end : let s := worn fun t => { t with st := .gone }
    (s.blk 0).launch = 0 ∧ blockEndDue s 0 = true ∧ uncommitted s 0 = false ∧ (s.launch 0).logOn ≠ 1 ∧
    (let r := blkWith (fun k => { k with prov := [(2 ^ 55, 1)] }) (rolling s)
     blockEndDue r 0 = true ∧ uncommitted r 0 = true) := by decide +kernel
theorem witness_DispatchAndEnds_record : let s := launchWith (fun l => { l with state := 2 }) base
    recordDue s 0 = true ∧ (s.launch 0).logOn ≠ 1 ∧ (s.launch 0).cen = false ∧
    (let r := { launchWith (fun l => { l with state := 2, pkt := l.pkt.set 8 (l.word 8 ||| .ofNat 64 (2 ^ 34)) }) (windowed 0 id) with
        qps := [(0, { Qp.none with live := true })] }
     recordDue r 0 = true ∧ (r.launch 0).cen = true ∧ loopPeer r (r.win (r.launch 0).vf (r.launch 0).cwin).qpn = none ∧
       (r.port (r.qp (r.win (r.launch 0).vf (r.launch 0).cwin).qpn).port).paused = 0) := by decide +kernel
/-- Command 1 of a context of block 0. -/
def cmdOf (tc : Nat) (k : CmdKind) (left : List Nat) : Cmd :=
  { tc := tc, num := 1, kind := k, thr := 0, pc := 0, wid := 0, icount := 0, ctx := 1, core := 0, slot := 0, inner := false, nt := false
    beat := 0, left := left, started := false, fresh := false, heldCommit := false, sent := false, mc := [], msum := [], got := [] }
def running (x : Cmd) : State := bodyWith (fun y => { y with cmds := [x] }) tiled
def boxA : Region := { c := [0, 0, 0, 0, 0], b := [32, 1, 1, 1, 1] }
theorem witness_EngineSteps_complete :
    (let x := cmdOf 4 (.mzero 7) []
     (running x).cmd 0 4 1 = some x ∧ matrixDone x = true) ∧
    (let x := cmdOf 7 (.put false false 0 0 0 0) []
     (running x).cmd 0 7 1 = some x ∧ windowDone (running x) 0 x = true) ∧
    (let x := cmdOf 0 (.tload .plain 63 td0 boxA none []) []
     (running x).cmd 0 0 1 = some x ∧ shuttleDone (running x) 0 x = true) ∧
    (let x := cmdOf 0 (.tstore true 1 td0 boxA) []
     (running x).cmd 0 0 1 = some x ∧ shuttleDone (running x) 0 x = true ∧ x.mc = [] ∧
       traceOn (running x) ((running x).ctx ((running x).launch ((running x).blk 0).launch).ctx).vf 0 = false) := by decide +kernel
/-- An MMA of 64 by 64 by 1, with its buffers filled or not. -/
def mmaPb : BitVec 512 := .ofNat 512 (64 * 2 ^ 8 + 64 * 2 ^ 16 + 2 ^ 32 + 64 * 2 ^ 48)
theorem witness_EngineSteps_mma : let x := cmdOf 4 (.mma 0 mmaPb td0 td0) [0]
    let s := bodyWith (fun y => { y with bufRecs := [(0, { rows := 64, pitch := 2, src := none }), (4, { rows := 64, pitch := 2, src := none })] }) (running x)
    s.cmd 0 4 1 = some x ∧ mmaMayStart (s.blk 0).body (s.launch (s.blk 0).launch).det x = true ∧ startCondition (s.blk 0).body mmaPb td0 td0 = 0 ∧
    (running x).cmd 0 4 1 = some x ∧ mmaMayStart ((running x).blk 0).body ((running x).launch ((running x).blk 0).launch).det x = true ∧
    startCondition ((running x).blk 0).body mmaPb td0 td0 ≠ 0 ∧ x.inner = false := by decide +kernel
theorem witness_EngineSteps_landing : (let x := cmdOf 5 (.mzero 7) [0]
     (running x).cmd 0 5 1 = some x ∧ x.left = [0] ∧ landingDue (running x) 0 x = true) ∧
    (let x := cmdOf 0 (.tload .plain 63 td0 boxA none []) [1]
     (running x).cmd 0 0 1 = some x ∧ landingDue (running x) 0 x = true ∧ (chooseOne (running x) x.left).getD 0 = 1 ∧
     ∃ u bs, readSector (quiet (running x)) 0 x td0 .plain boxA [] (1 / 2) (1 % 2) = (u, .ok bs) ∧ u.svc = false) :=
  ⟨by decide +kernel, by decide +kernel, by decide +kernel, by decide +kernel, _, List.replicate 32 0, issueRead_is (by decide +kernel), by decide +kernel⟩
-- block 1 has not armed its tile
theorem witness_EngineSteps_multicast : let x := { cmdOf 0 (.tmcast 63 td0 boxA 2 none) [] with mc := [{ blk := 1, gen := none, refused := false, landed := 0 }] }
    let s := running x
    s.cmd 0 0 1 = some x ∧ x.mc.find? (fun e => e.blk == 1) = some { blk := 1, gen := none, refused := false, landed := 0 } ∧ x.heldCommit = false ∧
    destDue x { blk := 1, gen := none, refused := false, landed := 0 } = true ∧
    ¬ (((s.blk 1).body.tile 63).st = .filling ∧ ((s.blk 1).body.tile 63).rx = true) := by decide +kernel
-- the block's own tile 62 is armed, and takes the one sector of its box
theorem witness_EngineSteps_mcastLanding :
    let e : McDest := { blk := 0, gen := none, refused := false, landed := 0 }
    let d := td0 &&& ~~~ (BitVec.ofNat 512 (2 ^ 57 * 7)) ||| .ofNat 512 (2 ^ 57 * 2)
    let x := { cmdOf 0 (.tmcast 62 d { c := [0, 0, 0, 0, 0], b := [16, 1, 1, 1, 1] } 1 none) [] with mc := [e] }
    let s := bodyWith (fun y => { y with tiles := Tab.put y.tiles 62 { box64 with st := .filling, rx := true } }) (running x)
    s.cmd 0 0 1 = some x ∧ x.mc.find? (fun e => e.blk == 0) = some e ∧ shuttleTurn s x = true ∧ destDue x e = true ∧
    (s.blk 0).st = .resident ∧ ((s.blk 0).body.tile 62).st = .filling ∧ ((s.blk 0).body.tile 62).rx = true ∧
    mcFits ((s.blk 0).body.tile 62) d { c := [0, 0, 0, 0, 0], b := [16, 1, 1, 1, 1] } = true ∧ x.msum = [] ∧
    ∃ u, readSector (quiet s) 0 x d .plain { c := [0, 0, 0, 0, 0], b := [16, 1, 1, 1, 1] } [] 0 0 = (u, .ok (List.replicate 32 0)) ∧ u.svc = false :=
  ⟨by decide +kernel, by decide +kernel, by decide +kernel, by decide +kernel, by decide +kernel, by decide +kernel, by decide +kernel,
    by decide +kernel, by decide +kernel, _, issueRead_is (by decide +kernel), by decide +kernel⟩
theorem eresB {x : State × ERes Bool} {v : Bool} (h : (match x.2 with | .ok w => w == v | _ => false) = true) : x = (x.1, .ok v) := by
  obtain ⟨u, x⟩ := x
  cases x with
  | ok w => simp only [beq_iff_eq] at h; rw [h]
  | _ => cases h
-- a leaf that is resident by now; one that is not, and no frame
theorem witness_EngineSteps_fetch : (let x := cmdOf 7 (.fetchpg (2 ^ 55) 0x30000 0x4011E) []
     (running x).cmd 0 7 1 = some x ∧ ∃ u, u.svc = false ∧ stepFetch (quiet (running x)) 0 x (2 ^ 55) 0x30000 0x4011E = (u, .ok true)) ∧
    (let x := cmdOf 7 (.fetchpg (2 ^ 55 + 0x10000) 0x30008 0x30000000001F) []
     let s := { (running x).store 0x30008 (toBytes 8 0x30000000001F) with
       fields := [(0, { Field.none with state := 1 })], parts := [(1, { Partition.none with live := true, fields := [(0, { PartField.none with fstore := 1 })] })] }
     s.cmd 0 7 1 = some x ∧ ∃ u, u.svc = false ∧ stepFetch (quiet s) 0 x (2 ^ 55 + 0x10000) 0x30008 0x30000000001F = (u, .ok false)) :=
  ⟨⟨by decide +kernel, _, by decide +kernel, eresB (by decide +kernel)⟩, by decide +kernel, _, by decide +kernel, eresB (by decide +kernel)⟩
/-- A pass of one stop, command 1 of block 0, with its one packet to send, or to land. -/
def passOf (live : Bool) (sent : Nat) (ps : List RPacket) : Pass := { Pass.none with
  live := live, ctx := 1, desc := ringBytes0, packets := ps, stops := [{ RStop.none with issued := true, num := 1, sentq := sent }] }
def passing (p : Pass) : State := { running (cmdOf 6 (.rsum 0 0 1 63) []) with passes := [(0, p)] }
theorem witness_EngineSteps_ring : (passing (passOf false 0 [])).cmd 0 6 1 = some (cmdOf 6 (.rsum 0 0 1 63) []) ∧
    Tab.find (passing (passOf false 0 [])).passes 0 = some (passOf false 0 []) ∧ (passOf false 0 []).live = false ∧ (passOf true 0 []).live = true ∧
    packetsDue (passing (passOf true 0 [])) (passOf true 0 []) 0 = [.combine 0 none] ∧
    packetsDue (passing (passOf true 1 [⟨0, 0, true, []⟩])) (passOf true 1 [⟨0, 0, true, []⟩]) 0 = [.land ⟨0, 0, true, []⟩] := by decide +kernel

theorem witness_WaitsThatEnd : (let s := worn fun t => { t with owed := [⟨127, 9⟩], empty := [(127, true)] }
     (s.thr ⟨nameGrp 0, 0⟩).owed.any (fun o => o.reg == 127) = true) ∧
    (let s := worn fun t => { t with st := .waiting (.win 0 false 5 (some 0) (.g 1)) }
     (s.thr ⟨nameGrp 0, 0⟩).st = .waiting (.win 0 false 5 (some 0) (.g 1)) ∧ groupRuns s (nameGrp 0) = true ∧ 0 ≤ s.time) ∧
    (let s := worn fun t => { t with st := .waiting (.nap 0) }
     (s.thr ⟨nameGrp 0, 0⟩).st = .waiting (.nap 0) ∧ groupRuns s (nameGrp 0) = true ∧ 0 ≤ s.cycle) ∧
    (let o : OpWait := { opFor (.g 126) true 9 [.parked 1, .answered 0 5] true with get := some (0, 3, 3) }
     let s := worn fun t => { t with st := .waiting (.op o) }
     (s.thr ⟨nameGrp 0, 0⟩).st = .waiting (.op o) ∧ groupRuns s (nameGrp 0) = true ∧ isS o.d = false ∧ ∀ w ∈ o.await, awaitMet s w = true) ∧
    ({ Thread.start 0 with owed := [⟨127, 9⟩] } : Thread).owed = [⟨127, 9⟩] := by decide +kernel
/-- A resident launch, all of whose threads wait at BARW; and a record held for the fault ring of virtual function 0. -/
def barring2 : State := launchWith (setWord0 (2 ^ 5)) (worn fun t => { t with st := .waiting .barw })
def holding : State := base.modVf 0 fun f => { f with fault := { base := 0x1000, n := 2, wr := 0, drop := 0, state := 1 }, hold := [List.replicate 64 1] }
theorem witness_WaitsThatEnd_barrier : arrivalDue barring2 0 0 = true ∧ releaseDue (barring2.modLaunch 0 fun l => { l with barw := 1 }) 0 barring2.lead = true ∧
    pollDue holding 0 = true ∧ ∃ u, u.svc = false ∧ fillRing (ringHeader (quiet holding) (ctxAgent holding (holding.vf 0).steward) (holding.vf 0).fault 0x10 8
      (holding.vf 0).fault.drop) 0 (holding.vf 0).hold = u ∧ pendingBlocks u 0 = [] :=
  ⟨by decide +kernel, by decide +kernel, by decide +kernel, _, by decide +kernel, rfl, by decide +kernel⟩

/-- Copies of line 0 of address space 1: clusters 0 and 1 may hold it, its home is field 0 (R331, R332). -/
def cached (l : List (Nat × CLine)) (own : Nat) : State := { mapped with
  fab := { mapped.fab with
    clines := l.map fun e => (clineKey (4 * e.1) (lineAt 1 0), e.2)
    fdir := if own = 0 then [] else [(fdirKey 0 (lineAt 1 0), { FDir.none with own := [(inRegion (lineAt 1 0), own)] })] } }
def copyOf (st : Nat) : CLine := { CLine.none with st := st }
theorem asks_cached (l : List (Nat × CLine)) (own : Nat) (h : mayAsk (cached l own) 0 1 = true)
    (k : lineHome (cached l own) 0 (lineAt 1 0) = some (0, 0x40000, 0x4011E)) : Asks (cached l own) 0 1 0 0 0x40000 0x4011E :=
  ⟨h, k, by decide⟩
theorem witness_ProtocolSteps_reads : Asks (cached [] 0) 0 1 0 0 0x40000 0x4011E ∧ 2 < ((cached [] 0).copyAt 0 (lineAt 1 0)).st ∧ leafCc 0x4011E ≠ 0 ∧
    (Asks (cached [(1, copyOf 2)] 65) 0 1 0 0 0x40000 0x4011E ∧ OneOwner (cached [(1, copyOf 2)] 65) 0 (lineAt 1 0) ∧
      ownerOf (cached [(1, copyOf 2)] 65) 0 (lineAt 1 0) = some 1 ∧ ((cached [(1, copyOf 2)] 65).copyAt 1 (lineAt 1 0)).st ≤ 2 ∧
      (Tab.get PeerPred.none (cached [(1, copyOf 2)] 65).fab.peer (peerKey 0 (lineAt 1 0))).valid = false) ∧
    (let s := { cached [] 0 with tlb := [(tlbKey 1 0, leafZero)] }
     Asks s 0 1 0 0 0x40000 0x4001E ∧ leafCc 0x4001E = 0 ∧ 2 < (s.copyAt 0 (lineAt 1 0)).st ∧ (s.copyAt 0 (lineAt 1 0)).data = none ∧
       s.fab.l2 = [] ∧ (s.copyAt 0 (lineAt 1 0)).dirty = 0) :=
  ⟨asks_cached _ _ (by decide +kernel) (by decide +kernel), by decide +kernel, by decide +kernel,
    ⟨asks_cached _ _ (by decide +kernel) (by decide +kernel), .inr (by decide +kernel), by decide +kernel⟩,
    ⟨by decide +kernel, by decide +kernel, by decide⟩, by decide +kernel⟩
theorem witness_ProtocolSteps_writes : Direct (cached [] 0) (lineAt 1 0) 0x40000 (leafMk 0x4011E) ∧ (124 : Nat) / 128 = 0 ∧ (124 : Nat) % 2 ^ (2 : BitVec 3).toNat = 0 :=
  ⟨⟨by decide +kernel, by decide +kernel⟩, by decide, by decide⟩
theorem witness_ProtocolSteps_evictions :
    (Asks (cached [(0, copyOf 2)] 64) 0 1 0 0 0x40000 0x4011E ∧ OneOwner (cached [(0, copyOf 2)] 64) 0 (lineAt 1 0) ∧
      ((cached [(0, copyOf 2)] 64).copyAt 0 (lineAt 1 0)).st = 2 ∧ ownerOf (cached [(0, copyOf 2)] 64) 0 (lineAt 1 0) = some 0 ∧
      (cached [(0, copyOf 2)] 64).running = true) ∧
    (Asks (cached [(0, copyOf 1)] 64) 0 1 0 0 0x40000 0x4011E ∧ ((cached [(0, copyOf 1)] 64).copyAt 0 (lineAt 1 0)).st = 1 ∧
      Tab.get 0 ((cached [(0, copyOf 1)] 64).fdirAt 0 (lineAt 1 0)).own (inRegion (lineAt 1 0)) = 64) ∧
    (Asks (cached [(0, copyOf 2)] 0) 0 1 0 0 0x40000 0x4011E ∧ ownerOf (cached [(0, copyOf 2)] 0) 0 (lineAt 1 0) ≠ some 0) :=
  ⟨⟨asks_cached _ _ (by decide +kernel) (by decide +kernel), .inr (by decide +kernel), by decide +kernel⟩,
    ⟨asks_cached _ _ (by decide +kernel) (by decide +kernel), by decide +kernel⟩,
    asks_cached _ _ (by decide +kernel) (by decide +kernel), by decide +kernel⟩
theorem witness_ProtocolSteps_notices : (Tab.get 0 ((cached [] 64).fdirAt 0 (lineAt 1 0)).own (inRegion (lineAt 1 0)) = 64 + 0 % 48 ∧
      2 < ((cached [] 64).copyAt 0 (lineAt 1 0)).st ∧ lineHome (cached [] 64) 0 (lineAt 1 0) = some (0, 0x40000, 0x4011E)) ∧
    (let s := { cached [] 0 with fab := { (cached [] 0).fab with sdir := [(lineAt 1 0 / 512, { SDir.none with fown := [(inRegion (lineAt 1 0), 64)] })] } }
     Tab.get 0 (s.sdirAt (lineAt 1 0)).fown (inRegion (lineAt 1 0)) = 64 + 0 ∧ Tab.get 0 (s.fdirAt 0 (lineAt 1 0)).own (inRegion (lineAt 1 0)) = 0) ∧
    ((cached [(0, copyOf 0)] 0).copyAt 0 (lineAt 1 0)).st = 0 ∧ ((cached [(0, copyOf 0)] 0).copyAt 0 (lineAt 1 0)).data = none ∧
    mayAsk (cached [(1, copyOf 0)] 0) 0 1 = true ∧ 2 < ((cached [(1, copyOf 0)] 0).copyAt 0 (lineAt 1 0)).st ∧
    ((cached [(1, copyOf 0)] 0).copyAt 1 (lineAt 1 0)).st = 0 ∧ (1 : Nat) / 48 = 0 / 48 := by decide +kernel
theorem witness_ProtocolSteps_probe (n : Nat) (hn : n ≤ 2) : let loc := lineAt 1 0
    let s := { cached [(1, copyOf n)] 0 with fab := { (cached [(1, copyOf n)] 0).fab with peer := [(peerKey 0 loc, { valid := true, cluster := 1, conf := 2 })] } }
    (Tab.get PeerPred.none s.fab.peer (peerKey 0 loc)).valid = true ∧ 2 ≤ (Tab.get PeerPred.none s.fab.peer (peerKey 0 loc)).conf ∧
    (s.copyAt 1 loc).st = n := by
  refine ⟨by simp [Tab.get], by simp [Tab.get], ?_⟩
  interval_cases n <;> rfl
/-- Granule 1 of address space 1 at field 0, and room for it in field 1. -/
def movable : State := { base with
  granules := [(granuleKey 1 (2 ^ 21), Granule.first 0)]
  fields := base.fields ++ [(1, { Field.none with state := 0, frames := 64 })]
  parts := [(1, { Partition.none with live := true, fields := [(1, PartField.none)] })]
  fab := { base.fab with hops := [(1, 1)] } }
theorem witness_ProtocolSteps_migration : mayMove movable 1 1 1 = true ∧ (migrate (quiet movable) 1 1 1).isSome = true := by decide +kernel
/-- Partition 1 lends cluster 0 of field 0 to partition 2, or has lent it, and one of the two has a block to place. -/
def lending (lent : Bool) (waits : Nat) : State := { offered fun l => { l with state := 1 } with
  cores := [], time := 100000, ctxs := [(1, { Ctx.none with live := true, part := waits })]
  parts := [(1, { Partition.none with live := true, lendTo := 2, fields := [(0, { PartField.none with clusm := 1, clush := if lent then 0 else 1 })] }),
    (2, { Partition.none with live := true, borrow := 1, fields := [(0, { PartField.none with clush := if lent then 1 else 0 })] })] }
theorem witness_ProtocolSteps_lend : (let s := lending false 2
     s.running = true ∧ s.minimal = false ∧ (s.part 1).live = true ∧ (s.part 2).live = true ∧ (s.part 2).borrow = 1 ∧ unitWell s 0 false 0 = true ∧
     marginUnit (partField s 1 0) false 0 = true ∧ holdsUnit (partField s 1 0) false 0 = true ∧ (s.part 1).goal = none ∧
     idleLong s 0 false 0 = true ∧ waitsForRoom (quiet s) 1 = false ∧ waitsForRoom (quiet s) 2 = true) ∧
    (let t := lending true 1
     lentOut t 0 false 0 1 = true ∧ Tab.find t.revokes (revokeKey 0 false 0) = none ∧ waitsForRoom (quiet t) 1 = true ∧ unitIdle t 0 false 0 = true) ∧
    (let t := { lending true 1 with revokes := [(revokeKey 0 false 0, 5)] }
     revoking t 0 false 0 1 = true ∧ unitIdle t 0 false 0 = true) ∧
    overrun { base with parts := (lending true 1).parts, revokes := [(revokeKey 0 false 0, 5)], time := 25006 } 0 false 0 1 = true := by
  decide +kernel
/-- Field 0 whole, its units and an eighth of its memory held by partition 1. -/
def whole : Field := { Field.none with
  state := 0, cores := .allOnes 192, clusters := .allOnes 48, chan := 255, sect := 7, slices := .allOnes 24, banks := .allOnes 192, frames := 64, fcache := 64 }
def served : State := { base with
  fields := [(0, whole)]
  parts := [(1, { Partition.none with live := true, fields := [(0, { PartField.none with ethsh := 16, fcsh := 8, clus := 1, clush := 1 })] })]
  qps := [(0, { Qp.none with live := true })] }
theorem witness_ContextRequests_reply : serving served 0 = true ∧ (reply (quiet served) 0 1 []).svc = false ∧ (reply (quiet served) 0 18 []).svc = false := by
  decide +kernel
theorem witness_ContextRequests_new : CtxArgs served 0 3 1 1000 8 ∧ ¬ CtxArgs served 0 4 1 10 8 ∧
    (let s := { served with ctxs := [] }
     CtxArgs s 0 1 0 10 8 ∧ (s.ctxs.filter fun e => e.2.live).length < 4096 ∧
       ∃ c a, freshId s 0x10 0xFFF0 s.ctxs.length (fun c => (s.ctx c).live) = some c ∧ freshAsid { s with asids := [] } = some a) :=
  ⟨⟨by decide, by decide, by decide, by decide +kernel⟩, fun h => absurd h.maxsc (by decide), ⟨⟨by decide, by decide, by decide, by decide +kernel⟩,
    by decide +kernel, _, _, rfl, rfl⟩⟩
theorem witness_ContextRequests_full : let s := { served with ctxs := (List.range 4096).map fun i => (i, { Ctx.none with live := true }) }
    CtxArgs s 0 1 0 10 8 ∧ 4096 ≤ (s.ctxs.filter fun e => e.2.live).length := ⟨⟨by decide, by decide, by decide, by decide +kernel⟩, by decide +kernel⟩
/-- A second context of virtual function 0, without launches. -/
def second : State := { served with ctxs := served.ctxs ++ [(2, { Ctx.none with live := true, part := 1 })] }
theorem witness_ContextRequests_free : ownCtx second 0 3 = false ∧ (ownCtx second 0 1 = true ∧ liveLaunches second 1 ≠ []) ∧
    (ownCtx second 0 2 = true ∧ liveLaunches second 2 = [] ∧ (∀ e ∈ second.acts, e.2.live = true → e.2.ctx ≠ 2) ∧ 2 ≠ (second.vf 0).steward) := by decide +kernel
theorem witness_ContextRequests_asid : (let s := { second with asids := [] }
     ownCtx s 0 2 = true ∧ rootOk s (s.vf 0).part 8 = true ∧ (s.asids.filter fun e => e.2.live && e.2.owner == 2).length < 16 ∧ (freshAsid s).isSome = true) ∧
    (let s := { second with asids := (List.range 16).map fun i => (i + 1, { AsidEnt.none with live := true, owner := 2, root := 8 * i }) }
     ownCtx s 0 2 = true ∧ rootOk s (s.vf 0).part 128 = true ∧ 16 ≤ (s.asids.filter fun e => e.2.live && e.2.owner == 2).length) ∧
    ((second.asid 1).live = true ∧ (second.asid 1).vf = 0 ∧ asidBound second 1 = true) ∧
    (let s := { second with asids := [(2, { AsidEnt.none with live := true })] }
     (s.asid 2).live = true ∧ (s.asid 2).vf = 0 ∧ asidBound s 2 = false) ∧ (second.asid 9).live = false := by decide +kernel
theorem witness_ContextRequests_set : 255 < 256 ∧ 255 ≤ 255 ∧ (10001 : Nat) > 10000 ∧ (10000 : Nat) ≠ 0 ∧ (9 : Nat) < 10 ∧ 1000 < 1001 := by decide

theorem witness_PoolAndWindowRequests_gate : let s := gated served
    (255 < 256 ∧ bitOf (gateWord s (s.vf 0).part 255 0) 16 = true ∧ bitsOf (gateWord s (s.vf 0).part 255 0) 17 6 = 0 ∧
      (s.ctx (bitsOf (gateWord s (s.vf 0).part 255 0) 0 16)).live = true) ∧ bitOf (gateWord s (s.vf 0).part 254 0) 16 = false := by decide +kernel
theorem witness_PoolAndWindowRequests_pools : (Tab.find (served.part (served.vf 0).part).fields 0).isSome = true ∧
    2 * 4 ≤ (partField served (served.vf 0).part 0).fcsh ∧ (Tab.find (served.part (served.vf 0).part).fields 47).isSome = false := by decide +kernel
/-- Granules, and room in field 1. -/
def placing (g : List (Nat × Granule)) : State := { served with
  granules := g, fields := served.fields ++ [(1, whole)], fab := { served.fab with hops := [(1, 1)] }
  parts := [(1, { Partition.none with live := true, fields := [(0, PartField.none), (1, PartField.none)] })] }
def granule1 : List (Nat × Granule) := [(granuleKey 1 (2 ^ 21), Granule.first 0)]
theorem witness_PoolAndWindowRequests_place : ((placing []).asid 1).live = true ∧ ((placing []).asid 1).vf = 0 ∧ ((placing []).asid 2).live = false ∧
    granuleHome (placing []) 1 5 = none ∧ granuleHome (placing []) 1 0 = some 0 ∧ granuleHome (placing granule1) 1 1 = some 0 ∧
    granStore (placing granule1) 1 1 = false ∧ canTake (placing granule1) 1 1 2 = false ∧ canTake (placing granule1) 1 1 1 = true ∧
    (migrate (quiet (placing granule1)) 1 1 1).isSome = true := by
  decide +kernel
theorem witness_PoolAndWindowRequests_queues : QpArgs served 0 0 7 (2 ^ 24 - 1) 0 0 ∧ ¬ QpArgs served 0 48 0 0 0 0 ∧
    (∃ q, freshId { served with qps := [] } 0 (2 ^ 24) 0 (fun q => ({ served with qps := [] }.qp q).live) = some q) ∧
    ownQp served 0 1 = false ∧ (ownQp served 0 0 = true ∧ ∀ e ∈ (served.vf 0).wins, e.2.kind ≠ 0 → e.2.qpn ≠ 0) ∧
    (let s := served.setWin 0 0 { Win.none with w0 := 1 }
     ownQp s 0 0 = true ∧ ∃ e ∈ (s.vf 0).wins, e.2.kind ≠ 0 ∧ e.2.qpn = 0) ∧
    (let s := { served with qps := (List.range 8192).map fun i => (i, { Qp.none with live := true }) }
     QpArgs s 0 0 0 0 0 0 ∧ 8192 ≤ (s.qps.filter fun e => e.2.live && e.2.port == 0).length) :=
  ⟨⟨⟨by decide, by decide +kernel⟩, by decide, by decide⟩, fun h => absurd h.port.1 (by decide), ⟨_, rfl⟩, by decide +kernel, by decide +kernel,
    by decide +kernel, ⟨⟨by decide, by decide +kernel⟩, by decide, by decide⟩, by decide +kernel⟩
theorem witness_PoolAndWindowRequests_windows : (served.win 0 1022).kind = 0 ∧ winOk served 0 (winEntry (.ofNat 64 (1 + 2 ^ 48)) 0x10000 128 0 0 0) = true ∧
    winOk served 0 (winEntry (.ofNat 64 (1 + 2 ^ 48)) 0x10001 128 0 0 0) = false ∧
    (let s := served.setWin 0 1022 { Win.none with w0 := 1 }
     (s.win 0 1022).kind ≠ 0 ∧ winCmds s 0 1022 = [] ∧ ownQp s 0 0 = true ∧
       let r := bodyWith (fun y => { y with cmds := [cmdOf 7 (.put false false 0 0 32 1022) [0]] }) s
       winCmds r 0 1022 ≠ [] ∧ serving r 0 = true) := by decide +kernel

theorem witness_ControlRequests_rings : (1 : Nat) % 64 ≠ 0 ∧ 2 ^ 57 - 64 < 2 ^ 57 ∧ (2 ^ 57 - 64) % 64 = 0 ∧
    (ringOk 0x1000 64 (2 ^ 20) = true ∧ 7 < 8 ∧ 10 ≤ 24) ∧ ringOk 0x1000 63 (2 ^ 16) = false ∧ ringOk 0x1000 (2 ^ 16) (2 ^ 16) = true := by decide +kernel
theorem witness_ControlRequests_counters : ctrStatus 0 127 1 false = 0 ∧ ctrStatus 0 128 1 false ≠ 0 ∧ ctrStatus 0 0 1 true = 0 ∧
    (ownCtx second 0 2 = true ∧ dbgOk 7 (2 ^ 30) (.ofNat 64 (1 + 2 + 30 * 8)) = true ∧ dbgOk 0 0 3 = false) ∧
    (ownCtx second 0 3 = false ∧ ownCtx second 0 1 = true ∧ abortWaits second 1 0 = false ∧ abortNames second 1 9 = [] ∧ abortNames second 1 1 ≠ []) ∧
    (let s := second.modCtx 2 fun x => { x with levels := [emptyLevel] }
     ownCtx s 0 2 = true ∧ 1 ≤ (s.ctx 2).levels.length ∧
       ¬ ∃ e ∈ s.blocks, e.2.st = .resident ∧ e.2.halted = false ∧ (s.launch e.2.launch).ctx = 2) ∧
    (∃ e ∈ second.blocks, e.2.st = .resident ∧ e.2.halted = false ∧ (second.launch e.2.launch).ctx = 1) := by decide +kernel
theorem witness_ControlRequests_abort : let s := blkWith (fun k => { k with halted := true, pending := [[]] }) second
    ownCtx s 0 1 = true ∧ abortWaits s 1 0 = true := by decide +kernel

theorem witness_UnitsAndFailures_units : coreAlive served 191 = true ∧ (served.asid 1).live = true ∧ served.running = true ∧
    unitThere served { field := 0, kind := .core, num := 47, k := 3 } = true ∧ unitThere served { field := 0, kind := .cluster, num := 47, k := 0 } = true ∧
    unitThere served { field := 0, kind := .sector, num := 2, k := 0 } = true ∧ unitThere served { field := 0, kind := .channel, num := 7, k := 0 } = true ∧
    (neighbour 0 0 = some 8 ∧ (served.field 0).linkFailed.getLsbD 0 = false ∧ (served.field 0).state ≠ 4 ∧ (served.field 8).state ≠ 4) ∧
    served.boot.mode ≠ 1 ∧ (served.port 47).failed = false := by decide +kernel
theorem witness_UnitsAndFailures_more : neighbour 47 0 = none ∧ served.minimal = false ∧ (served.port 47).failed = false ∧
    (served.field 8).linkFailed.getLsbD (opposite 0) = false := by decide +kernel
def traced : State := served.modVf 0 fun f => { f with trace := { base := 0x1000, n := 64, wr := 0, drop := 0, state := 1 }, enables := 2, sampleK := 10 }
theorem witness_UnitsAndFailures_sample : sampleList traced 0 0 = [c0] ∧ traceOn traced 0 1 = true ∧
    (let w := (quiet traced).modCore 0 fun k => { k with sampleRot := Tab.put k.sampleRot 0 1 }
     (traceWrite w 0 0 (sampleBytes (wid w c0).toNat (c0.grp.launch w).lnum (c0.grp.ctx w) (sampleCode w c0).1 (sampleCode w c0).2.toNat
       traced.time (traced.thr c0).icount.toNat 0)).svc = false) := by decide +kernel

/-- A data window, or a launch window, of virtual function 0 at a page of class 2, on a queue pair whose port is up. -/
def listening (kind : Nat) (out : List OutOp) : State :=
  (({ served with qps := [(0, { Qp.none with live := true, out := out })], ports := [(0, { Port.none with up := true })] }).store 0x30008
    (toBytes 8 (2 + 4 + 8 + 512 + 2 ^ 16 * 5))).setWin 0 0 { Win.none with w0 := .ofNat 64 (kind + 2 ^ 48), w1 := 0x10000, w2 := 128 }
def request : InReq := { vf := 0, win := 0, qpn := 0, key := 0, off := 120, len := 8, data := List.replicate 8 7, imm := 0, add := 1, cmp := 0 }
theorem lands_of {s v : State} {id : Nat} {r : InReq} (a : landHeld s r = false) (b : landBytes s id r = v) (d : landHeld v r = false)
    (e : askedFor v id = false) : Lands s v id r := ⟨a, b, d, e⟩
theorem witness_NetworkSteps_write : let s := listening 1 []
    FirstOn s request ∧
    (∃ u v, inbound (requested s .write request) request 8 false false = (u, .ok) ∧ Lands u v (servedAs s request) request ∧ v.svc = false ∧ Departs v request) ∧
    (∃ u v, inbound (requested s .writeImm request) request 8 true false = (u, .ok) ∧ Lands u v (servedAs s request) request ∧ v.svc = false) ∧
    (let r := { request with key := 1 }
     FirstOn s r ∧ ∃ u, inbound (requested s .write r) r 8 false false = (u, .nak) ∧ u.svc = false ∧ Departs u r) ∧
    ∃ u, inbound (requested { s with ports := [] } .write request) request 8 false false = (u, .drop) ∧ u.svc = false :=
  ⟨fun e h => by simp [show (listening 1 []).served = [] by decide +kernel] at h,
    ⟨_, _, pair_of (by decide +kernel), lands_of (by decide +kernel) rfl (by decide +kernel) (by decide +kernel), by decide +kernel,
      by decide +kernel, by decide +kernel⟩,
    ⟨_, _, pair_of (by decide +kernel), lands_of (by decide +kernel) rfl (by decide +kernel) (by decide +kernel), by decide +kernel⟩,
    ⟨fun e h => by simp [show (listening 1 []).served = [] by decide +kernel] at h,
      _, pair_of (by decide +kernel), by decide +kernel, by decide +kernel, by decide +kernel⟩, _, pair_of (by decide +kernel), by decide +kernel⟩
-- a page that is not resident, for which there is no frame
theorem witness_NetworkSteps_later : let s := listening 1 []
    let t := ({ s with granules := [(granuleKey 1 0, Granule.first 1)] }.store 0x30008 (toBytes 8 (3 + 4 + 8 + 512 + 2 ^ 16 * (48 * 2 ^ 30)))).setWin 0 0
      { s.win 0 0 with w5 := 0x10000 }
    ∃ u, inbound (requested t .write request) request 8 false false = (u, .later) ∧ u.svc = false :=
  ⟨_, pair_of (by decide +kernel), by decide +kernel⟩
theorem witness_NetworkSteps_read : let s := listening 1 []
    ∃ u, inbound (requested s .read request) request 8 false false = (u, .ok) ∧ u.win 0 0 = s.win 0 0 ∧
      ∃ v, v.svc = false ∧ loadAt u (windowAgent u 0 (s.win 0 0)) ((s.win 0 0).lbase + 120) 8 3 false = (v, .bytes (List.replicate 8 0)) :=
  ⟨_, pair_of (by decide +kernel), by decide +kernel, _, by decide +kernel, pair_of (by decide +kernel)⟩
theorem witness_NetworkSteps_atomic : let s := listening 1 []
    ∃ u, inbound (requested s .add request) request 8 false true = (u, .ok) ∧ u.win 0 0 = s.win 0 0 ∧
      ∃ v, loadAt u (windowAgent u 0 (s.win 0 0)) ((s.win 0 0).lbase + 120) 8 3 false = (v, .bytes (List.replicate 8 0)) ∧
        ∃ w, storeTo v (windowAgent u 0 (s.win 0 0)) ((s.win 0 0).lbase + 120) 3 false false (toBytes 8 1) = (w, .done) ∧
          w.held.length = v.held.length ∧ w.svc = false :=
  ⟨_, pair_of (by decide +kernel), by decide +kernel, _, pair_of (by decide +kernel), _, pair_of (by decide +kernel), by decide +kernel, by decide +kernel⟩
theorem witness_NetworkSteps_pairs : let o : OutOp := { psn := 5, blk := 0, num := 0, kind := 9, thr := 0, reg := 0 }
    let s := listening 1 [o]
    reaches s 0 = true ∧ (∃ o ∈ (s.qp 0).out, o.psn = 5) ∧ (s.qp 0).out.find? (fun o => o.psn == 5 && (o.wantsData || o.kind == 9)) = some o ∧
    (giveData ((quiet s).setQp 0 { s.qp 0 with out := (s.qp 0).out.erase o, tries := 0, rnr := 0 }) o []).svc = false ∧ (s.qp 0).rnr < 7 ∧ 1 < (s.qp 0).rate ∧
    (s.qp 0).live = true ∧ (s.qp 0).err = false ∧ (s.qp 0).tries < 7 ∧ (s.port 0).up = true ∧ s.running = true ∧ s.ptpLocked = false ∧ s.time < 1 ∧
    (let t := { s with qps := [(0, { s.qp 0 with tries := 7, rnr := 7, rate := 1023 })] }
     reaches t 0 = true ∧ 7 ≤ (t.qp 0).rnr ∧ 7 ≤ (t.qp 0).tries ∧ (t.qp 0).rate < 1024) := by decide +kernel

def goodReport : FieldReport :=
  { noReport with selfTest := true, cores := .allOnes 192, clusters := .allOnes 48, channels := 255, sect := 7, linkUp := 15 }
def starts (lead : Nat) : StartReport :=
  { powerOk := true, magicOk := true, serviceOk := true, stall := none, deadLeads := 0, bmcTime := 0, service := []
    fields := List.replicate lead noReport ++ [goodReport]
    fuses := List.replicate 48 { cores := .allOnes 192, clusters := .allOnes 48, digest := 0, key := Config.sha512 [], minVersion := 0 } }
/-- A module whose slot B holds an image that its fuses accept. -/
def shelved : State := { State.reset with imageB := { bytes := [], key := [], version := 0, signed := Config.sha512 [] }, boot := { State.reset.boot with imgsel := 1 } }
theorem witness_StartAndOperator_start : State.reset.running = false ∧ State.reset.lockedOff = false ∧ State.reset.starting = false ∧
    (shipped (startFuses shelved (starts 47)) = true ∧ shelved.running = false ∧ shelved.lockedOff = false ∧ shelved.starting = false) ∧
    ({ State.reset with starting := true } : State).starting = true ∧ ({ starts 0 with stall := some 1 } : StartReport).stall = some 1 ∧
    ({ starts 0 with powerOk := false } : StartReport).magicOk = true ∧ ({ State.reset with lockedOff := true } : State).lockedOff = true := by
  decide +kernel
theorem witness_StartAndOperator_good : GoodStart { shelved with fuses := startFuses shelved (starts 47) } (starts 47) 47 1 :=
  { magicOk := rfl, powerOk := rfl, serviceOk := rfl, stall := rfl, field := by decide
    slot := by simp [bootSlot, slotOk, shelved, startFuses, starts, State.fuse, State.reset]
    healthy := by decide +kernel, alive := by decide +kernel
    first := fun f h _ => by
      have : ∀ f, f < 47 → (starts 47).fields.getD f noReport = noReport := by decide +kernel
      rw [this f h]; rfl }
theorem witness_StartAndOperator_operator : served.running = true ∧ served.minimal = false ∧
    (let s := { served with fields := served.fields ++ [(47, { whole with state := 1 })] }
     47 ≠ s.lead ∧ (s.field 47).state < 2 ∧ hopsOf s s.lead 47 = 0xFF) ∧
    (let f : List (Nat × PartField) := [(0, { PartField.none with clus := 2, bank := 1 })]
     (served.part 31).live = false ∧ banksEverywhere served f = true ∧ f.all (partFits served 31) = true) ∧
    (let f : List (Nat × PartField) := [(0, { PartField.none with clus := 3, bank := 3 })]
     (served.part 1).live = true ∧ (served.part 1).goal = none ∧ banksEverywhere served f = true ∧ f.all (partFits served 1) = true ∧
       resizeKeeps served 1 f = true ∧
       ({ served with parts := [(1, { (served.part 1) with goal := some f })] }.part 1).goal = some f) ∧
    (let s := { served with vfs := [] }
     (∀ e ∈ s.vfs, e.2.live = true → e.2.part ≠ 1) ∧
       (∀ e ∈ (s.part 1).fields, e.2.clusm &&& ~~~e.2.clush = 0 ∧ e.2.bankm &&& ~~~e.2.bankh = 0) ∧
       ((s.part 1).fields.foldl (fun u e => (borrowed s 1 e.1).foldl (fun u x => handUnit u e.1 x.1 x.2.1 1 x.2.2)
            (trimStore u 1 e.1 0)) (quiet s)).svc = false) ∧
    isSteward served 1 = true ∧ (resumeTarget (quiet served) 1 none).svc = false ∧ abortWaits served 1 0 = false ∧
    (anyPort { served with mgmt := [(0, { Port.none with up := true })] } 48).up = true := by decide +kernel
-- in minimal mode, a field that passes its self-test and one that does not
theorem witness_StartAndOperator_minimal : let s := { served with minimal := true, fuses := (starts 0).fuses }
    s.minimal = true ∧ s.running = true ∧ 47 ≠ s.lead ∧ (reportField (s.fuse 47) { goodReport with selfTest := false } 47).state = 4 ∧
    ({ s with fields := s.fields ++ [(47, whole)] }.field 47).state ≠ 4 ∧ (reportField (s.fuse 47) goodReport 47).state ≠ 4 := by
  decide +kernel

theorem witness_StepKeepsInvariant : let s := { base with inputs := [.ptpMessage 5] }
    Inv s ∧ ∃ t, step s = .next t :=
  ⟨⟨by decide +kernel, by decide +kernel, by decide +kernel, by decide +kernel, by decide +kernel, by decide +kernel, by decide +kernel,
    by decide +kernel⟩, _, rfl⟩
/-- The same thread at a NOP, or at a word that is none. -/
def nopWord : Nat := slotOf 0xFF000000 0x00FFFFFF 0
def placed (w : Nat) : State := { placeWord State.reset w with pick := { grp := .blk 0, thrs := [0] } }
def pick0 : Pick := { grp := .blk 0, thrs := [0] }
theorem fetches_of {s : State} {p : Pick} {l : BitVec 512} {i : Option Instr}
    (a : (match (fetchLine s ⟨p.grp, p.thrs.headD 0⟩ (lineOf (s.thr ⟨p.grp, p.thrs.headD 0⟩).pc)).2 with | .ok x => decide (x = l) | .error _ => false) = true)
    (b : (fetchLine s ⟨p.grp, p.thrs.headD 0⟩ (lineOf (s.thr ⟨p.grp, p.thrs.headD 0⟩).pc)).1.svc = false)
    (d : (lineWord l).extractLsb' 16 16 = lineParity l)
    (e : (if slotVoid l ((s.thr ⟨p.grp, p.thrs.headD 0⟩).pc.toNat % 8) = true then none
      else decode (lineSlot l ((s.thr ⟨p.grp, p.thrs.headD 0⟩).pc.toNat % 8))) = i) : ∃ u, Fetches s p u l i := by
  rcases h : fetchLine s ⟨p.grp, p.thrs.headD 0⟩ (lineOf (s.thr ⟨p.grp, p.thrs.headD 0⟩).pc) with ⟨u, x⟩
  rw [h] at a b
  cases x with
  | ok x => exact ⟨u, h.trans (by simp only [decide_eq_true_eq] at a; rw [a]), b, d, e.symm⟩
  | error _ => cases a
theorem picks (w : Nat) (hw : w = nopWord ∨ w = 0) : (placed w).inputs = [] ∧ (placed w).pick.co.isSecond = false ∧
    chooseOne (placed w) (actions (placed w)) = some (.pick pick0) := by
  rcases hw with rfl | rfl <;> decide +kernel
theorem witness_StepRunsDecoded : (∃ u, Fetches (begun (placed nopWord) pick0) pick0 u (.ofNat 512 (lineFor nopWord)) (some (.nop H))) ∧
    (∃ u, Fetches (begun (placed 0) pick0) pick0 u (.ofNat 512 (lineFor 0)) none) ∧
    (let s := { placed nopWord with pick := { (placed nopWord).pick with co := .second { keys := [], unit := .none } } }
     s.pick.co.isSecond = true ∧ ∃ u, Fetches s s.pick u (.ofNat 512 (lineFor nopWord)) (some (.nop H))) :=
  ⟨fetches_of (by decide +kernel) (by decide +kernel) (by decide +kernel) (by decide +kernel),
    fetches_of (by decide +kernel) (by decide +kernel) (by decide +kernel) (by decide +kernel), by decide +kernel,
    fetches_of (by decide +kernel) (by decide +kernel) (by decide +kernel) (by decide +kernel)⟩
theorem witness_StepRunsDecoded_else : (let s := { base with inputs := [.ptpMessage 5] }
     s.inputs = [.ptpMessage 5] ∧ s.pick.co.isSecond = false) ∧
    (State.reset.inputs = [] ∧ State.reset.pick.co.isSecond = false ∧ chooseOne State.reset (actions State.reset) = none) ∧
    Mapped mapped { threadAgent mapped c0 with blk := none } Acc.fetch 0xFFC0 64 leaf0 0x4FFC0 :=
  ⟨by decide +kernel, by decide +kernel,
    ⟨by decide +kernel, by decide +kernel, by decide +kernel, by decide +kernel, by decide +kernel, by decide +kernel, by decide +kernel, by decide +kernel,
      by decide +kernel⟩⟩

/-! ### Single instructions, with results worked out by hand from their rules -/

def after (i : Instr) (s : State) : State := match exec i s with
  | .next t => t
  | .fault _ | .refused _ => s
/-- Register n of the thread after an instruction, from registers g. -/
def gives (i : Instr) (g : Tab Word) (n : Nat) : Word := ((after i (worn fun t => { t with g := g })).thr c0).reg n

theorem test_iadd_wraps : gives (.iadd H (ai (.g 1) (.g 2) 0xFFFF)) [(2, 0)] 1 = 0xFFFFFFFF := by decide +kernel
theorem test_isub_same : gives (.isub H (abc (.g 1) (.g 2) (.g 1) .z)) [(1, 7), (2, 5)] 1 = 0xFFFFFFFE := by decide +kernel
theorem test_iaddc : let t := after (.iaddc H 4 (abc (.g 1) (.g 2) (.g 3) (.p 0))) (worn fun t => { t with g := [(2, 0xFFFFFFFF), (3, 0)] })
    (t.thr c0).reg 1 = 0 ∧ (t.thr c0).p = 0x10 := by decide +kernel
theorem test_isubb : let t := after (.isubb H 4 (abc (.g 1) (.g 2) (.g 3) (.p 5))) (worn fun t => { t with g := [(2, 3), (3, 4)] })
    (t.thr c0).reg 1 = 0xFFFFFFFF ∧ (t.thr c0).p = 0x10 := by decide +kernel
theorem test_imulh : gives (.imulh H (abc (.g 1) (.g 2) (.g 3) .z)) [(2, 0xFFFFFFFF), (3, 2)] 1 = 0xFFFFFFFF := by decide +kernel
theorem test_imulhu : gives (.imulhu H (abc (.g 1) (.g 2) (.g 3) .z)) [(2, 0xFFFFFFFF), (3, 2)] 1 = 1 := by decide +kernel
theorem test_idivs : gives (.idivs H (ai (.g 1) (.g 2) 2)) [(2, 0xFFFFFFF9)] 1 = 0xFFFFFFFD := by decide +kernel
theorem test_irems : gives (.irems H (ai (.g 1) (.g 2) 2)) [(2, 0xFFFFFFF9)] 1 = 0xFFFFFFFF := by decide +kernel
theorem test_idivu_zero : gives (.idivu H (abc (.g 1) (.g 2) .z .z)) [(2, 9)] 1 = 0xFFFFFFFF := by decide +kernel
theorem test_shl_width : gives (.shl H false (ai (.g 1) (.g 2) 32)) [(2, 1)] 1 = 0 := by decide +kernel
theorem test_sar_over : gives (.sar H false (ai (.g 1) (.g 2) 40)) [(2, 0x80000000)] 1 = 0xFFFFFFFF := by decide +kernel
theorem test_shl64_crosses : gives (.shl64 H false (ai (.g 4) (.g 2) 4)) [(2, 0xF0000000), (3, 0)] 5 = 0xF := by decide +kernel
theorem test_iadd64_carries : gives (.iadd64 H (abc (.g 2) (.g 2) (.g 4) .z)) [(2, 0xFFFFFFFF), (3, 1), (4, 1)] 3 = 2 := by decide +kernel
theorem test_clz_zero : gives (.clz H (abc (.g 1) (.g 2) .z .z)) [] 1 = 32 := by decide +kernel
theorem test_ctz : gives (.ctz H (abc (.g 1) (.g 2) .z .z)) [(2, 0x80)] 1 = 7 := by decide +kernel
theorem test_iset_signed : ((after (.iset H .lt (abc (.p 3) (.g 2) (.g 3) .z)) (worn fun t => { t with g := [(2, 0xFFFFFFFF)] })).thr c0).p = 8 := by
  decide +kernel
theorem test_fadd : gives (.fadd H RN (abc (.g 1) (.g 2) (.g 3) .z)) [(2, 0x3F800000), (3, 0x3F800000)] 1 = 0x40000000 := by decide +kernel
theorem test_hadd2 : gives (.hadd2 H RN (abc (.g 1) (.g 2) (.g 3) .z)) [(2, 0x3C003C00), (3, 0x40003C00)] 1 = 0x42004000 := by decide +kernel
theorem test_dmul_high : gives (.dmul H RN (abc (.g 2) (.g 4) (.g 6) .z)) [(5, 0x40000000), (7, 0x40080000)] 3 = 0x40180000 := by decide +kernel
theorem test_call_link : gives (.call H { f3 (.g 6) 0 with enr := false }) [] 6 = 1 := by decide +kernel
theorem test_guard_off : gives (.iadd { H with gp := 1 } (ai (.g 1) (.g 2) 5)) [] 1 = 0 := by decide +kernel
theorem test_st_bytes : let t := after (.st H (.g 4) (at_ 2 0x1000)) (worn fun t => { t with g := [(4, 0x11223344)] })
    t.bytes 0x40FFF 6 = [0, 0x44, 0x33, 0x22, 0x11, 0] := by decide +kernel
theorem test_ld_byte : gives (.ld H (.g 4) (at_ 0 0x3C)) [] 4 = 0x01 := by decide +kernel
theorem test_atom_old : let t := after (.atom H .add { fa (.g 1) 0x1000 with hint := .normal }) (worn fun t => { t with g := [(4, 5)] })
    t.bytes 0x41000 4 = [5, 0, 0, 0] ∧ (t.thr c0).reg 1 = 0 := by decide +kernel
theorem test_pmov_keeps_p0 : ((after (.pmov H true { abc .z (.g 2) .z .z with imm := 0xFFFF }) (worn fun t => { t with g := [(2, 0xFFFE)] })).thr c0).p.getLsbD 5 = true := by
  decide +kernel
theorem test_exit : ((after (.exit H 0) base).thr c0).st = .gone := by decide +kernel
theorem test_above_g : let t := after (.iadd H (ai (.g 64) (.g 2) 1)) (base.modBlk 0 fun b => { b with regs := 64 })
    ((t.thr c0).stop.map (·.code)) = some 0x101 ∧ (t.thr c0).reg 64 = 0 := by decide +kernel

/-! ### Records (R357, R468, R469) -/

theorem test_boot_record_bytes : (bootBytes Boot.fresh).length = 64 ∧ ofBytes ((bootBytes Boot.fresh).take 4) = 0x5A425231 ∧
    (bootBytes { Boot.fresh with pkgid := 7 }).getD 0x20 0 = 7 := by decide +kernel
theorem test_event_record_bytes :
    let l := eventBytes 3 { time := 5, gen := 6, unit := { field := 11, kind := .core, num := 9, k := 2 }, code := 0x403, nroll := 1, nfail := 1, nret := 0 }
    l.length = 64 ∧ ofBytes ((l.drop 0x18).take 2) = 9291 ∧ l.getD 0x28 0 = 2 ∧ l.getD 0x3E 0 = 5 := by decide +kernel
theorem test_journal_entry_bytes :
    let l := journalBytes { Launch.none with pkt := List.replicate 16 1, seq := 2, win := 3, vf := 4, ctx := 5, state := 1, landed := true, lnum := 6 }
    l.length = 256 ∧ ofBytes ((l.drop 0x88).take 8) = 3 + 4 * 2 ^ 10 + 5 * 2 ^ 16 + 2 ^ 32 + 2 ^ 36 ∧ l.getD 0x90 0 = 6 := by decide +kernel

end Sys2Proof.Tests
end

/-! PROOFS. Integer carries, divisions and shifts (R140 to R142): the model's results in the words of the statements,
and the instructions by them. -/

namespace Sys2Proof.Machine

open Sys2Proof

/-! ### Carries (R140) -/

/-- Settles O2: both instructions are `opCarry`, whose carry is the bit that leaves the word. -/
theorem carryChain : Obligations.CarryChain := by
  intro s c h f co hr hd
  exact ⟨opCarry_moves (i := .iaddc h co f) addCarry hr rfl hd, opCarry_moves (i := .isubb h co f) subBorrow hr rfl hd⟩

/-! ### Divisions (R141) -/

theorem remU_eq_sub (a b : Word) :
    remU a b = if b = 0 then a else .ofNat 32 (a.toNat - b.toNat * (a.toNat / b.toNat)) := by
  simp only [remU, Nat.mod_eq_sub]

/-- The one quotient that overflows is -2^31 / -1, which wraps to its dividend. -/
theorem divS_eq_cases (a b : Word) :
    divS a b = if b = 0 then 0xFFFFFFFF
      else if a = 0x80000000 ∧ b = 0xFFFFFFFF then 0x80000000 else .ofInt 32 (a.toInt.tdiv b.toInt) := by
  by_cases ho : a = 0x80000000 ∧ b = 0xFFFFFFFF
  · obtain ⟨rfl, rfl⟩ := ho
    decide
  · rw [if_neg ho]
    rfl

theorem remS_eq_cases (a b : Word) :
    remS a b = if b = 0 then a
      else if a = 0x80000000 ∧ b = 0xFFFFFFFF then 0 else .ofInt 32 (a.toInt - b.toInt * a.toInt.tdiv b.toInt) := by
  by_cases ho : a = 0x80000000 ∧ b = 0xFFFFFFFF
  · obtain ⟨rfl, rfl⟩ := ho
    decide
  · rw [if_neg ho, remS, Int.tmod_def]

/-- Settles O3, by each result in the words of R141. -/
theorem divisions : Obligations.Divisions := by
  intro s c i h f v hv hr hd
  unfold divValue at hv
  split at hv
  case h_1 =>
    cases hv
    exact opLate_moves (i := .idivu h f) (fun a b => divU a (immZ f b)) hr rfl hd
  case h_2 =>
    cases hv
    simp only [← divS_eq_cases]
    exact opLate_moves (i := .idivs h f) (fun a b => divS a (immS f b)) hr rfl hd
  case h_3 =>
    cases hv
    simp only [← remU_eq_sub]
    exact opLate_moves (i := .iremu h f) (fun a b => remU a (immZ f b)) hr rfl hd
  case h_4 =>
    cases hv
    simp only [← remS_eq_cases]
    exact opLate_moves (i := .irems h f) (fun a b => remS a (immS f b)) hr rfl hd
  case h_5 => cases hv

/-! ### Shifts (R142) -/

theorem shiftL_eq_ite {w : Nat} (wrap : Bool) (a : BitVec w) (n : Word) :
    shiftL wrap a n = if shiftCountOf w wrap n < w then a <<< shiftCountOf w wrap n else 0 := by
  simp only [shiftL, ← not_lt, ite_not]
  rfl

theorem shiftR_eq_ite {w : Nat} (wrap : Bool) (a : BitVec w) (n : Word) :
    shiftR wrap a n = if shiftCountOf w wrap n < w then a >>> shiftCountOf w wrap n else 0 := by
  simp only [shiftR, ← not_lt, ite_not]
  rfl

theorem shiftA_eq_ite {w : Nat} (wrap : Bool) (a : BitVec w) (n : Word) :
    shiftA wrap a n = if shiftCountOf w wrap n < w then a.sshiftRight (shiftCountOf w wrap n)
      else if a.msb then .allOnes w else 0 := by
  simp only [shiftA, ← not_lt, ite_not]
  rfl

/-- R142: the shifts of words. -/
theorem shiftValue_moves {s : State} {c : Cx} {i : Instr} {h : Hdr} {w : Bool} {f : F0} {v : Word → Nat → Word}
    (hv : shiftValue i = some (h, w, f, v)) (hr : Ready s c h (f0Srcs f 1 1 1) [(f.d, 1)]) (hd : isS f.d = false) :
    Moves s c h (f0Srcs f 1 1 1) (takes32 f.d (v (valA s c f) (shiftCountOf 32 w (zImm f (valB s c f))))) (exec i s) := by
  unfold shiftValue at hv
  split at hv
  case h_1 =>
    cases hv
    simp only [← shiftL_eq_ite]
    exact op32_moves (i := .shl h w f) (fun a b _ => shiftL w a (immZ f b)) hr rfl hd
  case h_2 =>
    cases hv
    simp only [← shiftR_eq_ite]
    exact op32_moves (i := .shr h w f) (fun a b _ => shiftR w a (immZ f b)) hr rfl hd
  case h_3 =>
    cases hv
    simp only [← shiftA_eq_ite]
    exact op32_moves (i := .sar h w f) (fun a b _ => shiftA w a (immZ f b)) hr rfl hd
  case h_4 => cases hv

/-- A 64-bit result of a pair and a word B. -/
theorem op64_word_moves {s : State} {c : Cx} {i : Instr} {h : Hdr} {f : F0} (v : Dword → Word → Dword)
    (hr : Ready s c h (f0Srcs f 2 1 1) [(f.d, 2)]) (hi : isLdq i = false) (hd : isS f.d = false) :
    Moves s c h (f0Srcs f 2 1 1) (takes64 f.d (v (rd64 s c f.a) (valB s c f)))
      (.next (issue (op64 i h f 1 fun a b => v a (b.setWidth 32)) s)) := by
  simpa using op64_moves (fun a b => v a (b.setWidth 32)) hr hi hd

/-- R142: the shifts of pairs, whose count is a word. -/
theorem shiftValue64_moves {s : State} {c : Cx} {i : Instr} {h : Hdr} {w : Bool} {f : F0} {v : Dword → Nat → Dword}
    (hv : shiftValue64 i = some (h, w, f, v)) (hr : Ready s c h (f0Srcs f 2 1 1) [(f.d, 2)]) (hd : isS f.d = false) :
    Moves s c h (f0Srcs f 2 1 1) (takes64 f.d (v (rd64 s c f.a) (shiftCountOf 64 w (zImm f (valB s c f))))) (exec i s) := by
  unfold shiftValue64 at hv
  split at hv
  case h_1 =>
    cases hv
    simp only [← shiftL_eq_ite]
    exact op64_word_moves (i := .shl64 h w f) (fun a b => shiftL w a (immZ f b)) hr rfl hd
  case h_2 =>
    cases hv
    simp only [← shiftR_eq_ite]
    exact op64_word_moves (i := .shr64 h w f) (fun a b => shiftR w a (immZ f b)) hr rfl hd
  case h_3 =>
    cases hv
    simp only [← shiftA_eq_ite]
    exact op64_word_moves (i := .sar64 h w f) (fun a b => shiftA w a (immZ f b)) hr rfl hd
  case h_4 => cases hv

/-- Settles O4: a count of the width or more is the other branch of each shift. -/
theorem shifts : Obligations.Shifts :=
  ⟨fun _ _ _ _ _ _ _ hv hr hd => shiftValue_moves hv hr hd, fun _ _ _ _ _ _ _ hv hr hd => shiftValue64_moves hv hr hd⟩

end Sys2Proof.Machine

/-! PROOFS. The predicate instructions and PMOV (R150): bits of the predicate file, and the wait of a PMOV for a
predicate still owed (R83). -/

namespace Sys2Proof.Machine

open Sys2Proof

/-! ### The predicate file bit by bit (R84, R150) -/

theorem getLsbD_setPred (p : BitVec 16) {i n : Nat} (hi : i ≠ 0) (hn : n < 16) (v : Bool) :
    (setPred p i v).getLsbD n = if i = n then v else p.getLsbD n := by
  have hbit : (BitVec.ofNat 16 (2 ^ i)).getLsbD n = decide (i = n) := by
    rw [BitVec.getLsbD_ofNat, Nat.testBit_two_pow, decide_eq_true hn, Bool.true_and]
  cases v with
  | false =>
    rw [setPred, if_neg hi, if_neg Bool.false_ne_true, BitVec.getLsbD_and, BitVec.getLsbD_not, hbit]
    by_cases he : i = n <;> simp [he, hn]
  | true =>
    rw [setPred, if_neg hi, if_pos rfl, BitVec.getLsbD_or, hbit]
    by_cases he : i = n <;> simp [he]

theorem predOf_setPred (p : BitVec 16) {i n : Nat} (hn : n < 16) (v : Bool) :
    predOf (setPred p i v) n = if i = n ∧ n ≠ 0 then v else predOf p n := by
  by_cases h0 : n = 0
  · simp [predOf, h0]
  · by_cases hi : i = 0
    · simp [setPred, hi, Ne.symm h0]
    · simp only [predOf, getLsbD_setPred p hi hn, beq_false_of_ne h0, Bool.false_or]
      simp [h0]

/-- The first k bits of a PMOV.set. -/
theorem predOf_foldl_setPred (p mask : BitVec 16) (a : Word) {n : Nat} (hn : n < 16) (k : Nat) :
    predOf ((List.range k).foldl (fun p i => if mask.getLsbD i then setPred p i (a.getLsbD i) else p) p) n =
      if n < k ∧ mask.getLsbD n = true ∧ n ≠ 0 then a.getLsbD n else predOf p n := by
  induction k with
  | zero => simp
  | succ k ih =>
    simp only [List.range_succ, List.foldl_append, List.foldl_cons, List.foldl_nil]
    by_cases hk : k = n
    · subst hk
      by_cases hm : mask.getLsbD k = true <;> simp [hm, predOf_setPred _ hn, ih]
    · have hlt : n < k + 1 ↔ n < k := by omega
      split <;> simp [predOf_setPred _ hn, ih, hk, hlt]

theorem predOf_setMasked (p mask : BitVec 16) (a : Word) {n : Nat} (hn : n < 16) :
    predOf (setMasked p mask a) n = if mask.getLsbD n && n != 0 then a.getLsbD n else predOf p n := by
  rw [setMasked, predOf_foldl_setPred p mask a hn 16]
  simp [hn]

theorem predWord_eq_or (p : BitVec 16) : predWord p = p.zeroExtend 32 ||| 1 := by
  simp [predWord, BitVec.setWidth_or]

theorem lo_zeroExtend (w : Word) : Dword.lo (w.zeroExtend 64) = w := by
  ext i hi
  simp [Dword.lo, show i < 64 by omega, BitVec.getLsbD_eq_getElem hi]

/-! ### What a PMOV waits for (R83) -/

theorem mem_pmovNeeds {dir : Bool} {mask : BitVec 16} {k : Nat} :
    k ∈ pmovNeeds dir mask ↔ ∃ n, 0 < n ∧ n < 16 ∧ (dir = true → mask.getLsbD n = true) ∧ k = 128 + n := by
  have hf (n : Nat) : (decide (n ≠ 0) && (!dir || mask.getLsbD n)) = true ↔ 0 < n ∧ (dir = true → mask.getLsbD n = true) := by
    cases dir <;> simp [Nat.pos_iff_ne_zero]
  simp only [pmovNeeds, List.mem_map, List.mem_filter, List.mem_range, hf]
  exact ⟨fun ⟨n, ⟨hn, h0, hd⟩, e⟩ => ⟨n, h0, hn, hd, e.symm⟩, fun ⟨n, h0, hn, hd, e⟩ => ⟨n, ⟨hn, h0, hd⟩, e.symm⟩⟩

theorem stillEmpty_pred (s : State) (c : Cx) {n : Nat} (hn : n < 16) : stillEmpty s c (128 + n) = predOwed (s.thr c) n := by
  have h1 : ¬ 128 + n < 128 := by omega
  have h2 : 128 + n < 256 := by omega
  simp only [stillEmpty, if_neg h1, if_pos h2, Nat.add_sub_cancel_left]

/-- The operation of a PMOV, as its issue sees it. -/
def pmovOp (h : Hdr) (dir : Bool) (f : F0) : Op :=
  { plainOp (.pmov h dir f) h (f0Srcs f 1 1 1) [(f.d, 1)] fun s c x =>
      if dir then (s.modThr c fun t => { t with p := setMasked t.p f.imm (x.getD 0 0).lo }, .seq)
      else put32 s c f.d (predWord (s.thr c).p) with waits := pmovNeeds dir f.imm }

theorem exec_pmov_eq (h : Hdr) (dir : Bool) (f : F0) (s : State) :
    exec (.pmov h dir f) s = .next (issue (pmovOp h dir f) s) := rfl

/-- A PMOV none of whose predicates is owed passes the checks of issue. -/
theorem pmov_passes {s : State} {c : Cx} {h : Hdr} {dir : Bool} {f : F0} (hr : Ready s c h (f0Srcs f 1 1 1) [(f.d, 1)])
    (hw : ∀ n, 0 < n → n < 16 → (dir = true → f.imm.getLsbD n = true) → predOwed (s.thr c) n = false) :
    Passes s c (pmovOp h dir f) where
  stands := hr.stands
  operands := hr.operands
  privilege := Nat.zero_le _
  ranges := rfl
  inside := fun hn => by cases hn
  slice := fun d q f e => by cases e
  pre := rfl
  interval := fun h => by cases h
  queue := queueInside_false hr.queues
  awaited := fun k hk => by
    obtain ⟨n, h0, hn, hd, rfl⟩ := mem_pmovNeeds.1 hk
    rw [stillEmpty_pred s c hn]
    exact hw n h0 hn hd

/-- R150: PMOV.get. -/
theorem pmovGet_moves {s : State} {c : Cx} {h : Hdr} {f : F0} (hr : Ready s c h (f0Srcs f 1 1 1) [(f.d, 1)])
    (hd : isS f.d = false) (hw : ∀ n, 0 < n → n < 16 → predOwed (s.thr c) n = false) :
    Moves s c h (f0Srcs f 1 1 1) (takes32 f.d ((s.thr c).p.zeroExtend 32 ||| 1)) (exec (.pmov h false f) s) := by
  rw [exec_pmov_eq, ← predWord_eq_or, ← begun_p (op := pmovOp h false f) hr.stands.execute]
  exact issue_moves (op := pmovOp h false f) _ (pmov_passes hr fun n h0 hn _ => hw n h0 hn)
    (put32_eq _ hr.stands.execute hd) (Keeps.takes32 _ _)

/-- R150: PMOV.set. -/
theorem pmovSet_moves {s : State} {c : Cx} {h : Hdr} {f : F0} (hr : Ready s c h (f0Srcs f 1 1 1) [(f.d, 1)])
    (hw : ∀ n, 0 < n → n < 16 → f.imm.getLsbD n = true → predOwed (s.thr c) n = false) :
    Moves s c h (f0Srcs f 1 1 1) (fun t => { t with p := setMasked (s.thr c).p f.imm (valA s c f) })
      (exec (.pmov h true f) s) := by
  rw [exec_pmov_eq]
  refine issue_moves (op := pmovOp h true f) _ (pmov_passes hr fun n h0 hn hm => hw n h0 hn (hm rfl)) ?_ fun _ _ _ => rfl
  have hv : ((rdSrcs s c (f0Srcs f 1 1 1)).getD 0 0).lo = valA s c f := by
    simp [rdSrcs_f0, lo_zeroExtend]
  rw [← hv, ← begun_p (op := pmovOp h true f) hr.stands.execute]
  rfl

/-! ### An instruction that cannot issue yet -/

/-- A thread that waits on what its instruction needs. -/
def stalled (s : State) (c : Cx) (op : Op) : Thread :=
  { s.thr c with st := .waiting (.retry (.empty (needs s c op.srcs op.dsts op.waits))) }

theorem issueOne_stalls {s : State} {c : Cx} {op : Op} (hs : Stands s c op.h) (ho : Operands s c op.srcs op.dsts)
    (hp : op.priv s c ≤ (c.grp.cslot s).priv) (hr : rangeEv s c op = none) (hq : queueInside c op = false)
    (he : sliceEv op.i false = none) (hm : mustWait s c op = true) : issueOne op s c = ⟨s.setThr c (stalled s c op), none⟩ := by
  have hl : limitEv s c.grp op = none := by simp [limitEv, ho.below]
  have hf : foreignTarget s c op = none := by simp [foreignTarget, hm]
  have ht : issueTrue op false s c = ⟨s.setThr c (stalled s c op), none⟩ := by
    simp only [issueTrue, if_neg (Nat.not_lt.2 hp), hf, hl, hr, hq, hm]
    rfl
  simp [issueOne, hs.running, hs.free, hs.clear, issueThread, hs.execute, he, hs.known, hs.guard, ht]

/-- R83: the thread stands at its instruction, and nothing but counters of the machine has changed. -/
theorem issue_stalls {s : State} {c : Cx} {op : Op} (hs : Stands s c op.h)
    (ho : issueOne op s c = ⟨s.setThr c (stalled s c op), none⟩) :
    (issue op s).thr c = stalled s c op ∧ Alone s (issue op s) c := by
  have hc := hs.execute
  have hi : issue op s = finishPick (countPick s (s.setThr c (stalled s c op)) c.grp [c.n]) c.grp [c.n] [] := by
    simp only [issue, hs.pick, Pick.groups, List.foldl, issueGroup, issueList, ho]
  obtain ⟨ps, he, hq⟩ := countPick_eq s (s.setThr c (stalled s c op)) c.grp [c.n]
  rw [he] at hq
  have ht := Alone.of_setThr (s := s) (c := c) (x := stalled s c op) hc (ps := ps)
    (fun q => by have h := hq q; simp only [State.setThr_fields] at h; exact h)
  have hw : pickWaits { s.setThr c (stalled s c op) with parts := ps } c.grp [c.n] = false := by
    simp only [pickWaits, List.any_cons, List.any_nil, Bool.or_false]
    rw [show (⟨c.grp, c.n⟩ : Cx) = c from rfl, ht.1]
    rfl
  rw [hi, he]
  simpa only [finishPick, hw, Bool.false_and, Bool.false_eq_true, if_false, takeEvents_nil] using ht

/-- R83: a PMOV one of whose predicates is owed waits to issue. -/
theorem pmov_stalls {s : State} {c : Cx} {h : Hdr} {dir : Bool} {f : F0} {n : Nat}
    (hr : Ready s c h (f0Srcs f 1 1 1) [(f.d, 1)]) (h0 : 0 < n) (hn : n < 16) (hd : dir = true → f.imm.getLsbD n = true)
    (hw : predOwed (s.thr c) n = true) :
    (issue (pmovOp h dir f) s).thr c = stalled s c (pmovOp h dir f) ∧ Alone s (issue (pmovOp h dir f) s) c := by
  have hm : mustWait s c (pmovOp h dir f) = true := by
    have : (pmovNeeds dir f.imm).any (stillEmpty s c) = true :=
      List.any_eq_true.2 ⟨128 + n, mem_pmovNeeds.2 ⟨n, h0, hn, hd, rfl⟩, by rw [stillEmpty_pred s c hn, hw]⟩
    simp [mustWait, pmovOp, this]
  exact issue_stalls hr.stands (issueOne_stalls hr.stands hr.operands (Nat.zero_le _) rfl (queueInside_false hr.queues) rfl hm)

/-- Settles O9: each predicate instruction is a `predOp` of the values of A and B, and PMOV moves the file bit by bit
once none of its predicates is owed. -/
theorem predicateResults : Obligations.PredicateResults := by
  intro s c h f hr
  refine ⟨fun n na nb hp => ?_, fun hd hw => pmovGet_moves hr hd hw, fun hw => ?_, fun dir n h0 hn hd hw => ?_⟩
  · have key (i : Instr) (hi : isLdq i = false) (v : Bool → Bool → Bool) : Moves s c h (f0Srcs f 1 1 1)
        (fun t => t.setP n.toNat (v (rdP s c f.a) (rdP s c f.b))) (.next (issue (predOp i h f v) s)) := by
      have := predOp_moves v hr hi (by rw [hp]; rfl)
      rwa [hp] at this
    exact ⟨key (.pand h na nb f) rfl _, key (.por h na nb f) rfl _, key (.pxor h na nb f) rfl _, key (.pnot h f) rfl _⟩
  · exact ⟨_, pmovSet_moves hr hw, fun n hn => predOf_setMasked _ _ _ hn⟩
  · obtain ⟨ht, ha⟩ := pmov_stalls (dir := dir) hr h0 hn hd hw
    refine ⟨_, exec_pmov_eq h dir f s, ?_, ?_, ?_, ?_, ha⟩ <;> rw [ht] <;> rfl

end Sys2Proof.Machine

/-! PROOFS. VOTE, BALLOT, MATCH and SHFL (R147, R148): what the last thread of a skein to arrive completes, for results
in g registers and predicates, and for a pair of s registers (R75). -/

namespace Sys2Proof.Machine

open Sys2Proof

/-! ### The participants -/

theorem mem_liveSk_self {s : State} {c : Cx} {h : Hdr} (hs : Stands s c h) : c.n ∈ s.liveSk c.grp c.skein := by
  simp only [State.liveSk, List.mem_filter]
  exact ⟨mem_live hs.execute (by rw [hs.running]; simp), by simp [Cx.skein]⟩

theorem skein_of_mem_liveSk {s : State} {g : Grp} {k m : Nat} (hm : m ∈ s.liveSk g k) : m / 64 = k := by
  simpa using (List.mem_filter.1 hm).2

theorem liveSk_sorted {s : State} {c : Cx} (hl : Last s c) : (s.liveSk c.grp c.skein).Pairwise (· < ·) := by
  rw [State.liveSk, live_eq]
  exact (hl.order.sublist (List.filter_sublist.map _)).filter _

theorem rdvOf_arrived {s : State} {c : Cx} {h : Hdr} {srcs : List Src} {dsts : List (Opd × Nat)} {r : Nat → Rdv} {m : Nat}
    (ho : Others s c r) (hm : m ∈ s.liveSk c.grp c.skein) : rdvOf (arrived s c h srcs dsts (r c.n) m) = some (r m) := by
  unfold arrived
  split
  · rename_i e
    simp only [rdvOf, standsAt_st, e]
  · rename_i e
    simp only [rdvOf, ho m hm e]

theorem launch_of_alone {s t : State} {c : Cx} (ha : Alone s t c) (g : Grp) : g.launch t = g.launch s := by
  have hb : g.block t = g.block s := by
    cases g with
    | act a => simp only [Grp.block]; rw [ha.acts a]
    | blk b => rfl
    | slice b k => rfl
  have hl : t.launches = s.launches := by rw [ha.rest]
  simp only [Grp.launch, hb, State.launch, hl]
  rw [ha.blocks (g.block s)]

/-! ### What completing writes to one thread -/

/-- v is u with c's thread changed by F, as far as a further update of that thread shows it. -/
def ThreadWrite (u v : State) (c : Cx) (F : Thread → Thread) : Prop :=
  ∀ P : Thread → Thread, v.modThr c P = u.modThr c fun x => P (F x)

theorem ThreadWrite.of_modThr {u : State} {c : Cx} (F : Thread → Thread) (hc : c.grp.isSlice = false) :
    ThreadWrite u (u.modThr c F) c F := fun P => by
  simp [State.setThr_setThr u c _ _ hc, State.thr_setThr_self u c _ hc]

theorem ThreadWrite.trans {u v w : State} {c : Cx} {F G : Thread → Thread} (h : ThreadWrite u v c F) (k : ThreadWrite v w c G) :
    ThreadWrite u w c fun x => G (F x) := fun P => by
  rw [k P, h]

theorem ThreadWrite.of_wr32 {u : State} {c : Cx} {d : Opd} (v : Word) (hc : c.grp.isSlice = false) (hd : isS d = false) :
    ThreadWrite u (wr32 u c d v) c (takes32 d v) := by
  cases d with
  | g n => exact ThreadWrite.of_modThr _ hc
  | s n => cases hd
  | _ => exact fun _ => rfl

theorem ThreadWrite.of_wr64 {u : State} {c : Cx} {d : Opd} (v : Dword) (hc : c.grp.isSlice = false) (hd : isS d = false) :
    ThreadWrite u (wr64 u c d v) c (takes64 d v) := by
  cases d with
  | g n => exact ThreadWrite.of_modThr _ hc
  | s n => cases hd
  | _ => exact fun _ => rfl

theorem ThreadWrite.of_wrRdv64 {u : State} {c : Cx} {d : Opd} (head : Nat) (v : Dword) (hc : c.grp.isSlice = false)
    (hd : isS d = false) : ThreadWrite u (wrRdv64 u c head d v) c (takes64 d v) := by
  rw [wrRdv64, hd, Bool.false_and, if_neg Bool.false_ne_true]
  exact ThreadWrite.of_wr64 v hc hd

theorem ThreadWrite.of_wrP {u : State} {c : Cx} (n : Nat) (v : Bool) (hc : c.grp.isSlice = false) :
    ThreadWrite u (wrP u c n v) c fun x => x.setP n v :=
  ThreadWrite.of_modThr _ hc

/-- Each participant takes its result and goes on: one update of each thread. -/
theorem foldl_threadWrite {g : Grp} (hg : g.isSlice = false) {f : Nat → State → State} {F : Nat → Thread → Thread} {l : Launch}
    {cyc : Nat} (ps : List Nat) (hf : ∀ u : State, ∀ n ∈ ps, g.launch u = l → ThreadWrite u (f n u) ⟨g, n⟩ (F n)) (t : State)
    (ht : t.cycle = cyc) (hl : g.launch t = l) :
    ps.foldl (fun u n => (f n u).modThr ⟨g, n⟩ (passOn u.cycle)) t =
      ps.foldl (fun u n => u.modThr ⟨g, n⟩ fun x => passOn cyc (F n x)) t := by
  induction ps generalizing t with
  | nil => rfl
  | cons n ps ih =>
    rw [List.foldl_cons, List.foldl_cons, hf t n List.mem_cons_self hl, ht]
    refine ih (fun u m hm => hf u m (List.mem_cons_of_mem _ hm)) _ ?_ ?_
    · simpa using ht
    · rw [State.modThr_eq, Grp.launch_setThr _ _ _ hg, hl]

/-- The last thread to arrive completes the rendezvous with a write W beside the threads and an update F of each
participant: the step leaves those threads, and what W leaves of memory and the skeins. -/
theorem meetOp_completes {s : State} {c : Cx} {i : Instr} {h : Hdr} {srcs : List Src} {dsts : List (Opd × Nat)} {r : Nat → Rdv}
    {F : Nat → Thread → Thread} {mk : State → Cx → List Dword → Rdv} (W : State → State)
    (hW : ∀ t m, (W t).thr ⟨c.grp, m⟩ = t.thr ⟨c.grp, m⟩)
    (hr : Ready s c h srcs dsts) (hi : isLdq i = false) (hl : Last s c) (ho : Others s c r)
    (hb : ∀ op, mk (begun op s c) c (rdSrcs s c srcs) = r c.n)
    (hx : ∀ t : State, (∀ m ∈ s.liveSk c.grp c.skein, rdvOf (t.thr ⟨c.grp, m⟩) = some (r m)) → t.cycle = s.cycle →
      c.grp.launch t = c.grp.launch s → completeRdv t c.grp c.skein (s.liveSk c.grp c.skein) =
        ((s.liveSk c.grp c.skein).foldl (fun u n => u.modThr ⟨c.grp, n⟩ fun x => passOn s.cycle (F n x)) (W t), none)) :
    (∀ m ∈ s.liveSk c.grp c.skein, (issue (meetOp i h srcs dsts mk) s).thr ⟨c.grp, m⟩ =
        passOn s.cycle (F m (arrived s c h srcs dsts (r c.n) m))) ∧
      ∃ t, Alone s t c ∧ Quiet (W t) (issue (meetOp i h srcs dsts mk) s) := by
  have hg := hr.stands.execute
  have hnd : (s.liveSk c.grp c.skein).Nodup := (live_nodup (last_above hl)).filter _
  have hc (t : State) (h1 : t.thr c = standsAt s (.rdv (r c.n)) (emptied dsts (issued s h srcs (s.thr c)))) (h2 : Alone s t c)
      (h3 : t.cycle = s.cycle) (h4 : t.liveSk c.grp c.skein = s.liveSk c.grp c.skein) :
      completeRdv t c.grp c.skein (t.liveSk c.grp c.skein) =
        ((s.liveSk c.grp c.skein).foldl (fun u n => u.modThr ⟨c.grp, n⟩ fun x => passOn s.cycle (F n x)) (W t), none) := by
    rw [h4]
    exact hx t (fun m hm => by rw [arrived_eq h1 h2 m, rdvOf_arrived ho hm]) h3 (launch_of_alone h2 c.grp)
  obtain ⟨hthr, t, h1, h2, h4, h3, hq⟩ := issue_completes (op := meetOp i h srcs dsts mk) (r := r c.n) (dsts := dsts)
    (ready_passes hr hi) hl (Prod.ext rfl (congrArg (fun r => Next.wait (.rdv r)) (hb _)))
    (fun m => passOn s.cycle (F m (arrived s c h srcs dsts (r c.n) m))) (fun t h1 h2 h3 h4 => by
      rw [hc t h1 h2 h3 h4]
      refine ⟨rfl, fun m hm => ⟨?_, rfl⟩⟩
      rw [thr_foldl_modThr hg _ _ hnd, if_pos hm, hW, arrived_eq h1 h2]
      rfl)
  rw [hc t h1 h2 h3 h4] at hq
  exact ⟨hthr, t, h2, (Quiet.of_foldl (fun u n => Quiet.of_modThr (c := ⟨c.grp, n⟩) _ hg) _ _).trans hq⟩

/-- A rendezvous whose completion writes each participant's own thread meets with those results. -/
theorem meets_of_threadWrite {s : State} {c : Cx} {i : Instr} {h : Hdr} {srcs : List Src} {dsts : List (Opd × Nat)} {r : Nat → Rdv}
    {F : Nat → Thread → Thread} {mk : State → Cx → List Dword → Rdv} (f : Nat → State → State)
    (hr : Ready s c h srcs dsts) (hi : isLdq i = false) (hl : Last s c) (ho : Others s c r)
    (hb : ∀ op, mk (begun op s c) c (rdSrcs s c srcs) = r c.n)
    (hx : ∀ t : State, (∀ m ∈ s.liveSk c.grp c.skein, rdvOf (t.thr ⟨c.grp, m⟩) = some (r m)) →
      completeRdv t c.grp c.skein (s.liveSk c.grp c.skein) =
        ((s.liveSk c.grp c.skein).foldl (fun u n => (f n u).modThr ⟨c.grp, n⟩ (passOn u.cycle)) t, none))
    (hf : ∀ u : State, ∀ n ∈ s.liveSk c.grp c.skein, c.grp.launch u = c.grp.launch s → ThreadWrite u (f n u) ⟨c.grp, n⟩ (F n)) :
    Meets s c h srcs dsts (r c.n) F (.next (issue (meetOp i h srcs dsts mk) s)) := by
  obtain ⟨hthr, t, ha, hq⟩ := meetOp_completes (F := F) (fun t => t) (fun _ _ => rfl) hr hi hl ho hb fun t ht hc hu => by
    rw [hx t ht, foldl_threadWrite hr.stands.execute _ hf t hc hu]
  exact ⟨_, rfl, hthr, fun a => by rw [hq.1, ha.bytes]⟩

/-! ### What each of the four completes -/

section
variable {t : State} {g : Grp} {k : Nat} {ps : List Nat} {r : Nat → Rdv}

theorem head_rdv (hne : ps ≠ []) (h : ∀ m ∈ ps, rdvOf (t.thr ⟨g, m⟩) = some (r m)) :
    (ps.head?.bind fun m => rdvOf (t.thr ⟨g, m⟩)) = some (r (ps.head hne)) := by
  rw [List.head?_eq_some_head hne, Option.bind_some, h _ (List.head_mem hne)]

theorem completeRdv_vote {d : BitVec 4} {mode : VoteMode} {p : Nat → Bool} (hne : ps ≠ [])
    (h : ∀ m ∈ ps, rdvOf (t.thr ⟨g, m⟩) = some (.vote (.p d) mode (p m))) :
    completeRdv t g k ps = (ps.foldl (fun u n => (wrP u ⟨g, n⟩ d.toNat
      (voteResult mode (ps.map fun m => (m % 64, p m)) (n % 64))).modThr ⟨g, n⟩ (passOn u.cycle)) t, none) := by
  simp only [completeRdv, head_rdv hne h]
  refine Prod.ext (List.foldl_ext _ _ _ fun u n hn => ?_) rfl
  simp only [h n hn]
  rw [List.filterMap_congr (g := fun m => some (m % 64, p m)), List.filterMap_eq_map']
  intro m hm
  simp only [h m hm]

theorem completeRdv_ballot {d : Opd} {p : Nat → Bool} (hne : ps ≠ [])
    (h : ∀ m ∈ ps, rdvOf (t.thr ⟨g, m⟩) = some (.ballot d (p m))) :
    completeRdv t g k ps = (ps.foldl (fun u n => (wrRdv64 u ⟨g, n⟩ (ps.headD 0) d
      (laneMask (ps.map fun m => (m % 64, p m)))).modThr ⟨g, n⟩ (passOn u.cycle)) t, none) := by
  simp only [completeRdv, head_rdv hne h]
  refine Prod.ext (List.foldl_ext _ _ _ fun u n hn => ?_) rfl
  simp only [h n hn]
  rw [List.filterMap_congr (g := fun m => some (m % 64, p m)), List.filterMap_eq_map']
  intro m hm
  simp only [h m hm]

theorem completeRdv_matchL {d : Opd} {a : Nat → Dword} (hne : ps ≠ [])
    (h : ∀ m ∈ ps, rdvOf (t.thr ⟨g, m⟩) = some (.matchL d (a m))) :
    completeRdv t g k ps = (ps.foldl (fun u n => (wrRdv64 u ⟨g, n⟩ (ps.headD 0) d
      (laneMask (ps.map fun m => (m % 64, a m == a n)))).modThr ⟨g, n⟩ (passOn u.cycle)) t, none) := by
  simp only [completeRdv, head_rdv hne h]
  refine Prod.ext (List.foldl_ext _ _ _ fun u n hn => ?_) rfl
  simp only [h n hn]
  rw [List.filterMap_congr (g := fun m => some (m % 64, a m)), List.filterMap_eq_map', List.map_map, Function.comp_def]
  intro m hm
  simp only [h m hm]

/-- R147: the participant whose lane m's mode and B name, if one has it. -/
def shflFrom (ps : List Nat) (mode : ShflMode) (w : BitVec 3) (width : Nat) (b : Nat → Word) (m : Nat) : Option Nat :=
  ps.find? fun n => n % 64 == shflSource mode w.toNat width (m % 64) (b m).toNat

theorem completeRdv_shfl {d : Opd} {mode : ShflMode} {w : BitVec 3} {pv : BitVec 4} {a b : Nat → Word} (hne : ps ≠ [])
    (h : ∀ m ∈ ps, rdvOf (t.thr ⟨g, m⟩) = some (.shfl d mode w pv (a m) (b m))) :
    completeRdv t g k ps = (ps.foldl (fun u n =>
      (wrP (wr32 u ⟨g, n⟩ d ((shflFrom ps mode w (g.launch u).width b n).elim (a n) a)) ⟨g, n⟩ pv.toNat
        (shflFrom ps mode w (g.launch u).width b n).isSome).modThr ⟨g, n⟩ (passOn u.cycle)) t, none) := by
  simp only [completeRdv, head_rdv hne h]
  refine Prod.ext (List.foldl_ext _ _ _ fun u n hn => ?_) rfl
  simp only [h n hn]
  rw [show (ps.find? fun m => m % 64 == shflSource mode w.toNat (g.launch u).width (n % 64) (b n).toNat) =
    shflFrom ps mode w (g.launch u).width b n from rfl]
  cases hs : shflFrom ps mode w (g.launch u).width b n with
  | none => rfl
  | some m => simp only [Option.bind_some, h m (List.mem_of_find?_eq_some hs)]; rfl

end

/-! ### The values, lane by lane -/

theorem getLsbD_laneMask (l : List (Nat × Bool)) {i : Nat} (hi : i < 64) :
    (laneMask l).getLsbD i = true ↔ ∃ e ∈ l, e.1 = i ∧ e.2 = true := by
  have hbit (j : Nat) : (BitVec.ofNat 64 (2 ^ j)).getLsbD i = decide (j = i) := by
    rw [BitVec.getLsbD_ofNat, Nat.testBit_two_pow, decide_eq_true hi, Bool.true_and]
  have key (l : List (Nat × Bool)) (x : Dword) :
      (l.foldl (fun m e => if e.2 then m ||| BitVec.ofNat 64 (2 ^ e.1) else m) x).getLsbD i = true ↔
        x.getLsbD i = true ∨ ∃ e ∈ l, e.1 = i ∧ e.2 = true := by
    induction l generalizing x with
    | nil => simp
    | cons e l ih =>
      rw [List.foldl_cons, ih, List.exists_mem_cons_iff]
      cases he : e.2 with
      | false => simp
      | true => rw [if_pos rfl, BitVec.getLsbD_or, hbit, Bool.or_eq_true, decide_eq_true_iff, and_iff_left rfl, or_assoc]
  rw [laneMask, key]
  simp

/-- The mask of the participants that satisfy q. -/
theorem getLsbD_laneMask_map (ps : List Nat) (q : Nat → Bool) {i : Nat} (hi : i < 64) :
    (laneMask (ps.map fun m => (m % 64, q m))).getLsbD i = true ↔ ∃ m ∈ ps, m % 64 = i ∧ q m = true := by
  simp only [getLsbD_laneMask _ hi, List.mem_map, exists_exists_and_eq_and]

theorem eq_laneMask_map {ps : List Nat} {q : Nat → Bool} {v : Dword}
    (hv : ∀ i, i < 64 → (v.getLsbD i = true ↔ ∃ m ∈ ps, m % 64 = i ∧ q m = true)) :
    v = laneMask (ps.map fun m => (m % 64, q m)) :=
  BitVec.eq_of_getLsbD_eq fun i hi => Bool.eq_iff_iff.2 ((hv i hi).trans (getLsbD_laneMask_map ps q hi).symm)

/-- Of one skein's participants in rising order the first has the lowest lane. -/
theorem elect_iff {k x : Nat} {xs : List Nat} (hs : (x :: xs).Pairwise (· < ·)) (hk : ∀ n ∈ x :: xs, n / 64 = k) {m : Nat}
    (hm : m ∈ x :: xs) : x % 64 = m % 64 ↔ ∀ n ∈ x :: xs, m % 64 ≤ n % 64 := by
  have hx (n : Nat) (hn : n ∈ x :: xs) : x % 64 ≤ n % 64 := by
    have h1 := hk x List.mem_cons_self
    have h2 := hk n hn
    rcases List.mem_cons.1 hn with rfl | hn
    · exact Nat.le_refl _
    · have := (List.pairwise_cons.1 hs).1 n hn
      omega
  exact ⟨fun e n hn => e ▸ hx n hn, fun h => Nat.le_antisymm (hx m hm) (h x List.mem_cons_self)⟩

theorem voteResult_iff_votes {k : Nat} {ps : List Nat} (hs : ps.Pairwise (· < ·)) (hk : ∀ n ∈ ps, n / 64 = k) (mode : VoteMode)
    (p : Nat → Bool) {m : Nat} (hm : m ∈ ps) :
    voteResult mode (ps.map fun n => (n % 64, p n)) (m % 64) = true ↔ votes mode ps p m := by
  cases mode with
  | any => simp [voteResult, votes]
  | all => simp [voteResult, votes]
  | uni => simp [voteResult, votes]
  | elect =>
    cases ps with
    | nil => cases hm
    | cons x xs => simpa [voteResult, votes] using elect_iff hs hk hm

/-! ### A pair of s registers takes the lowest lane's answer (R75) -/

/-- A pair of s registers takes a 64-bit value. -/
def setPairS (s : State) (g : Grp) (k n : Nat) (v : Dword) : State :=
  (s.setSreg g k n v.lo).setSreg g k (n + 1) v.hi

theorem thr_setPairS (s : State) (g : Grp) (k n : Nat) (v : Dword) (c : Cx) (hc : c.grp.isSlice = false) :
    (setPairS s g k n v).thr c = s.thr c := by
  simp only [setPairS, State.setSreg, State.modSk_eq, thr_setSk _ _ _ _ _ hc]

theorem sreg_setSreg (s : State) (g : Grp) (k n j : Nat) (v : Word) (hg : g.isSlice = false) :
    (s.setSreg g k n v).sreg g k j = if n = j then v else s.sreg g k j := by
  rcases sk_setSk s g k { s.sk g k with s := Tab.set 0 (s.sk g k).s n v } with h | ⟨b, i, rfl⟩
  · simp only [State.setSreg, State.modSk_eq, State.sreg, hg, Bool.false_eq_true, if_false, h, Tab.get_set]
  · cases hg

theorem sreg_setPairS (s : State) (g : Grp) (k n j : Nat) (v : Dword) (hg : g.isSlice = false) :
    (setPairS s g k n v).sreg g k j = if n + 1 = j then v.hi else if n = j then v.lo else s.sreg g k j := by
  rw [setPairS, sreg_setSreg _ _ _ _ _ _ hg, sreg_setSreg _ _ _ _ _ _ hg]

theorem mem_setPairS (s : State) (g : Grp) (k n : Nat) (v : Dword) : (setPairS s g k n v).mem = s.mem := by
  simp [setPairS]

theorem Quiet.sreg_eq {s t : State} (h : Quiet s t) (g : Grp) (k n : Nat) : t.sreg g k n = s.sreg g k n := by
  rw [State.sreg, State.sreg, h.2 g k]

/-- The lowest participant's write is the first; the others write nothing. -/
theorem foldl_wrRdv64_pair {g : Grp} {k : Nat} {n : BitVec 6} (w : Nat → Dword) {ps : List Nat} (hne : ps ≠ []) (hnd : ps.Nodup)
    (hk : ∀ m ∈ ps, m / 64 = k) (t : State) :
    ps.foldl (fun u m => (wrRdv64 u ⟨g, m⟩ (ps.headD 0) (.s n) (w m)).modThr ⟨g, m⟩ (passOn u.cycle)) t =
      ps.foldl (fun u m => u.modThr ⟨g, m⟩ (passOn t.cycle)) (setPairS t g k n.toNat (w (ps.headD 0))) := by
  cases ps with
  | nil => exact absurd rfl hne
  | cons x xs =>
    have hh : wrRdv64 t ⟨g, x⟩ x (.s n) (w x) = setPairS t g k n.toNat (w x) := by
      simp [wrRdv64, wr64, setPairS, Cx.skein, hk x List.mem_cons_self]
    rw [List.headD_cons, List.foldl_cons, List.foldl_cons, hh]
    refine foldl_modThr_congr (cyc := t.cycle) xs (fun u hu m hm => ?_) _ (by simp [setPairS])
    have hm : m ≠ x := fun e => (List.nodup_cons.1 hnd).1 (e ▸ hm)
    simp [wrRdv64, isS, hm, hu]

theorem arrived_uniform {s : State} {c : Cx} {h : Hdr} {srcs : List Src} {n : BitVec 6} {r : Rdv} (hl : Last s c) {m : Nat}
    (hm : m ∈ s.liveSk c.grp c.skein) : (arrived s c h srcs [(.s n, 2)] r m).pc = (s.thr c).pc ∧
      (arrived s c h srcs [(.s n, 2)] r m).g = (s.thr ⟨c.grp, m⟩).g ∧ (arrived s c h srcs [(.s n, 2)] r m).p = (s.thr ⟨c.grp, m⟩).p := by
  unfold arrived
  split
  · rename_i e
    subst e
    have he : emptied [(.s n, 2)] (issued s h srcs (s.thr c)) = issued s h srcs (s.thr c) := rfl
    refine ⟨by rw [standsAt_pc, he, issued_pc], ?_, ?_⟩ <;> rw [he, standsAt] <;> split <;> simp [issued, advanceQueues_eq]
  · exact ⟨hl.at_ m hm, rfl, rfl⟩

/-- A rendezvous that writes a pair of s registers: the lowest lane's answer, once for the skein. -/
theorem uniform_pair_completes {s : State} {c : Cx} {i : Instr} {h : Hdr} {srcs : List Src} {d : Opd} {n : BitVec 6} {r : Nat → Rdv}
    {mk : State → Cx → List Dword → Rdv} (w : Nat → Dword) (hd : d = .s n) (hr : Ready s c h srcs [(d, 2)]) (hi : isLdq i = false)
    (hl : Last s c) (ho : Others s c r) (hb : ∀ op, mk (begun op s c) c (rdSrcs s c srcs) = r c.n)
    (hx : ∀ t : State, (∀ m ∈ s.liveSk c.grp c.skein, rdvOf (t.thr ⟨c.grp, m⟩) = some (r m)) →
      completeRdv t c.grp c.skein (s.liveSk c.grp c.skein) = ((s.liveSk c.grp c.skein).foldl (fun u m =>
        (wrRdv64 u ⟨c.grp, m⟩ ((s.liveSk c.grp c.skein).headD 0) d (w m)).modThr ⟨c.grp, m⟩ (passOn u.cycle)) t, none)) :
    let t := issue (meetOp i h srcs [(d, 2)] mk) s
    let v := w ((s.liveSk c.grp c.skein).headD 0)
    t.sreg c.grp c.skein n.toNat = v.lo ∧ t.sreg c.grp c.skein (n.toNat + 1) = v.hi ∧
      (∀ k, k ≠ n.toNat → k ≠ n.toNat + 1 → t.sreg c.grp c.skein k = s.sreg c.grp c.skein k) ∧
      (∀ m ∈ s.liveSk c.grp c.skein, (t.thr ⟨c.grp, m⟩).st = .running ∧ (t.thr ⟨c.grp, m⟩).pc = nextPc (s.thr c).pc ∧
        (t.thr ⟨c.grp, m⟩).g = (s.thr ⟨c.grp, m⟩).g ∧ (t.thr ⟨c.grp, m⟩).p = (s.thr ⟨c.grp, m⟩).p) ∧
      ∀ a, Tab.get 0 t.mem a = Tab.get 0 s.mem a := by
  intro t' v
  subst hd
  have hg := hr.stands.execute
  have hnd : (s.liveSk c.grp c.skein).Nodup := (live_nodup (last_above hl)).filter _
  have hne : s.liveSk c.grp c.skein ≠ [] := List.ne_nil_of_mem (mem_liveSk_self hr.stands)
  obtain ⟨hthr, t, ha, hq⟩ := meetOp_completes (F := fun _ x => x) (fun t => setPairS t c.grp c.skein n.toNat v)
    (fun t m => thr_setPairS t _ _ _ _ ⟨c.grp, m⟩ hg) hr hi hl ho hb fun t ht hc _ => by
      rw [hx t ht, foldl_wrRdv64_pair w hne hnd (fun _ => skein_of_mem_liveSk) t, hc]
  have hs (k : Nat) : t'.sreg c.grp c.skein k =
      if n.toNat + 1 = k then v.hi else if n.toNat = k then v.lo else s.sreg c.grp c.skein k := by
    rw [hq.sreg_eq, sreg_setPairS _ _ _ _ _ _ hg, State.sreg, ha.skeins]
    rfl
  refine ⟨by simp [hs], by simp [hs], fun k h0 h1 => by simp [hs, Ne.symm h0, Ne.symm h1], fun m hm => ?_, fun a => ?_⟩
  · obtain ⟨hpc, hgr, hp⟩ := arrived_uniform (h := h) (srcs := srcs) (n := n) (r := r c.n) hl hm
    rw [hthr m hm]
    exact ⟨rfl, congrArg nextPc hpc, hgr, hp⟩
  · rw [hq.1, mem_setPairS, ha.bytes]

/-! ### The instructions -/

section
variable {s : State} {c : Cx} {h : Hdr} {f : F0}

/-- R148: VOTE. -/
theorem vote_meets {mode : VoteMode} {p : Nat → Bool} {d : BitVec 4} (hl : Last s c) (hd : f.d = .p d)
    (hr : Ready s c h (f0Srcs f 1 1 1) [(f.d, 1)]) (hp : p c.n = rdP s c f.a) (ho : Others s c fun m => .vote f.d mode (p m)) :
    Meets s c h (f0Srcs f 1 1 1) [(f.d, 1)] (.vote f.d mode (p c.n))
      (fun m t => t.setP d.toNat (voteResult mode ((s.liveSk c.grp c.skein).map fun n => (n % 64, p n)) (m % 64)))
      (exec (.vote h mode f) s) := by
  have hg := hr.stands.execute
  have hne : s.liveSk c.grp c.skein ≠ [] := List.ne_nil_of_mem (mem_liveSk_self hr.stands)
  refine meets_of_threadWrite (r := fun m => .vote f.d mode (p m)) _ hr rfl hl ho (fun op => ?_)
    (fun t ht => completeRdv_vote hne (by simpa only [hd] using ht)) fun u m _ _ => ThreadWrite.of_wrP _ _ hg
  rw [begun_rdP hg, hp]

/-- R148: BALLOT into g registers. -/
theorem ballot_meets {p : Nat → Bool} (hl : Last s c) (hd : isS f.d = false) (hr : Ready s c h (f0Srcs f 1 1 1) [(f.d, 2)])
    (hp : p c.n = rdP s c f.a) (ho : Others s c fun m => .ballot f.d (p m)) :
    Meets s c h (f0Srcs f 1 1 1) [(f.d, 2)] (.ballot f.d (p c.n))
      (fun _ => takes64 f.d (laneMask ((s.liveSk c.grp c.skein).map fun m => (m % 64, p m)))) (exec (.ballot h f) s) := by
  have hg := hr.stands.execute
  have hne : s.liveSk c.grp c.skein ≠ [] := List.ne_nil_of_mem (mem_liveSk_self hr.stands)
  refine meets_of_threadWrite (r := fun m => .ballot f.d (p m)) _ hr rfl hl ho (fun op => ?_)
    (fun t ht => completeRdv_ballot hne ht) fun u m _ _ => ThreadWrite.of_wrRdv64 _ _ hg hd
  rw [begun_rdP hg, hp]

/-- The value MATCH compares: A, or the pair at A. -/
theorem matchL_source (w64 : Bool) : (rdSrcs s c (f0Srcs f (if w64 then 2 else 1) 1 1)).getD 0 0 =
    if w64 then rd64 s c f.a else (valA s c f).zeroExtend 64 := by
  rw [rdSrcs_f0]
  cases w64 <;> rfl

/-- R148: MATCH into g registers. -/
theorem matchL_meets {w64 : Bool} {a : Nat → Dword} (hl : Last s c) (hd : isS f.d = false)
    (hr : Ready s c h (f0Srcs f (if w64 then 2 else 1) 1 1) [(f.d, 2)])
    (ha : a c.n = if w64 then rd64 s c f.a else (valA s c f).zeroExtend 64) (ho : Others s c fun m => .matchL f.d (a m)) :
    Meets s c h (f0Srcs f (if w64 then 2 else 1) 1 1) [(f.d, 2)] (.matchL f.d (a c.n))
      (fun m => takes64 f.d (laneMask ((s.liveSk c.grp c.skein).map fun n => (n % 64, a n == a m))))
      (exec (.matchL h w64 f) s) := by
  have hg := hr.stands.execute
  have hne : s.liveSk c.grp c.skein ≠ [] := List.ne_nil_of_mem (mem_liveSk_self hr.stands)
  refine meets_of_threadWrite (r := fun m => .matchL f.d (a m)) _ hr rfl hl ho (fun op => ?_)
    (fun t ht => completeRdv_matchL hne ht) fun u m _ _ => ThreadWrite.of_wrRdv64 _ _ hg hd
  rw [matchL_source, ha]

/-- R147: SHFL. -/
theorem shfl_meets {mode : ShflMode} {w : BitVec 3} {pv : BitVec 4} {a b : Nat → Word} (hl : Last s c) (hd : isS f.d = false)
    (hr : Ready s c h (f0Srcs f 1 1 1) [(f.d, 1), (.p pv, 1)]) (ha : a c.n = valA s c f) (hb : b c.n = zImm f (valB s c f))
    (ho : Others s c fun m => .shfl f.d mode w pv (a m) (b m)) :
    Meets s c h (f0Srcs f 1 1 1) [(f.d, 1), (.p pv, 1)] (.shfl f.d mode w pv (a c.n) (b c.n))
      (fun m t => (takes32 f.d ((shflFrom (s.liveSk c.grp c.skein) mode w (c.grp.launch s).width b m).elim (a m) a) t).setP pv.toNat
        (shflFrom (s.liveSk c.grp c.skein) mode w (c.grp.launch s).width b m).isSome)
      (exec (.shfl h mode w pv f) s) := by
  have hg := hr.stands.execute
  have hne : s.liveSk c.grp c.skein ≠ [] := List.ne_nil_of_mem (mem_liveSk_self hr.stands)
  refine meets_of_threadWrite (r := fun m => .shfl f.d mode w pv (a m) (b m)) _ hr rfl hl ho (fun op => ?_)
    (fun t ht => completeRdv_shfl hne ht) fun u m _ hu => ?_
  · rw [ha, hb, rdSrcs_f0]
    simp only [List.getD_cons_zero, List.getD_cons_succ, OfNat.one_ne_ofNat, if_false, lo_zeroExtend]
    rfl
  · rw [hu]
    exact (ThreadWrite.of_wr32 (c := ⟨c.grp, m⟩) _ hg hd).trans (ThreadWrite.of_wrP _ _ hg)

end

/-- Settles O11: the last thread to arrive completes the rendezvous of all live threads of its skein. -/
theorem votesAndShuffles : Obligations.VotesAndShuffles := by
  refine ⟨fun s c h f hl => ⟨fun mode p d hd hr hp ho => ?_, fun p hd hr hp ho => ?_, fun w64 a hd hr ha ho => ?_⟩,
    fun s c h f mode w pv a b hl hd hr ha hb ho => ?_, fun s c i h f srcs r v n hl hd hr ho hcase => ?_⟩
  · exact ⟨_, fun m hm => voteResult_iff_votes (liveSk_sorted hl) (fun _ => skein_of_mem_liveSk) mode p hm,
      vote_meets hl hd hr hp ho⟩
  · exact ⟨_, fun i hi => getLsbD_laneMask_map _ p hi, ballot_meets hl hd hr hp ho⟩
  · exact ⟨_, fun m _ i hi => by simpa using getLsbD_laneMask_map _ (fun n => a n == a m) hi, matchL_meets hl hd hr ha ho⟩
  · refine ⟨shflFrom (s.liveSk c.grp c.skein) mode w (c.grp.launch s).width b, fun m _ n hn => ?_, fun m _ hn n hmem => ?_, ?_⟩
    · exact ⟨List.mem_of_find?_eq_some hn, by simpa using List.find?_some hn⟩
    · simpa using List.find?_eq_none.1 hn n hmem
    · have hF := shfl_meets hl hd hr ha hb ho
      convert hF using 3 with m
      cases shflFrom (s.liveSk c.grp c.skein) mode w (c.grp.launch s).width b m <;> rfl
  · have hne : s.liveSk c.grp c.skein ≠ [] := List.ne_nil_of_mem (mem_liveSk_self hr.stands)
    rcases hcase with ⟨p, rfl, rfl, hp, rfl, hv⟩ | ⟨w64, a, rfl, rfl, ha, rfl, hv⟩
    · have hm := eq_laneMask_map hv
      subst hm
      exact ⟨_, rfl, uniform_pair_completes (r := fun m => .ballot f.d (p m)) (fun _ => _) hd hr rfl hl ho
        (fun op => by rw [begun_rdP hr.stands.execute, hp]) fun t ht => completeRdv_ballot hne ht⟩
    · have hm := eq_laneMask_map (q := fun m => a m == a ((s.liveSk c.grp c.skein).headD 0)) (by simpa using hv)
      subst hm
      exact ⟨_, rfl, uniform_pair_completes (r := fun m => .matchL f.d (a m))
        (fun n => laneMask ((s.liveSk c.grp c.skein).map fun m => (m % 64, a m == a n))) hd hr rfl hl ho
        (fun op => by rw [matchL_source, ha]) fun t ht => completeRdv_matchL hne ht⟩

end Sys2Proof.Machine
